-- ==== Sys2Proof/Word.lean ====
section
/-! DEFINITION. The word types of the machine (spec R11, R440, R40, R41): bytes, words, doublewords and the register
numbers, all plain bit strings. The spec numbers bits from the MOST significant one (bit 0); the helpers that follow
that numbering stand in Machine/Bits.lean. -/

namespace Sys2Proof

/-- One byte of memory. -/
abbrev Byte := BitVec 8

/-- A 32-bit word: a general register, a special register, an address, an instruction (R40, R440). -/
abbrev Word := BitVec 32

/-- A 64-bit doubleword: a floating-point register (R41). -/
abbrev DWord := BitVec 64

/-- The number of a general or floating-point register, or of a condition register bit. -/
abbrev Reg := BitVec 5

/-- The number of a condition register field (or an FPSCR field). -/
abbrev CrField := BitVec 3

end Sys2Proof
end

