-- ==== Sys2Proof/Machine/Bits.lean ====
section
/-! DEFINITION. Bit fields in the spec's numbering (R11, R440): bit 0 is the most significant bit of the value.
Every other file takes bits, fields and extensions from here. -/

namespace Sys2Proof

/-- Bit `i` of a value, bit 0 being the most significant one (R11). -/
def bitAt {w : Nat} (x : BitVec w) (i : Nat) : Bool := x.getMsbD i

/-- The one-bit string of a condition. -/
def ofBit (b : Bool) : BitVec 1 := BitVec.ofBool b

/-- The `len` bits of a word that begin at bit `first` (R440: `I[first : first+len-1]`). -/
def field {w : Nat} (x : BitVec w) (first len : Nat) : BitVec len := x.extractLsb' (w - first - len) len

/-- The word that has the single bit `i` set. -/
def maskBit (i : Nat) : Word := (0x80000000 : Word) >>> i

/-- `x` with bit `i` (counted from the most significant) made `b`. -/
def setBit (x : Word) (i : Nat) (b : Bool) : Word :=
  if b then x ||| maskBit i else x &&& ~~~ maskBit i

/-- `old` with the bits of `mask` taken from `new`. -/
def merge {w : Nat} (mask old new : BitVec w) : BitVec w := (old &&& ~~~ mask) ||| (new &&& mask)

/-- The value of a condition as a word: 1 or 0. -/
def boolWord (b : Bool) : Word := if b then 1 else 0

/-- A signed 16-bit immediate as a word (R443: `sext_16`). -/
def sext16 (x : BitVec 16) : Word := x.signExtend 32

/-- An unsigned 16-bit immediate as a word (R443: `0x0000 || UIMM`). -/
def zext16 (x : BitVec 16) : Word := x.setWidth 32

/-- A 16-bit immediate placed in the high half (R443, used by `addis`, `oris` and the like). -/
def high16 (x : BitVec 16) : Word := x ++ (0 : BitVec 16)

/-- The four bytes of a word, the most significant first (R210). -/
def wordBytes (x : Word) : List Byte := [field x 0 8, field x 8 8, field x 16 8, field x 24 8]

/-- The two bytes of a halfword, the more significant first (R210). -/
def halfBytes (x : BitVec 16) : List Byte := [field x 0 8, field x 8 8]

/-- The eight bytes of a doubleword, the most significant first (R210). -/
def dwordBytes (x : DWord) : List Byte :=
  [field x 0 8, field x 8 8, field x 16 8, field x 24 8, field x 32 8, field x 40 8, field x 48 8, field x 56 8]

/-- The value of a list of bytes, the first the most significant, cut to `w` bits (R210). -/
def bytesVal (w : Nat) (bs : List Byte) : BitVec w :=
  BitVec.ofNat w (bs.foldl (fun acc b => acc * 256 + b.toNat) 0)

end Sys2Proof
end

