-- ==== Sys2Proof/Syntax.lean ====
section
/-! DEFINITION. The instruction set as syntax: one constructor for each row of spec/opcode_table.json (184 rows,
R465, R468), its operands in the assembler's order (R464). Operand names and widths are those of the spec's field
glossary (R443); an SPR number is the plain number, its halves already put in order (R455). The record bit `rc` stays an
operand of the forms whose behaviour with bit 31 set the spec gives (R444, R454, R682). -/

namespace Sys2Proof

/-- The instructions of the 750FX, one constructor per row of the opcode table. -/
inductive Instr
  -- Integer arithmetic and compare (40_integer_arith.md)
  /-- `addi` (R502). -/
  | addi (rD rA : Reg) (simm : BitVec 16)
  /-- `addis` (R503). -/
  | addis (rD rA : Reg) (simm : BitVec 16)
  /-- `addic` (R506). -/
  | addic (rD rA : Reg) (simm : BitVec 16)
  /-- `addic.` (R507). -/
  | addicRc (rD rA : Reg) (simm : BitVec 16)
  /-- `subfic` (R508). -/
  | subfic (rD rA : Reg) (simm : BitVec 16)
  /-- `mulli` (R518). -/
  | mulli (rD rA : Reg) (simm : BitVec 16)
  /-- `add` (R504). -/
  | add (rD rA rB : Reg) (oe rc : Bool)
  /-- `subf` (R505). -/
  | subf (rD rA rB : Reg) (oe rc : Bool)
  /-- `addc` (R509). -/
  | addc (rD rA rB : Reg) (oe rc : Bool)
  /-- `subfc` (R510). -/
  | subfc (rD rA rB : Reg) (oe rc : Bool)
  /-- `adde` (R511). -/
  | adde (rD rA rB : Reg) (oe rc : Bool)
  /-- `subfe` (R512). -/
  | subfe (rD rA rB : Reg) (oe rc : Bool)
  /-- `addme` (R513). -/
  | addme (rD rA : Reg) (oe rc : Bool)
  /-- `subfme` (R514). -/
  | subfme (rD rA : Reg) (oe rc : Bool)
  /-- `addze` (R515). -/
  | addze (rD rA : Reg) (oe rc : Bool)
  /-- `subfze` (R516). -/
  | subfze (rD rA : Reg) (oe rc : Bool)
  /-- `neg` (R517). -/
  | neg (rD rA : Reg) (oe rc : Bool)
  /-- `mullw` (R519). -/
  | mullw (rD rA rB : Reg) (oe rc : Bool)
  /-- `mulhw` (R520). -/
  | mulhw (rD rA rB : Reg) (rc : Bool)
  /-- `mulhwu` (R521). -/
  | mulhwu (rD rA rB : Reg) (rc : Bool)
  /-- `divw` (R522). -/
  | divw (rD rA rB : Reg) (oe rc : Bool)
  /-- `divwu` (R523). -/
  | divwu (rD rA rB : Reg) (oe rc : Bool)
  /-- `cmpi` (R524). -/
  | cmpi (crfD : CrField) (l : Bool) (rA : Reg) (simm : BitVec 16)
  /-- `cmp` (R525). -/
  | cmp (crfD : CrField) (l : Bool) (rA rB : Reg)
  /-- `cmpli` (R526). -/
  | cmpli (crfD : CrField) (l : Bool) (rA : Reg) (uimm : BitVec 16)
  /-- `cmpl` (R527). -/
  | cmpl (crfD : CrField) (l : Bool) (rA rB : Reg)
  -- Integer logical, rotate and shift (41_integer_logical_rotate_shift.md)
  /-- `andi.` (R550). -/
  | andiRc (rA rS : Reg) (uimm : BitVec 16)
  /-- `andis.` (R551). -/
  | andisRc (rA rS : Reg) (uimm : BitVec 16)
  /-- `ori` (R552). -/
  | ori (rA rS : Reg) (uimm : BitVec 16)
  /-- `oris` (R553). -/
  | oris (rA rS : Reg) (uimm : BitVec 16)
  /-- `xori` (R554). -/
  | xori (rA rS : Reg) (uimm : BitVec 16)
  /-- `xoris` (R555). -/
  | xoris (rA rS : Reg) (uimm : BitVec 16)
  /-- `and` (R556). -/
  | and (rA rS rB : Reg) (rc : Bool)
  /-- `or` (R557). -/
  | or (rA rS rB : Reg) (rc : Bool)
  /-- `xor` (R558). -/
  | xor (rA rS rB : Reg) (rc : Bool)
  /-- `nand` (R559). -/
  | nand (rA rS rB : Reg) (rc : Bool)
  /-- `nor` (R560). -/
  | nor (rA rS rB : Reg) (rc : Bool)
  /-- `eqv` (R561). -/
  | eqv (rA rS rB : Reg) (rc : Bool)
  /-- `andc` (R562). -/
  | andc (rA rS rB : Reg) (rc : Bool)
  /-- `orc` (R563). -/
  | orc (rA rS rB : Reg) (rc : Bool)
  /-- `extsb` (R564). -/
  | extsb (rA rS : Reg) (rc : Bool)
  /-- `extsh` (R565). -/
  | extsh (rA rS : Reg) (rc : Bool)
  /-- `cntlzw` (R566). -/
  | cntlzw (rA rS : Reg) (rc : Bool)
  /-- `rlwinm` (R570). -/
  | rlwinm (rA rS sh mb me : Reg) (rc : Bool)
  /-- `rlwnm` (R571). -/
  | rlwnm (rA rS rB mb me : Reg) (rc : Bool)
  /-- `rlwimi` (R572). -/
  | rlwimi (rA rS sh mb me : Reg) (rc : Bool)
  /-- `slw` (R575). -/
  | slw (rA rS rB : Reg) (rc : Bool)
  /-- `srw` (R576). -/
  | srw (rA rS rB : Reg) (rc : Bool)
  /-- `srawi` (R577). -/
  | srawi (rA rS sh : Reg) (rc : Bool)
  /-- `sraw` (R578). -/
  | sraw (rA rS rB : Reg) (rc : Bool)
  -- Floating point (42_float.md)
  /-- `fadd` (R610). -/
  | fadd (frD frA frB : Reg) (rc : Bool)
  /-- `fadds` (R611). -/
  | fadds (frD frA frB : Reg) (rc : Bool)
  /-- `fsub` (R612). -/
  | fsub (frD frA frB : Reg) (rc : Bool)
  /-- `fsubs` (R613). -/
  | fsubs (frD frA frB : Reg) (rc : Bool)
  /-- `fmul` (R614). -/
  | fmul (frD frA frC : Reg) (rc : Bool)
  /-- `fmuls` (R615). -/
  | fmuls (frD frA frC : Reg) (rc : Bool)
  /-- `fdiv` (R616). -/
  | fdiv (frD frA frB : Reg) (rc : Bool)
  /-- `fdivs` (R617). -/
  | fdivs (frD frA frB : Reg) (rc : Bool)
  /-- `fres` (R618). -/
  | fres (frD frB : Reg) (rc : Bool)
  /-- `frsqrte` (R619). -/
  | frsqrte (frD frB : Reg) (rc : Bool)
  /-- `fsel` (R620). -/
  | fsel (frD frA frC frB : Reg) (rc : Bool)
  /-- `fmadd` (R621). -/
  | fmadd (frD frA frC frB : Reg) (rc : Bool)
  /-- `fmadds` (R622). -/
  | fmadds (frD frA frC frB : Reg) (rc : Bool)
  /-- `fmsub` (R623). -/
  | fmsub (frD frA frC frB : Reg) (rc : Bool)
  /-- `fmsubs` (R624). -/
  | fmsubs (frD frA frC frB : Reg) (rc : Bool)
  /-- `fnmadd` (R625). -/
  | fnmadd (frD frA frC frB : Reg) (rc : Bool)
  /-- `fnmadds` (R626). -/
  | fnmadds (frD frA frC frB : Reg) (rc : Bool)
  /-- `fnmsub` (R627). -/
  | fnmsub (frD frA frC frB : Reg) (rc : Bool)
  /-- `fnmsubs` (R628). -/
  | fnmsubs (frD frA frC frB : Reg) (rc : Bool)
  /-- `frsp` (R630). -/
  | frsp (frD frB : Reg) (rc : Bool)
  /-- `fctiw` (R631). -/
  | fctiw (frD frB : Reg) (rc : Bool)
  /-- `fctiwz` (R632). -/
  | fctiwz (frD frB : Reg) (rc : Bool)
  /-- `fcmpu` (R635). -/
  | fcmpu (crfD : CrField) (frA frB : Reg) (rc : Bool)
  /-- `fcmpo` (R636). -/
  | fcmpo (crfD : CrField) (frA frB : Reg) (rc : Bool)
  /-- `mffs` (R640). -/
  | mffs (frD : Reg) (rc : Bool)
  /-- `mcrfs` (R641). -/
  | mcrfs (crfD crfS : CrField)
  /-- `mtfsfi` (R642). -/
  | mtfsfi (crfD : CrField) (imm : BitVec 4) (rc : Bool)
  /-- `mtfsf` (R643). -/
  | mtfsf (fm : BitVec 8) (frB : Reg) (rc : Bool)
  /-- `mtfsb0` (R644). -/
  | mtfsb0 (crbD : Reg) (rc : Bool)
  /-- `mtfsb1` (R645). -/
  | mtfsb1 (crbD : Reg) (rc : Bool)
  /-- `fmr` (R650). -/
  | fmr (frD frB : Reg) (rc : Bool)
  /-- `fneg` (R651). -/
  | fneg (frD frB : Reg) (rc : Bool)
  /-- `fabs` (R652). -/
  | fabs (frD frB : Reg) (rc : Bool)
  /-- `fnabs` (R653). -/
  | fnabs (frD frB : Reg) (rc : Bool)
  -- Loads and stores (43_load_store.md)
  /-- `lbz` (R690). -/
  | lbz (rD : Reg) (d : BitVec 16) (rA : Reg)
  /-- `lbzx` (R691). -/
  | lbzx (rD rA rB : Reg) (rc : Bool)
  /-- `lbzu` (R692). -/
  | lbzu (rD : Reg) (d : BitVec 16) (rA : Reg)
  /-- `lbzux` (R693). -/
  | lbzux (rD rA rB : Reg) (rc : Bool)
  /-- `lhz` (R694). -/
  | lhz (rD : Reg) (d : BitVec 16) (rA : Reg)
  /-- `lhzx` (R695). -/
  | lhzx (rD rA rB : Reg) (rc : Bool)
  /-- `lhzu` (R696). -/
  | lhzu (rD : Reg) (d : BitVec 16) (rA : Reg)
  /-- `lhzux` (R697). -/
  | lhzux (rD rA rB : Reg) (rc : Bool)
  /-- `lha` (R698). -/
  | lha (rD : Reg) (d : BitVec 16) (rA : Reg)
  /-- `lhax` (R699). -/
  | lhax (rD rA rB : Reg) (rc : Bool)
  /-- `lhau` (R700). -/
  | lhau (rD : Reg) (d : BitVec 16) (rA : Reg)
  /-- `lhaux` (R701). -/
  | lhaux (rD rA rB : Reg) (rc : Bool)
  /-- `lwz` (R702). -/
  | lwz (rD : Reg) (d : BitVec 16) (rA : Reg)
  /-- `lwzx` (R703). -/
  | lwzx (rD rA rB : Reg) (rc : Bool)
  /-- `lwzu` (R704). -/
  | lwzu (rD : Reg) (d : BitVec 16) (rA : Reg)
  /-- `lwzux` (R705). -/
  | lwzux (rD rA rB : Reg) (rc : Bool)
  /-- `stb` (R710). -/
  | stb (rS : Reg) (d : BitVec 16) (rA : Reg)
  /-- `stbx` (R711). -/
  | stbx (rS rA rB : Reg) (rc : Bool)
  /-- `stbu` (R712). -/
  | stbu (rS : Reg) (d : BitVec 16) (rA : Reg)
  /-- `stbux` (R713). -/
  | stbux (rS rA rB : Reg) (rc : Bool)
  /-- `sth` (R714). -/
  | sth (rS : Reg) (d : BitVec 16) (rA : Reg)
  /-- `sthx` (R715). -/
  | sthx (rS rA rB : Reg) (rc : Bool)
  /-- `sthu` (R716). -/
  | sthu (rS : Reg) (d : BitVec 16) (rA : Reg)
  /-- `sthux` (R717). -/
  | sthux (rS rA rB : Reg) (rc : Bool)
  /-- `stw` (R718). -/
  | stw (rS : Reg) (d : BitVec 16) (rA : Reg)
  /-- `stwx` (R719). -/
  | stwx (rS rA rB : Reg) (rc : Bool)
  /-- `stwu` (R720). -/
  | stwu (rS : Reg) (d : BitVec 16) (rA : Reg)
  /-- `stwux` (R721). -/
  | stwux (rS rA rB : Reg) (rc : Bool)
  /-- `lhbrx` (R725). -/
  | lhbrx (rD rA rB : Reg) (rc : Bool)
  /-- `lwbrx` (R726). -/
  | lwbrx (rD rA rB : Reg) (rc : Bool)
  /-- `sthbrx` (R727). -/
  | sthbrx (rS rA rB : Reg) (rc : Bool)
  /-- `stwbrx` (R728). -/
  | stwbrx (rS rA rB : Reg) (rc : Bool)
  /-- `lmw` (R730). -/
  | lmw (rD : Reg) (d : BitVec 16) (rA : Reg)
  /-- `stmw` (R731). -/
  | stmw (rS : Reg) (d : BitVec 16) (rA : Reg)
  /-- `lswi` (R732). -/
  | lswi (rD rA nb : Reg) (rc : Bool)
  /-- `lswx` (R733). -/
  | lswx (rD rA rB : Reg) (rc : Bool)
  /-- `stswi` (R734). -/
  | stswi (rS rA nb : Reg) (rc : Bool)
  /-- `stswx` (R735). -/
  | stswx (rS rA rB : Reg) (rc : Bool)
  /-- `lfs` (R748). -/
  | lfs (frD : Reg) (d : BitVec 16) (rA : Reg)
  /-- `lfsx` (R749). -/
  | lfsx (frD rA rB : Reg) (rc : Bool)
  /-- `lfsu` (R750). -/
  | lfsu (frD : Reg) (d : BitVec 16) (rA : Reg)
  /-- `lfsux` (R751). -/
  | lfsux (frD rA rB : Reg) (rc : Bool)
  /-- `lfd` (R753). -/
  | lfd (frD : Reg) (d : BitVec 16) (rA : Reg)
  /-- `lfdx` (R754). -/
  | lfdx (frD rA rB : Reg) (rc : Bool)
  /-- `lfdu` (R755). -/
  | lfdu (frD : Reg) (d : BitVec 16) (rA : Reg)
  /-- `lfdux` (R756). -/
  | lfdux (frD rA rB : Reg) (rc : Bool)
  /-- `stfs` (R760). -/
  | stfs (frS : Reg) (d : BitVec 16) (rA : Reg)
  /-- `stfsx` (R761). -/
  | stfsx (frS rA rB : Reg) (rc : Bool)
  /-- `stfsu` (R762). -/
  | stfsu (frS : Reg) (d : BitVec 16) (rA : Reg)
  /-- `stfsux` (R763). -/
  | stfsux (frS rA rB : Reg) (rc : Bool)
  /-- `stfd` (R764). -/
  | stfd (frS : Reg) (d : BitVec 16) (rA : Reg)
  /-- `stfdx` (R765). -/
  | stfdx (frS rA rB : Reg) (rc : Bool)
  /-- `stfdu` (R766). -/
  | stfdu (frS : Reg) (d : BitVec 16) (rA : Reg)
  /-- `stfdux` (R767). -/
  | stfdux (frS rA rB : Reg) (rc : Bool)
  /-- `stfiwx` (R768). -/
  | stfiwx (frS rA rB : Reg) (rc : Bool)
  /-- `lwarx` (R770). -/
  | lwarx (rD rA rB : Reg) (rc : Bool)
  /-- `stwcx.` (R771). -/
  | stwcxRc (rS rA rB : Reg) (rc : Bool)
  -- Branches, condition-register logical, traps and sc (44_branch_flow.md)
  /-- `b` (R795). -/
  | b (li : BitVec 24) (aa lk : Bool)
  /-- `bc` (R796). -/
  | bc (bo bi : Reg) (bd : BitVec 14) (aa lk : Bool)
  /-- `bclr` (R797). -/
  | bclr (bo bi : Reg) (lk : Bool)
  /-- `bcctr` (R798). -/
  | bcctr (bo bi : Reg) (lk : Bool)
  /-- `crand` (R800). -/
  | crand (crbD crbA crbB : Reg)
  /-- `cror` (R801). -/
  | cror (crbD crbA crbB : Reg)
  /-- `crxor` (R802). -/
  | crxor (crbD crbA crbB : Reg)
  /-- `crnand` (R803). -/
  | crnand (crbD crbA crbB : Reg)
  /-- `crnor` (R804). -/
  | crnor (crbD crbA crbB : Reg)
  /-- `creqv` (R805). -/
  | creqv (crbD crbA crbB : Reg)
  /-- `crandc` (R806). -/
  | crandc (crbD crbA crbB : Reg)
  /-- `crorc` (R807). -/
  | crorc (crbD crbA crbB : Reg)
  /-- `mcrf` (R808). -/
  | mcrf (crfD crfS : CrField)
  /-- `tw` (R810). -/
  | tw (cond rA rB : Reg)
  /-- `twi` (R811). -/
  | twi (cond rA : Reg) (simm : BitVec 16)
  /-- `sc` (R812). -/
  | sc
  -- Processor control and synchronisation (45_processor_control_sync.md)
  /-- `mtmsr` (R830). -/
  | mtmsr (rS : Reg)
  /-- `mfmsr` (R831). -/
  | mfmsr (rD : Reg)
  /-- `rfi` (R832). -/
  | rfi
  /-- `mtspr` (R835). -/
  | mtspr (spr : BitVec 10) (rS : Reg) (rc : Bool)
  /-- `mfspr` (R836). -/
  | mfspr (rD : Reg) (spr : BitVec 10) (rc : Bool)
  /-- `mftb` (R837). -/
  | mftb (rD : Reg) (tbr : BitVec 10)
  /-- `mtcrf` (R840). -/
  | mtcrf (crm : BitVec 8) (rS : Reg)
  /-- `mfcr` (R841). -/
  | mfcr (rD : Reg)
  /-- `mcrxr` (R842). -/
  | mcrxr (crfD : CrField)
  /-- `sync` (R845). -/
  | sync (rc : Bool)
  /-- `eieio` (R846). -/
  | eieio
  /-- `isync` (R847). -/
  | isync
  -- Cache, segment, TLB and external control (46_cache_mmu_control.md)
  /-- `dcbt` (R880). -/
  | dcbt (rA rB : Reg)
  /-- `dcbtst` (R881). -/
  | dcbtst (rA rB : Reg)
  /-- `dcbz` (R882). -/
  | dcbz (rA rB : Reg)
  /-- `dcbst` (R883). -/
  | dcbst (rA rB : Reg)
  /-- `dcbf` (R884). -/
  | dcbf (rA rB : Reg)
  /-- `dcbi` (R885). -/
  | dcbi (rA rB : Reg)
  /-- `icbi` (R886). -/
  | icbi (rA rB : Reg)
  /-- `mtsr` (R890). -/
  | mtsr (sr : BitVec 4) (rS : Reg)
  /-- `mtsrin` (R891). -/
  | mtsrin (rS rB : Reg)
  /-- `mfsr` (R892). -/
  | mfsr (rD : Reg) (sr : BitVec 4)
  /-- `mfsrin` (R893). -/
  | mfsrin (rD rB : Reg)
  /-- `tlbie` (R895). -/
  | tlbie (rB : Reg)
  /-- `tlbsync` (R896). -/
  | tlbsync
  /-- `eciwx` (R905). -/
  | eciwx (rD rA rB : Reg)
  /-- `ecowx` (R906). -/
  | ecowx (rS rA rB : Reg)
  deriving DecidableEq, Repr

end Sys2Proof
end

