-- ==== Sys2Proof/Decode.lean ====
section
/-! DEFINITION. The decoder (R446 to R450, R465) and, after it, the encoder (R442, R443, R455). Decoding looks at the
primary and the extended opcode only (R445): a word of a defined instruction with a non-zero reserved field is that
instruction in an invalid form, answered by `reservedField` with its mnemonic, and never an illegal instruction
(decision D50); every other word is `illegal` (R451). -/

namespace Sys2Proof

/-- What a word decodes to. -/
inductive Decoded
  /-- An instruction of the opcode table, its reserved fields all zero. -/
  | instr (i : Instr)
  /-- No defined instruction: the illegal-instruction program exception (R451, R946). -/
  | illegal
  /-- A defined instruction with a non-zero reserved field, whose effect the spec does not define (R445, U1); it still
  takes the exceptions R465 checks before it executes. -/
  | reservedField (mnemonic : String) (i : Instr)
  deriving DecidableEq, Repr

/-- `i`, unless a reserved bit (a bit of `mask`) of the word is set (R445). -/
def checked (w mask : Word) (mnemonic : String) (i : Instr) : Decoded :=
  if w &&& mask = 0 then .instr i else .reservedField mnemonic i

/-- Primary opcode 19, by the extended opcode `I[21:30]` (R447). -/
def decode19 (w : Word) : Decoded :=
  match (field w 21 10).toNat with
  | 16 => checked w 0x0000F800 "bclr" (.bclr (field w 6 5) (field w 11 5) (bitAt w 31))
  | 528 => checked w 0x0000F800 "bcctr" (.bcctr (field w 6 5) (field w 11 5) (bitAt w 31))
  | 257 => checked w 0x00000001 "crand" (.crand (field w 6 5) (field w 11 5) (field w 16 5))
  | 449 => checked w 0x00000001 "cror" (.cror (field w 6 5) (field w 11 5) (field w 16 5))
  | 193 => checked w 0x00000001 "crxor" (.crxor (field w 6 5) (field w 11 5) (field w 16 5))
  | 225 => checked w 0x00000001 "crnand" (.crnand (field w 6 5) (field w 11 5) (field w 16 5))
  | 33 => checked w 0x00000001 "crnor" (.crnor (field w 6 5) (field w 11 5) (field w 16 5))
  | 289 => checked w 0x00000001 "creqv" (.creqv (field w 6 5) (field w 11 5) (field w 16 5))
  | 129 => checked w 0x00000001 "crandc" (.crandc (field w 6 5) (field w 11 5) (field w 16 5))
  | 417 => checked w 0x00000001 "crorc" (.crorc (field w 6 5) (field w 11 5) (field w 16 5))
  | 0 => checked w 0x0063F801 "mcrf" (.mcrf (field w 6 3) (field w 11 3))
  | 50 => checked w 0x03FFF801 "rfi" .rfi
  | 150 => checked w 0x03FFF801 "isync" .isync
  | _ => .illegal

/-- Primary opcode 31, the XO format, by `I[22:30]` (R448). -/
def decode31xo (w : Word) : Decoded :=
  match (field w 22 9).toNat with
  | 266 => .instr (.add (field w 6 5) (field w 11 5) (field w 16 5) (bitAt w 21) (bitAt w 31))
  | 40 => .instr (.subf (field w 6 5) (field w 11 5) (field w 16 5) (bitAt w 21) (bitAt w 31))
  | 10 => .instr (.addc (field w 6 5) (field w 11 5) (field w 16 5) (bitAt w 21) (bitAt w 31))
  | 8 => .instr (.subfc (field w 6 5) (field w 11 5) (field w 16 5) (bitAt w 21) (bitAt w 31))
  | 138 => .instr (.adde (field w 6 5) (field w 11 5) (field w 16 5) (bitAt w 21) (bitAt w 31))
  | 136 => .instr (.subfe (field w 6 5) (field w 11 5) (field w 16 5) (bitAt w 21) (bitAt w 31))
  | 234 => checked w 0x0000F800 "addme" (.addme (field w 6 5) (field w 11 5) (bitAt w 21) (bitAt w 31))
  | 232 => checked w 0x0000F800 "subfme" (.subfme (field w 6 5) (field w 11 5) (bitAt w 21) (bitAt w 31))
  | 202 => checked w 0x0000F800 "addze" (.addze (field w 6 5) (field w 11 5) (bitAt w 21) (bitAt w 31))
  | 200 => checked w 0x0000F800 "subfze" (.subfze (field w 6 5) (field w 11 5) (bitAt w 21) (bitAt w 31))
  | 104 => checked w 0x0000F800 "neg" (.neg (field w 6 5) (field w 11 5) (bitAt w 21) (bitAt w 31))
  | 235 => .instr (.mullw (field w 6 5) (field w 11 5) (field w 16 5) (bitAt w 21) (bitAt w 31))
  | 75 => checked w 0x00000400 "mulhw" (.mulhw (field w 6 5) (field w 11 5) (field w 16 5) (bitAt w 31))
  | 11 => checked w 0x00000400 "mulhwu" (.mulhwu (field w 6 5) (field w 11 5) (field w 16 5) (bitAt w 31))
  | 491 => .instr (.divw (field w 6 5) (field w 11 5) (field w 16 5) (bitAt w 21) (bitAt w 31))
  | 459 => .instr (.divwu (field w 6 5) (field w 11 5) (field w 16 5) (bitAt w 21) (bitAt w 31))
  | _ => .illegal

/-- Primary opcode 31, by the extended opcode `I[21:30]`, the XO format after the others (R448). A word of
`mftb` with I[31] = 1 is refused (DESIGN CHOICE, notes/assumptions/83.md: R837 calls the bit reserved, R456 and R836 treat
`mftb` as `mfspr`, whose form with that bit runs, R82). -/
def decode31 (w : Word) : Decoded :=
  match (field w 21 10).toNat with
  | 0 => checked w 0x00400001 "cmp" (.cmp (field w 6 3) (bitAt w 10) (field w 11 5) (field w 16 5))
  | 32 => checked w 0x00400001 "cmpl" (.cmpl (field w 6 3) (bitAt w 10) (field w 11 5) (field w 16 5))
  | 28 => .instr (.and (field w 11 5) (field w 6 5) (field w 16 5) (bitAt w 31))
  | 444 => .instr (.or (field w 11 5) (field w 6 5) (field w 16 5) (bitAt w 31))
  | 316 => .instr (.xor (field w 11 5) (field w 6 5) (field w 16 5) (bitAt w 31))
  | 476 => .instr (.nand (field w 11 5) (field w 6 5) (field w 16 5) (bitAt w 31))
  | 124 => .instr (.nor (field w 11 5) (field w 6 5) (field w 16 5) (bitAt w 31))
  | 284 => .instr (.eqv (field w 11 5) (field w 6 5) (field w 16 5) (bitAt w 31))
  | 60 => .instr (.andc (field w 11 5) (field w 6 5) (field w 16 5) (bitAt w 31))
  | 412 => .instr (.orc (field w 11 5) (field w 6 5) (field w 16 5) (bitAt w 31))
  | 954 => checked w 0x0000F800 "extsb" (.extsb (field w 11 5) (field w 6 5) (bitAt w 31))
  | 922 => checked w 0x0000F800 "extsh" (.extsh (field w 11 5) (field w 6 5) (bitAt w 31))
  | 26 => checked w 0x0000F800 "cntlzw" (.cntlzw (field w 11 5) (field w 6 5) (bitAt w 31))
  | 24 => .instr (.slw (field w 11 5) (field w 6 5) (field w 16 5) (bitAt w 31))
  | 536 => .instr (.srw (field w 11 5) (field w 6 5) (field w 16 5) (bitAt w 31))
  | 824 => .instr (.srawi (field w 11 5) (field w 6 5) (field w 16 5) (bitAt w 31))
  | 792 => .instr (.sraw (field w 11 5) (field w 6 5) (field w 16 5) (bitAt w 31))
  | 87 => .instr (.lbzx (field w 6 5) (field w 11 5) (field w 16 5) (bitAt w 31))
  | 119 => .instr (.lbzux (field w 6 5) (field w 11 5) (field w 16 5) (bitAt w 31))
  | 279 => .instr (.lhzx (field w 6 5) (field w 11 5) (field w 16 5) (bitAt w 31))
  | 311 => .instr (.lhzux (field w 6 5) (field w 11 5) (field w 16 5) (bitAt w 31))
  | 343 => .instr (.lhax (field w 6 5) (field w 11 5) (field w 16 5) (bitAt w 31))
  | 375 => .instr (.lhaux (field w 6 5) (field w 11 5) (field w 16 5) (bitAt w 31))
  | 23 => .instr (.lwzx (field w 6 5) (field w 11 5) (field w 16 5) (bitAt w 31))
  | 55 => .instr (.lwzux (field w 6 5) (field w 11 5) (field w 16 5) (bitAt w 31))
  | 215 => .instr (.stbx (field w 6 5) (field w 11 5) (field w 16 5) (bitAt w 31))
  | 247 => .instr (.stbux (field w 6 5) (field w 11 5) (field w 16 5) (bitAt w 31))
  | 407 => .instr (.sthx (field w 6 5) (field w 11 5) (field w 16 5) (bitAt w 31))
  | 439 => .instr (.sthux (field w 6 5) (field w 11 5) (field w 16 5) (bitAt w 31))
  | 151 => .instr (.stwx (field w 6 5) (field w 11 5) (field w 16 5) (bitAt w 31))
  | 183 => .instr (.stwux (field w 6 5) (field w 11 5) (field w 16 5) (bitAt w 31))
  | 790 => .instr (.lhbrx (field w 6 5) (field w 11 5) (field w 16 5) (bitAt w 31))
  | 534 => .instr (.lwbrx (field w 6 5) (field w 11 5) (field w 16 5) (bitAt w 31))
  | 918 => .instr (.sthbrx (field w 6 5) (field w 11 5) (field w 16 5) (bitAt w 31))
  | 662 => .instr (.stwbrx (field w 6 5) (field w 11 5) (field w 16 5) (bitAt w 31))
  | 597 => .instr (.lswi (field w 6 5) (field w 11 5) (field w 16 5) (bitAt w 31))
  | 533 => .instr (.lswx (field w 6 5) (field w 11 5) (field w 16 5) (bitAt w 31))
  | 725 => .instr (.stswi (field w 6 5) (field w 11 5) (field w 16 5) (bitAt w 31))
  | 661 => .instr (.stswx (field w 6 5) (field w 11 5) (field w 16 5) (bitAt w 31))
  | 535 => .instr (.lfsx (field w 6 5) (field w 11 5) (field w 16 5) (bitAt w 31))
  | 567 => .instr (.lfsux (field w 6 5) (field w 11 5) (field w 16 5) (bitAt w 31))
  | 599 => .instr (.lfdx (field w 6 5) (field w 11 5) (field w 16 5) (bitAt w 31))
  | 631 => .instr (.lfdux (field w 6 5) (field w 11 5) (field w 16 5) (bitAt w 31))
  | 663 => .instr (.stfsx (field w 6 5) (field w 11 5) (field w 16 5) (bitAt w 31))
  | 695 => .instr (.stfsux (field w 6 5) (field w 11 5) (field w 16 5) (bitAt w 31))
  | 727 => .instr (.stfdx (field w 6 5) (field w 11 5) (field w 16 5) (bitAt w 31))
  | 759 => .instr (.stfdux (field w 6 5) (field w 11 5) (field w 16 5) (bitAt w 31))
  | 983 => .instr (.stfiwx (field w 6 5) (field w 11 5) (field w 16 5) (bitAt w 31))
  | 20 => .instr (.lwarx (field w 6 5) (field w 11 5) (field w 16 5) (bitAt w 31))
  | 150 => .instr (.stwcxRc (field w 6 5) (field w 11 5) (field w 16 5) (bitAt w 31))
  | 4 => checked w 0x00000001 "tw" (.tw (field w 6 5) (field w 11 5) (field w 16 5))
  | 146 => checked w 0x001FF801 "mtmsr" (.mtmsr (field w 6 5))
  | 83 => checked w 0x001FF801 "mfmsr" (.mfmsr (field w 6 5))
  | 467 => .instr (.mtspr (field w 16 5 ++ field w 11 5) (field w 6 5) (bitAt w 31))
  | 339 => .instr (.mfspr (field w 6 5) (field w 16 5 ++ field w 11 5) (bitAt w 31))
  | 371 => checked w 0x00000001 "mftb" (.mftb (field w 6 5) (field w 16 5 ++ field w 11 5))
  | 144 => checked w 0x00100801 "mtcrf" (.mtcrf (field w 12 8) (field w 6 5))
  | 19 => checked w 0x001FF801 "mfcr" (.mfcr (field w 6 5))
  | 512 => checked w 0x007FF801 "mcrxr" (.mcrxr (field w 6 3))
  | 598 => checked w 0x03FFF800 "sync" (.sync (bitAt w 31))
  | 854 => checked w 0x03FFF801 "eieio" .eieio
  | 278 => checked w 0x03E00001 "dcbt" (.dcbt (field w 11 5) (field w 16 5))
  | 246 => checked w 0x03E00001 "dcbtst" (.dcbtst (field w 11 5) (field w 16 5))
  | 1014 => checked w 0x03E00001 "dcbz" (.dcbz (field w 11 5) (field w 16 5))
  | 54 => checked w 0x03E00001 "dcbst" (.dcbst (field w 11 5) (field w 16 5))
  | 86 => checked w 0x03E00001 "dcbf" (.dcbf (field w 11 5) (field w 16 5))
  | 470 => checked w 0x03E00001 "dcbi" (.dcbi (field w 11 5) (field w 16 5))
  | 982 => checked w 0x03E00001 "icbi" (.icbi (field w 11 5) (field w 16 5))
  | 210 => checked w 0x0010F801 "mtsr" (.mtsr (field w 12 4) (field w 6 5))
  | 242 => checked w 0x001F0001 "mtsrin" (.mtsrin (field w 6 5) (field w 16 5))
  | 595 => checked w 0x0010F801 "mfsr" (.mfsr (field w 6 5) (field w 12 4))
  | 659 => checked w 0x001F0001 "mfsrin" (.mfsrin (field w 6 5) (field w 16 5))
  | 306 => checked w 0x03FF0001 "tlbie" (.tlbie (field w 16 5))
  | 566 => checked w 0x03FFF801 "tlbsync" .tlbsync
  | 310 => checked w 0x00000001 "eciwx" (.eciwx (field w 6 5) (field w 11 5) (field w 16 5))
  | 438 => checked w 0x00000001 "ecowx" (.ecowx (field w 6 5) (field w 11 5) (field w 16 5))
  | _ => decode31xo w

/-- Primary opcode 59, by `I[26:30]` (R449). -/
def decode59 (w : Word) : Decoded :=
  match (field w 26 5).toNat with
  | 21 => checked w 0x000007C0 "fadds" (.fadds (field w 6 5) (field w 11 5) (field w 16 5) (bitAt w 31))
  | 20 => checked w 0x000007C0 "fsubs" (.fsubs (field w 6 5) (field w 11 5) (field w 16 5) (bitAt w 31))
  | 25 => checked w 0x0000F800 "fmuls" (.fmuls (field w 6 5) (field w 11 5) (field w 21 5) (bitAt w 31))
  | 18 => checked w 0x000007C0 "fdivs" (.fdivs (field w 6 5) (field w 11 5) (field w 16 5) (bitAt w 31))
  | 24 => checked w 0x001F07C0 "fres" (.fres (field w 6 5) (field w 16 5) (bitAt w 31))
  | 29 => .instr (.fmadds (field w 6 5) (field w 11 5) (field w 21 5) (field w 16 5) (bitAt w 31))
  | 28 => .instr (.fmsubs (field w 6 5) (field w 11 5) (field w 21 5) (field w 16 5) (bitAt w 31))
  | 31 => .instr (.fnmadds (field w 6 5) (field w 11 5) (field w 21 5) (field w 16 5) (bitAt w 31))
  | 30 => .instr (.fnmsubs (field w 6 5) (field w 11 5) (field w 21 5) (field w 16 5) (bitAt w 31))
  | _ => .illegal

/-- Primary opcode 63, the X and XFL formats, by `I[21:30]` (R450, second table). -/
def decode63x (w : Word) : Decoded :=
  match (field w 21 10).toNat with
  | 12 => checked w 0x001F0000 "frsp" (.frsp (field w 6 5) (field w 16 5) (bitAt w 31))
  | 14 => checked w 0x001F0000 "fctiw" (.fctiw (field w 6 5) (field w 16 5) (bitAt w 31))
  | 15 => checked w 0x001F0000 "fctiwz" (.fctiwz (field w 6 5) (field w 16 5) (bitAt w 31))
  | 0 => checked w 0x00600000 "fcmpu" (.fcmpu (field w 6 3) (field w 11 5) (field w 16 5) (bitAt w 31))
  | 32 => checked w 0x00600000 "fcmpo" (.fcmpo (field w 6 3) (field w 11 5) (field w 16 5) (bitAt w 31))
  | 583 => checked w 0x001FF800 "mffs" (.mffs (field w 6 5) (bitAt w 31))
  | 64 => checked w 0x0063F801 "mcrfs" (.mcrfs (field w 6 3) (field w 11 3))
  | 134 => checked w 0x007F0800 "mtfsfi" (.mtfsfi (field w 6 3) (field w 16 4) (bitAt w 31))
  | 711 => checked w 0x02010000 "mtfsf" (.mtfsf (field w 7 8) (field w 16 5) (bitAt w 31))
  | 70 => checked w 0x001FF800 "mtfsb0" (.mtfsb0 (field w 6 5) (bitAt w 31))
  | 38 => checked w 0x001FF800 "mtfsb1" (.mtfsb1 (field w 6 5) (bitAt w 31))
  | 72 => checked w 0x001F0000 "fmr" (.fmr (field w 6 5) (field w 16 5) (bitAt w 31))
  | 40 => checked w 0x001F0000 "fneg" (.fneg (field w 6 5) (field w 16 5) (bitAt w 31))
  | 264 => checked w 0x001F0000 "fabs" (.fabs (field w 6 5) (field w 16 5) (bitAt w 31))
  | 136 => checked w 0x001F0000 "fnabs" (.fnabs (field w 6 5) (field w 16 5) (bitAt w 31))
  | _ => .illegal

/-- Primary opcode 63: the A format by `I[26:30]` first (R450). -/
def decode63 (w : Word) : Decoded :=
  match (field w 26 5).toNat with
  | 21 => checked w 0x000007C0 "fadd" (.fadd (field w 6 5) (field w 11 5) (field w 16 5) (bitAt w 31))
  | 20 => checked w 0x000007C0 "fsub" (.fsub (field w 6 5) (field w 11 5) (field w 16 5) (bitAt w 31))
  | 25 => checked w 0x0000F800 "fmul" (.fmul (field w 6 5) (field w 11 5) (field w 21 5) (bitAt w 31))
  | 18 => checked w 0x000007C0 "fdiv" (.fdiv (field w 6 5) (field w 11 5) (field w 16 5) (bitAt w 31))
  | 26 => checked w 0x001F07C0 "frsqrte" (.frsqrte (field w 6 5) (field w 16 5) (bitAt w 31))
  | 23 => .instr (.fsel (field w 6 5) (field w 11 5) (field w 21 5) (field w 16 5) (bitAt w 31))
  | 29 => .instr (.fmadd (field w 6 5) (field w 11 5) (field w 21 5) (field w 16 5) (bitAt w 31))
  | 28 => .instr (.fmsub (field w 6 5) (field w 11 5) (field w 21 5) (field w 16 5) (bitAt w 31))
  | 31 => .instr (.fnmadd (field w 6 5) (field w 11 5) (field w 21 5) (field w 16 5) (bitAt w 31))
  | 30 => .instr (.fnmsub (field w 6 5) (field w 11 5) (field w 21 5) (field w 16 5) (bitAt w 31))
  | _ => decode63x w

/-- Primary opcode 17: `sc` where `I[30]` is 1 (R446, R451). -/
def decode17 (w : Word) : Decoded :=
  if bitAt w 30 then checked w 0x03FFFFFD "sc" .sc else .illegal

/-- The decoder: total on every word (R446, R465). -/
def decode (w : Word) : Decoded :=
  match (field w 0 6).toNat with
  | 3 => .instr (.twi (field w 6 5) (field w 11 5) (field w 16 16))
  | 7 => .instr (.mulli (field w 6 5) (field w 11 5) (field w 16 16))
  | 8 => .instr (.subfic (field w 6 5) (field w 11 5) (field w 16 16))
  | 10 => checked w 0x00400000 "cmpli" (.cmpli (field w 6 3) (bitAt w 10) (field w 11 5) (field w 16 16))
  | 11 => checked w 0x00400000 "cmpi" (.cmpi (field w 6 3) (bitAt w 10) (field w 11 5) (field w 16 16))
  | 12 => .instr (.addic (field w 6 5) (field w 11 5) (field w 16 16))
  | 13 => .instr (.addicRc (field w 6 5) (field w 11 5) (field w 16 16))
  | 14 => .instr (.addi (field w 6 5) (field w 11 5) (field w 16 16))
  | 15 => .instr (.addis (field w 6 5) (field w 11 5) (field w 16 16))
  | 16 => .instr (.bc (field w 6 5) (field w 11 5) (field w 16 14) (bitAt w 30) (bitAt w 31))
  | 17 => decode17 w
  | 18 => .instr (.b (field w 6 24) (bitAt w 30) (bitAt w 31))
  | 19 => decode19 w
  | 20 => .instr (.rlwimi (field w 11 5) (field w 6 5) (field w 16 5) (field w 21 5) (field w 26 5) (bitAt w 31))
  | 21 => .instr (.rlwinm (field w 11 5) (field w 6 5) (field w 16 5) (field w 21 5) (field w 26 5) (bitAt w 31))
  | 23 => .instr (.rlwnm (field w 11 5) (field w 6 5) (field w 16 5) (field w 21 5) (field w 26 5) (bitAt w 31))
  | 24 => .instr (.ori (field w 11 5) (field w 6 5) (field w 16 16))
  | 25 => .instr (.oris (field w 11 5) (field w 6 5) (field w 16 16))
  | 26 => .instr (.xori (field w 11 5) (field w 6 5) (field w 16 16))
  | 27 => .instr (.xoris (field w 11 5) (field w 6 5) (field w 16 16))
  | 28 => .instr (.andiRc (field w 11 5) (field w 6 5) (field w 16 16))
  | 29 => .instr (.andisRc (field w 11 5) (field w 6 5) (field w 16 16))
  | 31 => decode31 w
  | 32 => .instr (.lwz (field w 6 5) (field w 16 16) (field w 11 5))
  | 33 => .instr (.lwzu (field w 6 5) (field w 16 16) (field w 11 5))
  | 34 => .instr (.lbz (field w 6 5) (field w 16 16) (field w 11 5))
  | 35 => .instr (.lbzu (field w 6 5) (field w 16 16) (field w 11 5))
  | 36 => .instr (.stw (field w 6 5) (field w 16 16) (field w 11 5))
  | 37 => .instr (.stwu (field w 6 5) (field w 16 16) (field w 11 5))
  | 38 => .instr (.stb (field w 6 5) (field w 16 16) (field w 11 5))
  | 39 => .instr (.stbu (field w 6 5) (field w 16 16) (field w 11 5))
  | 40 => .instr (.lhz (field w 6 5) (field w 16 16) (field w 11 5))
  | 41 => .instr (.lhzu (field w 6 5) (field w 16 16) (field w 11 5))
  | 42 => .instr (.lha (field w 6 5) (field w 16 16) (field w 11 5))
  | 43 => .instr (.lhau (field w 6 5) (field w 16 16) (field w 11 5))
  | 44 => .instr (.sth (field w 6 5) (field w 16 16) (field w 11 5))
  | 45 => .instr (.sthu (field w 6 5) (field w 16 16) (field w 11 5))
  | 46 => .instr (.lmw (field w 6 5) (field w 16 16) (field w 11 5))
  | 47 => .instr (.stmw (field w 6 5) (field w 16 16) (field w 11 5))
  | 48 => .instr (.lfs (field w 6 5) (field w 16 16) (field w 11 5))
  | 49 => .instr (.lfsu (field w 6 5) (field w 16 16) (field w 11 5))
  | 50 => .instr (.lfd (field w 6 5) (field w 16 16) (field w 11 5))
  | 51 => .instr (.lfdu (field w 6 5) (field w 16 16) (field w 11 5))
  | 52 => .instr (.stfs (field w 6 5) (field w 16 16) (field w 11 5))
  | 53 => .instr (.stfsu (field w 6 5) (field w 16 16) (field w 11 5))
  | 54 => .instr (.stfd (field w 6 5) (field w 16 16) (field w 11 5))
  | 55 => .instr (.stfdu (field w 6 5) (field w 16 16) (field w 11 5))
  | 59 => decode59 w
  | 63 => decode63 w
  | _ => .illegal

/-- The decoder on the bytes of an instruction as they lie in memory, the byte at the lowest address first: four bytes
make the word, its most significant byte first (R440); any other number of bytes is no instruction. -/
def decodeBytes : List Byte → Decoded
  | [b0, b1, b2, b3] => decode (b0 ++ b1 ++ b2 ++ b3)
  | _ => .illegal

/-- The instruction the decoder reads from a row's word `w` of `nbits` bits (one 32-bit word here), stored big-endian
(R440): none where the decoder refuses it. -/
def decodeTableWord (nbits w : Nat) : Option Instr :=
  match decodeBytes (wordBytes (BitVec.ofNat 32 (w % 2 ^ nbits))) with
  | .instr i => some i
  | _ => none

/-! ## The encoder -/

/-- D format: opcode, two 5-bit fields and 16 bits (R442). -/
def encD (op : BitVec 6) (a b : BitVec 5) (d : BitVec 16) : Word := op ++ a ++ b ++ d

/-- X, XL and XFX formats: opcode, three 5-bit fields, a 10-bit extended opcode and bit 31 (R442). -/
def encX (op : BitVec 6) (a b c : BitVec 5) (xo : BitVec 10) (rc : Bool) : Word := op ++ a ++ b ++ c ++ xo ++ ofBit rc

/-- XO format: like X with OE and a 9-bit extended opcode (R442). -/
def encXO (a b c : BitVec 5) (oe : Bool) (xo : BitVec 9) (rc : Bool) : Word :=
  (31 : BitVec 6) ++ a ++ b ++ c ++ ofBit oe ++ xo ++ ofBit rc

/-- A and M formats: opcode, five 5-bit fields and bit 31 (R442). -/
def encA (op : BitVec 6) (a b c d e : BitVec 5) (rc : Bool) : Word := op ++ a ++ b ++ c ++ d ++ e ++ ofBit rc

/-- The word of an instruction, every reserved field zero (R442 to R463). -/
def encode : Instr → Word
  | .addi rD rA simm => encD 14 rD rA simm
  | .addis rD rA simm => encD 15 rD rA simm
  | .addic rD rA simm => encD 12 rD rA simm
  | .addicRc rD rA simm => encD 13 rD rA simm
  | .subfic rD rA simm => encD 8 rD rA simm
  | .mulli rD rA simm => encD 7 rD rA simm
  | .add rD rA rB oe rc => encXO rD rA rB oe 266 rc
  | .subf rD rA rB oe rc => encXO rD rA rB oe 40 rc
  | .addc rD rA rB oe rc => encXO rD rA rB oe 10 rc
  | .subfc rD rA rB oe rc => encXO rD rA rB oe 8 rc
  | .adde rD rA rB oe rc => encXO rD rA rB oe 138 rc
  | .subfe rD rA rB oe rc => encXO rD rA rB oe 136 rc
  | .addme rD rA oe rc => encXO rD rA 0 oe 234 rc
  | .subfme rD rA oe rc => encXO rD rA 0 oe 232 rc
  | .addze rD rA oe rc => encXO rD rA 0 oe 202 rc
  | .subfze rD rA oe rc => encXO rD rA 0 oe 200 rc
  | .neg rD rA oe rc => encXO rD rA 0 oe 104 rc
  | .mullw rD rA rB oe rc => encXO rD rA rB oe 235 rc
  | .mulhw rD rA rB rc => encXO rD rA rB false 75 rc
  | .mulhwu rD rA rB rc => encXO rD rA rB false 11 rc
  | .divw rD rA rB oe rc => encXO rD rA rB oe 491 rc
  | .divwu rD rA rB oe rc => encXO rD rA rB oe 459 rc
  | .cmpi crfD l rA simm => encD 11 (crfD ++ (0 : BitVec 1) ++ ofBit l) rA simm
  | .cmp crfD l rA rB => encX 31 (crfD ++ (0 : BitVec 1) ++ ofBit l) rA rB 0 false
  | .cmpli crfD l rA uimm => encD 10 (crfD ++ (0 : BitVec 1) ++ ofBit l) rA uimm
  | .cmpl crfD l rA rB => encX 31 (crfD ++ (0 : BitVec 1) ++ ofBit l) rA rB 32 false
  | .andiRc rA rS uimm => encD 28 rS rA uimm
  | .andisRc rA rS uimm => encD 29 rS rA uimm
  | .ori rA rS uimm => encD 24 rS rA uimm
  | .oris rA rS uimm => encD 25 rS rA uimm
  | .xori rA rS uimm => encD 26 rS rA uimm
  | .xoris rA rS uimm => encD 27 rS rA uimm
  | .and rA rS rB rc => encX 31 rS rA rB 28 rc
  | .or rA rS rB rc => encX 31 rS rA rB 444 rc
  | .xor rA rS rB rc => encX 31 rS rA rB 316 rc
  | .nand rA rS rB rc => encX 31 rS rA rB 476 rc
  | .nor rA rS rB rc => encX 31 rS rA rB 124 rc
  | .eqv rA rS rB rc => encX 31 rS rA rB 284 rc
  | .andc rA rS rB rc => encX 31 rS rA rB 60 rc
  | .orc rA rS rB rc => encX 31 rS rA rB 412 rc
  | .extsb rA rS rc => encX 31 rS rA 0 954 rc
  | .extsh rA rS rc => encX 31 rS rA 0 922 rc
  | .cntlzw rA rS rc => encX 31 rS rA 0 26 rc
  | .rlwinm rA rS sh mb me rc => encA 21 rS rA sh mb me rc
  | .rlwnm rA rS rB mb me rc => encA 23 rS rA rB mb me rc
  | .rlwimi rA rS sh mb me rc => encA 20 rS rA sh mb me rc
  | .slw rA rS rB rc => encX 31 rS rA rB 24 rc
  | .srw rA rS rB rc => encX 31 rS rA rB 536 rc
  | .srawi rA rS sh rc => encX 31 rS rA sh 824 rc
  | .sraw rA rS rB rc => encX 31 rS rA rB 792 rc
  | .fadd frD frA frB rc => encA 63 frD frA frB 0 21 rc
  | .fadds frD frA frB rc => encA 59 frD frA frB 0 21 rc
  | .fsub frD frA frB rc => encA 63 frD frA frB 0 20 rc
  | .fsubs frD frA frB rc => encA 59 frD frA frB 0 20 rc
  | .fmul frD frA frC rc => encA 63 frD frA 0 frC 25 rc
  | .fmuls frD frA frC rc => encA 59 frD frA 0 frC 25 rc
  | .fdiv frD frA frB rc => encA 63 frD frA frB 0 18 rc
  | .fdivs frD frA frB rc => encA 59 frD frA frB 0 18 rc
  | .fres frD frB rc => encA 59 frD 0 frB 0 24 rc
  | .frsqrte frD frB rc => encA 63 frD 0 frB 0 26 rc
  | .fsel frD frA frC frB rc => encA 63 frD frA frB frC 23 rc
  | .fmadd frD frA frC frB rc => encA 63 frD frA frB frC 29 rc
  | .fmadds frD frA frC frB rc => encA 59 frD frA frB frC 29 rc
  | .fmsub frD frA frC frB rc => encA 63 frD frA frB frC 28 rc
  | .fmsubs frD frA frC frB rc => encA 59 frD frA frB frC 28 rc
  | .fnmadd frD frA frC frB rc => encA 63 frD frA frB frC 31 rc
  | .fnmadds frD frA frC frB rc => encA 59 frD frA frB frC 31 rc
  | .fnmsub frD frA frC frB rc => encA 63 frD frA frB frC 30 rc
  | .fnmsubs frD frA frC frB rc => encA 59 frD frA frB frC 30 rc
  | .frsp frD frB rc => encX 63 frD 0 frB 12 rc
  | .fctiw frD frB rc => encX 63 frD 0 frB 14 rc
  | .fctiwz frD frB rc => encX 63 frD 0 frB 15 rc
  | .fcmpu crfD frA frB rc => encX 63 (crfD ++ (0 : BitVec 2)) frA frB 0 rc
  | .fcmpo crfD frA frB rc => encX 63 (crfD ++ (0 : BitVec 2)) frA frB 32 rc
  | .mffs frD rc => encX 63 frD 0 0 583 rc
  | .mcrfs crfD crfS => encX 63 (crfD ++ (0 : BitVec 2)) (crfS ++ (0 : BitVec 2)) 0 64 false
  | .mtfsfi crfD imm rc => encX 63 (crfD ++ (0 : BitVec 2)) 0 (imm ++ (0 : BitVec 1)) 134 rc
  | .mtfsf fm frB rc => (63 : BitVec 6) ++ (0 : BitVec 1) ++ fm ++ (0 : BitVec 1) ++ frB ++ (711 : BitVec 10) ++ ofBit rc
  | .mtfsb0 crbD rc => encX 63 crbD 0 0 70 rc
  | .mtfsb1 crbD rc => encX 63 crbD 0 0 38 rc
  | .fmr frD frB rc => encX 63 frD 0 frB 72 rc
  | .fneg frD frB rc => encX 63 frD 0 frB 40 rc
  | .fabs frD frB rc => encX 63 frD 0 frB 264 rc
  | .fnabs frD frB rc => encX 63 frD 0 frB 136 rc
  | .lbz rD d rA => encD 34 rD rA d
  | .lbzx rD rA rB rc => encX 31 rD rA rB 87 rc
  | .lbzu rD d rA => encD 35 rD rA d
  | .lbzux rD rA rB rc => encX 31 rD rA rB 119 rc
  | .lhz rD d rA => encD 40 rD rA d
  | .lhzx rD rA rB rc => encX 31 rD rA rB 279 rc
  | .lhzu rD d rA => encD 41 rD rA d
  | .lhzux rD rA rB rc => encX 31 rD rA rB 311 rc
  | .lha rD d rA => encD 42 rD rA d
  | .lhax rD rA rB rc => encX 31 rD rA rB 343 rc
  | .lhau rD d rA => encD 43 rD rA d
  | .lhaux rD rA rB rc => encX 31 rD rA rB 375 rc
  | .lwz rD d rA => encD 32 rD rA d
  | .lwzx rD rA rB rc => encX 31 rD rA rB 23 rc
  | .lwzu rD d rA => encD 33 rD rA d
  | .lwzux rD rA rB rc => encX 31 rD rA rB 55 rc
  | .stb rS d rA => encD 38 rS rA d
  | .stbx rS rA rB rc => encX 31 rS rA rB 215 rc
  | .stbu rS d rA => encD 39 rS rA d
  | .stbux rS rA rB rc => encX 31 rS rA rB 247 rc
  | .sth rS d rA => encD 44 rS rA d
  | .sthx rS rA rB rc => encX 31 rS rA rB 407 rc
  | .sthu rS d rA => encD 45 rS rA d
  | .sthux rS rA rB rc => encX 31 rS rA rB 439 rc
  | .stw rS d rA => encD 36 rS rA d
  | .stwx rS rA rB rc => encX 31 rS rA rB 151 rc
  | .stwu rS d rA => encD 37 rS rA d
  | .stwux rS rA rB rc => encX 31 rS rA rB 183 rc
  | .lhbrx rD rA rB rc => encX 31 rD rA rB 790 rc
  | .lwbrx rD rA rB rc => encX 31 rD rA rB 534 rc
  | .sthbrx rS rA rB rc => encX 31 rS rA rB 918 rc
  | .stwbrx rS rA rB rc => encX 31 rS rA rB 662 rc
  | .lmw rD d rA => encD 46 rD rA d
  | .stmw rS d rA => encD 47 rS rA d
  | .lswi rD rA nb rc => encX 31 rD rA nb 597 rc
  | .lswx rD rA rB rc => encX 31 rD rA rB 533 rc
  | .stswi rS rA nb rc => encX 31 rS rA nb 725 rc
  | .stswx rS rA rB rc => encX 31 rS rA rB 661 rc
  | .lfs frD d rA => encD 48 frD rA d
  | .lfsx frD rA rB rc => encX 31 frD rA rB 535 rc
  | .lfsu frD d rA => encD 49 frD rA d
  | .lfsux frD rA rB rc => encX 31 frD rA rB 567 rc
  | .lfd frD d rA => encD 50 frD rA d
  | .lfdx frD rA rB rc => encX 31 frD rA rB 599 rc
  | .lfdu frD d rA => encD 51 frD rA d
  | .lfdux frD rA rB rc => encX 31 frD rA rB 631 rc
  | .stfs frS d rA => encD 52 frS rA d
  | .stfsx frS rA rB rc => encX 31 frS rA rB 663 rc
  | .stfsu frS d rA => encD 53 frS rA d
  | .stfsux frS rA rB rc => encX 31 frS rA rB 695 rc
  | .stfd frS d rA => encD 54 frS rA d
  | .stfdx frS rA rB rc => encX 31 frS rA rB 727 rc
  | .stfdu frS d rA => encD 55 frS rA d
  | .stfdux frS rA rB rc => encX 31 frS rA rB 759 rc
  | .stfiwx frS rA rB rc => encX 31 frS rA rB 983 rc
  | .lwarx rD rA rB rc => encX 31 rD rA rB 20 rc
  | .stwcxRc rS rA rB rc => encX 31 rS rA rB 150 rc
  | .b li aa lk => (18 : BitVec 6) ++ li ++ ofBit aa ++ ofBit lk
  | .bc bo bi bd aa lk => (16 : BitVec 6) ++ bo ++ bi ++ bd ++ ofBit aa ++ ofBit lk
  | .bclr bo bi lk => encX 19 bo bi 0 16 lk
  | .bcctr bo bi lk => encX 19 bo bi 0 528 lk
  | .crand crbD crbA crbB => encX 19 crbD crbA crbB 257 false
  | .cror crbD crbA crbB => encX 19 crbD crbA crbB 449 false
  | .crxor crbD crbA crbB => encX 19 crbD crbA crbB 193 false
  | .crnand crbD crbA crbB => encX 19 crbD crbA crbB 225 false
  | .crnor crbD crbA crbB => encX 19 crbD crbA crbB 33 false
  | .creqv crbD crbA crbB => encX 19 crbD crbA crbB 289 false
  | .crandc crbD crbA crbB => encX 19 crbD crbA crbB 129 false
  | .crorc crbD crbA crbB => encX 19 crbD crbA crbB 417 false
  | .mcrf crfD crfS => encX 19 (crfD ++ (0 : BitVec 2)) (crfS ++ (0 : BitVec 2)) 0 0 false
  | .tw cond rA rB => encX 31 cond rA rB 4 false
  | .twi cond rA simm => encD 3 cond rA simm
  | .sc => 0x44000002
  | .mtmsr rS => encX 31 rS 0 0 146 false
  | .mfmsr rD => encX 31 rD 0 0 83 false
  | .rfi => encX 19 0 0 0 50 false
  | .mtspr spr rS rc => encX 31 rS (field spr 5 5) (field spr 0 5) 467 rc
  | .mfspr rD spr rc => encX 31 rD (field spr 5 5) (field spr 0 5) 339 rc
  | .mftb rD tbr => encX 31 rD (field tbr 5 5) (field tbr 0 5) 371 false
  | .mtcrf crm rS => (31 : BitVec 6) ++ rS ++ (0 : BitVec 1) ++ crm ++ (0 : BitVec 1) ++ (144 : BitVec 10) ++ (0 : BitVec 1)
  | .mfcr rD => encX 31 rD 0 0 19 false
  | .mcrxr crfD => encX 31 (crfD ++ (0 : BitVec 2)) 0 0 512 false
  | .sync rc => encX 31 0 0 0 598 rc
  | .eieio => encX 31 0 0 0 854 false
  | .isync => encX 19 0 0 0 150 false
  | .dcbt rA rB => encX 31 0 rA rB 278 false
  | .dcbtst rA rB => encX 31 0 rA rB 246 false
  | .dcbz rA rB => encX 31 0 rA rB 1014 false
  | .dcbst rA rB => encX 31 0 rA rB 54 false
  | .dcbf rA rB => encX 31 0 rA rB 86 false
  | .dcbi rA rB => encX 31 0 rA rB 470 false
  | .icbi rA rB => encX 31 0 rA rB 982 false
  | .mtsr sr rS => encX 31 rS ((0 : BitVec 1) ++ sr) 0 210 false
  | .mtsrin rS rB => encX 31 rS 0 rB 242 false
  | .mfsr rD sr => encX 31 rD ((0 : BitVec 1) ++ sr) 0 595 false
  | .mfsrin rD rB => encX 31 rD 0 rB 659 false
  | .tlbie rB => encX 31 0 0 rB 306 false
  | .tlbsync => encX 31 0 0 0 566 false
  | .eciwx rD rA rB => encX 31 rD rA rB 310 false
  | .ecowx rS rA rB => encX 31 rS rA rB 438 false

end Sys2Proof
end

