-- ==== Sys2Proof/Config.lean ====
section
/-! DEFINITION. What the spec leaves to the implementation or to nobody: its named parameters (R10, 92_eei_decisions.md
section 3) and its free values. Every one is an opaque constant with no body: nothing can be proved of its value, so a
statement holds for every value of it. -/

namespace Sys2Proof.Config

/-- PVR[16:31], the chip revision (parameter PVR_REV, D1, R64). -/
opaque pvrRev : BitVec 16

/-- The PLL_CFG[0:4] straps, read in HID1[PCE] (parameter PLL_CFG, R150, R1107). -/
opaque pllCfg : BitVec 5

/-- The PLL_RNG[0:1] straps, read in HID1[PRE] (parameter PLL_RNG, R150, R1107). -/
opaque pllRng : BitVec 2

/-- One less than the number of steps a global L2 invalidation takes (parameter L2_INVAL_CYCLES, at least 1, R420). -/
opaque l2InvalSteps : Nat

/-- The word an external device answers `eciwx` with: a function of the resource id, the physical address and a fresh
counter value (parameter ext_in, R905; with no device, any value). -/
opaque extIn : BitVec 4 → Word → Nat → Word

/-- The chip's `fres` table (parameter FRES_ESTIMATE, D54); a use of it keeps the bound of R618. -/
opaque fresEstimate : DWord → DWord

/-- The chip's `frsqrte` table (parameter FRSQRTE_ESTIMATE, D54); a use of it keeps the bound of R619. -/
opaque frsqrteEstimate : DWord → DWord

/-- Every value the spec leaves "any value" (R18, 93_implementation_defined.md): the `n`-th fresh one, `w` bits wide. -/
opaque free (w : Nat) (n : Nat) : BitVec w

end Sys2Proof.Config
end

