-- ==== Sys2Proof/Machine/State.lean ====
section
/-! DEFINITION. The machine's state as plain data, the reasons a step can stop, and the state after a hard reset. Each
field names the rule of spec/ that gives it. INVENTORY.md, '## State', lists them all with width and reset value. -/

namespace Sys2Proof.Machine

/-! ## Why a step stops -/

/-- The machine reached a condition the spec calls undefined and gives no effect for. -/
inductive Fault
  /-- Raised by translation: two valid BAT entries of one array match ("programming errors ... unpredictable results",
  R272). Safe: the hardware goes on in some way no claim can use. -/
  | multipleBatMatch
  /-- Raised by `mtspr L2CR`: L2I set while L2E = 1 or HID0[DPM] = 1, outside the stated sequence (R420). Safe. -/
  | l2InvalidateMisuse
  /-- Raised by a snooped transaction of a reserved transfer type (R370: "not stated"). Safe. -/
  | reservedSnoop
  /-- Raised where the running code is no longer where it ran, without an `rfi` or an exception between: an implicit branch,
  "boundedly-undefined results", which the model refuses (R303, R1140, 93_implementation_defined.md section 2.3). Safe. -/
  | implicitBranch
  /-- Raised by the first translation with MSR[IR] or MSR[DR] set while a set of the TLBs has not been invalidated by
  `tlbie` since the hard reset (R293, R1122: refused). Safe. -/
  | tlbNotInvalidated
  deriving DecidableEq, Repr

/-- The instruction has a form with no meaning in the spec. -/
inductive Refusal
  /-- Raised by the dispatcher only: no meaning has been written for the instruction. Safe. -/
  | notModelled (mnemonic : String)
  /-- Raised at decoding: a reserved field of the word is not zero, "boundedly undefined" (R445, U1). Safe. -/
  | reservedField (mnemonic : String)
  /-- Raised by a meaning: an invalid form whose effect no source states (R454, R681, U1, U11). Safe. -/
  | invalidForm (mnemonic : String)
  /-- Raised by a floating-point store, and `stfiwx`, of a register nothing has written since the hard reset, where no
  exception comes first: "never store data from the floating-point register file ..." (R745, U13: refused). Safe. -/
  | uninitialisedFpr (mnemonic : String)
  deriving DecidableEq, Repr

/-! ## Memory and caches -/

/-- Physical memory: the listed (address, byte) pairs, addresses rising, none equal to what an unlisted address reads
as (R200). -/
abbrev Mem := List Host.Cell

/-- The 32 bytes of a cache block (R342). -/
abbrev BlockData := Vector Byte 32

/-- A valid block of the L1 data cache: state M when `modified`, else E (R343, R360). -/
structure DBlock where
  tag : BitVec 20
  modified : Bool
  data : BlockData
  deriving DecidableEq, Repr

/-- A valid block of the L1 instruction cache (R344). -/
structure IBlock where
  tag : BitVec 20
  data : BlockData
  deriving DecidableEq, Repr

/-- One set of an L1 cache: eight ways (`none` is state I) and the PLRU bits B0 to B6, B0 the first (R343, R345). -/
structure DSet where
  ways : Vector (Option DBlock) 8
  plru : BitVec 7
  deriving DecidableEq, Repr

/-- One set of the instruction cache (R344). -/
structure ISet where
  ways : Vector (Option IBlock) 8
  plru : BitVec 7
  deriving DecidableEq, Repr

/-- A valid sector of an L2 line (R410). -/
structure L2Sector where
  modified : Bool
  data : BlockData
  deriving DecidableEq, Repr

/-- One L2 line: a tag and two 32-byte sectors (`none` is an invalid sector) (R410). -/
structure L2Line where
  tag : BitVec 14
  sectors : Vector (Option L2Sector) 2
  deriving DecidableEq, Repr

/-- One L2 set: two ways and the number of the least recently used one (R410). -/
structure L2Set where
  ways : Vector L2Line 2
  lru : BitVec 1
  deriving DecidableEq, Repr

/-- A block an `icbi` has invalidated in the instruction cache: its number and its bytes. -/
structure Leaving where
  block : BitVec 27
  data : BlockData
  deriving DecidableEq, Repr

/-- The three caches (R92, R93, R340). -/
structure Caches where
  icache : Vector ISet 128
  dcache : Vector DSet 128
  l2 : Vector L2Set 4096
  /-- Steps until a global L2 invalidation ends; L2CR[L2IP] reads 1 while it is not 0 (R420). -/
  l2Inval : Nat
  /-- MODEL: the blocks whose `icbi` no `sync` or context-synchronising operation has followed yet, the newest first: a
  fetch may still hit them (R226, R229, R245). -/
  leaving : List Leaving
  deriving DecidableEq, Repr

/-! ## Translation -/

/-- A translation lookaside buffer entry: a page table entry the hardware found (R91, R290). -/
structure TlbEntry where
  vsid : BitVec 24
  /-- EA[4:13], the part of the page index the set number does not hold. -/
  page : BitVec 10
  rpn : BitVec 20
  /-- The C bit as the entry last saw it (R295). -/
  changed : Bool
  wimg : BitVec 4
  pp : BitVec 2
  deriving DecidableEq, Repr

/-- One TLB set: two ways (`none` is an invalid entry) and the least recently used way (R91). -/
structure TlbSet where
  ways : Vector (Option TlbEntry) 2
  lru : BitVec 1
  deriving DecidableEq, Repr

/-- A block address translation register pair (R65). -/
structure BatPair where
  upper : Word
  lower : Word
  deriving DecidableEq, Repr

/-- The memory management unit's registers and buffers. -/
structure Mmu where
  sdr1 : Word
  sr : Vector Word 16
  ibat : Vector BatPair 8
  dbat : Vector BatPair 8
  itlb : Vector TlbSet 64
  dtlb : Vector TlbSet 64
  /-- MODEL: bit n (from the least significant): `tlbie` has invalidated set n since the hard reset (R293). -/
  tlbReady : BitVec 64
  deriving DecidableEq, Repr

/-! ## Special registers -/

/-- The exception and operating-system registers (R68 to R75). -/
structure SupRegs where
  srr0 : Word
  srr1 : Word
  dar : Word
  dsisr : Word
  sprg0 : Word
  sprg1 : Word
  sprg2 : Word
  sprg3 : Word
  ear : Word
  dabr : Word
  deriving DecidableEq, Repr

/-- The implementation's own control registers (R120 to R176). -/
structure HidRegs where
  hid0 : Word
  /-- HID1 bits 7 to 31; bits 0 to 6 are the straps of Config (R150). -/
  hid1 : Word
  hid2 : Word
  iabr : Word
  l2cr : Word
  ictc : Word
  deriving DecidableEq, Repr

/-- The performance monitor (R160 to R166, R1040). -/
structure PerfRegs where
  mmcr0 : Word
  mmcr1 : Word
  pmc1 : Word
  pmc2 : Word
  pmc3 : Word
  pmc4 : Word
  sia : Word
  /-- The latched interrupt condition (R1045). -/
  pending : Bool
  frozen : Bool
  trig : Bool
  deriving DecidableEq, Repr

/-- The thermal assist unit (R178, R180, R1090). -/
structure Thermal where
  thrm1 : Word
  thrm2 : Word
  thrm3 : Word
  /-- The latched interrupt request (R1091). -/
  pending : Bool
  halt1 : Bool
  halt2 : Bool
  /-- The next comparison is with THRM2 (R1096: they alternate, THRM1 first). -/
  second : Bool
  deriving DecidableEq, Repr

/-- The time base and the decrementer (R48, R73, R1020, R1026). -/
structure Timers where
  tbu : Word
  tbl : Word
  dec : Word
  /-- The latched decrementer condition (R95, D2). -/
  pending : Bool
  deriving DecidableEq, Repr

/-- The reservation of `lwarx` (R90, R235): a flag and the block address PA[0:26]. -/
structure Reservation where
  held : Bool
  block : BitVec 27
  deriving DecidableEq, Repr

/-- The run state (R96). -/
inductive RunState
  | running
  | doze
  | nap
  | sleep
  | checkstop
  | heldInReset
  deriving DecidableEq, Repr

/-! ## What lies between a write and its effect -/

/-- The values whose change takes effect, for the uses R1140 lists, only at the next context-synchronising operation. -/
inductive Control
  /-- The MSR but for LE. -/
  | msr
  /-- MSR[LE], the byte order. -/
  | order
  | sr (n : BitVec 4)
  | bat (data : Bool) (i : Fin 8) (lower : Bool)
  | sdr1
  | hid0
  | dabr
  | ear
  | iabr
  deriving DecidableEq, Repr

/-- MODEL: the open old-or-new window of R1140. -/
structure Context where
  /-- The values overwritten since the last context-synchronising operation, the newest first. -/
  stale : List (Control × Word)
  /-- The choice the last use made: the value in force of each control that is not simply the register's. -/
  inForce : List (Control × Word)
  deriving DecidableEq, Repr

/-- MODEL: where the last instruction ran, with every value as last written when it began. -/
structure RunningAt where
  /-- Its effective address. -/
  ea : Word
  /-- The physical page of that address. -/
  here : BitVec 20
  /-- The physical page of the next address in sequence, if it has one. -/
  next : Option (BitVec 20)
  deriving DecidableEq, Repr

/-- MODEL: what the instruction fetch remembers. -/
structure FetchUnit where
  /-- The instruction queue: words fetched ahead, with their effective addresses, the newest first, six at most
  (R97, R205, R1161). -/
  queue : List (Word × Word)
  /-- Where the last instruction ran; none after an `rfi` or an exception (R303). -/
  page : Option RunningAt
  /-- The next fetch is the first after a reset: a caching-inhibited single-beat one (R101). -/
  single : Bool
  /-- The last instruction has written IABR (R962, R1141). -/
  iabrNew : Bool
  deriving DecidableEq, Repr

/-- The fetch unit with nothing to remember. -/
def noFetch : FetchUnit := { queue := [], page := none, single := false, iabrNew := false }

/-- An instruction that has completed: its address, and whether it is a load. -/
structure Completed where
  address : Word
  load : Bool
  deriving DecidableEq, Repr

/-- MODEL: a byte that a write in the queues has replaced: in the L2 or in memory (R94, R245). -/
structure Replaced where
  l2 : Bool
  address : Nat
  value : Byte
  deriving DecidableEq, Repr

/-- MODEL: a write that may not be done yet: a store in the store queue, or the push or castout of a block, with the bytes
it has replaced, as they were, the newest first (R94, R245). -/
structure Queued where
  push : Bool
  old : List Replaced
  deriving DecidableEq, Repr

/-- The stores among queued writes. -/
def storesIn (q : List Queued) : List Queued := q.filter fun g => !g.push

/-- The pushes and castouts among queued writes. -/
def pushesIn (q : List Queued) : List Queued := q.filter (·.push)

/-- MODEL: what the performance monitor may refer to. -/
structure Seen where
  /-- The instructions completed since the hard reset, the newest first (R1045, P9). -/
  history : List Completed
  /-- For each counter, the instructions completed while it counted event 2 that it has not counted yet (R1050 to
  R1053). -/
  credit : Vector Nat 4
  /-- The last `stwcx.` stored (R1053). -/
  stored : Bool
  deriving DecidableEq, Repr

/-- The level inputs (R1100): `true` is asserted. -/
structure Pins where
  int : Bool
  smi : Bool
  ckstpIn : Bool
  hreset : Bool
  tben : Bool
  qack : Bool
  tlbisync : Bool
  deriving DecidableEq, Repr

/-- The edge-triggered and imprecise conditions held until taken (R95, R936). -/
structure Latches where
  sreset : Bool
  /-- A machine check waits. -/
  machineCheck : Bool
  /-- Its SRR1[11:15] bits: L2DP, MCPIN, TEA, DP, AP (R72). -/
  mcCause : BitVec 5
  deriving DecidableEq, Repr

/-! ## The environment (D70) -/

/-- The level inputs, by name. -/
inductive Pin
  | int | smi | ckstpIn | hreset | tben | qack | tlbisync
  deriving DecidableEq, Repr

/-- A transaction of another bus master, by transfer type (R370, Table 3-5). -/
inductive SnoopKind
  | clean | flush | sync | kill | eieio | extWrite | tlbInvalidate | extRead | reservationSet | tlbsync | icbi
  | writeFlush | writeKill | readSingle | readBurst | rwitm | writeFlushAtomic
  | readAtomicSingle | readAtomicBurst | rwitmAtomic | rwnitc | reserved
  deriving DecidableEq, Repr

/-- A transaction of another bus master: `data` are the bytes it writes to memory at `pa` (none for a read) (R370,
D75). -/
structure Snoop where
  kind : SnoopKind
  isGlobal : Bool
  pa : Word
  data : List Byte
  deriving DecidableEq, Repr

/-- MODEL: what the environment has laid ready for the coming instruction's bus transactions; its end empties it. -/
structure Supply where
  /-- The bytes devices answer reads with, in order (D70). -/
  answers : List Byte
  /-- The other masters' transactions in the gaps between the instruction's own, gap by gap (R250). -/
  gaps : List (List Snoop)
  deriving DecidableEq, Repr

/-- What the environment may do at an instruction boundary (D70). -/
inductive EnvMove
  /-- An input pin takes a level (R1100). -/
  | pin (p : Pin) (asserted : Bool)
  /-- The falling edge of MCP (R1102). -/
  | mcpFall
  /-- The falling edge of SRESET (R1104). -/
  | sresetFall
  /-- A tick of the time-base clock (R1020). -/
  | tick
  /-- The thermal sensor's sample ends with this temperature in degrees C (R1091). -/
  | thermSample (temp : Int)
  /-- Bad parity on a snooped address (R388, R936, R1110). -/
  | addressParity
  /-- Bad parity on data read (R388, R936, R1110). -/
  | dataParity
  /-- Counter `n` (0 to 3 for PMC1 to PMC4) sees `k` occurrences of an environment-counted event (R1042); for the
  threshold event the sampled load is the one of this number in the history (R1043, R1045). -/
  | pmCount (n : Fin 4) (k : Nat) (sampled : Nat)
  /-- The moment at which a requested power-saving mode is entered (R1070). -/
  | powerEntry
  /-- The moment at which HID1[PSTAT] follows HID1[PS] (R1080). -/
  | pllSwitch
  /-- Another master's transaction (R370, D75). -/
  | snoop (kind : SnoopKind) (isGlobal : Bool) (pa : Word) (data : List Byte)
  /-- Other masters' transactions in the gaps between the bus transactions of the coming instruction (R250). -/
  | gaps (l : List (List Snoop))
  /-- From now on these 32-byte blocks are a device's, not memory (MEM_MAP, R10, D70). -/
  | deviceBlocks (blocks : List (BitVec 27))
  /-- The bytes devices answer the coming instruction's reads with (D70). -/
  | answer (bytes : List Byte)
  /-- The fetch unit fetches the word at this effective address ahead (R205, R1161). -/
  | prefetch (ea : Word)
  /-- A load of the byte at this effective address is performed speculatively, and its value dropped (R222, R230). -/
  | speculate (ea : Word)
  /-- From now on the system answers the physical blocks of these 32-byte block numbers with TEA (R206, R386). -/
  | teaBlocks (blocks : List (BitVec 27))
  /-- No asynchronous interrupt is recognised at this boundary (R924, D72: the delay is not bounded). -/
  | defer
  deriving DecidableEq, Repr

/-- What the processor does on the bus that no memory byte shows (R375): the address-only broadcasts, the external
control transfers, and the accesses to devices, byte by byte. -/
inductive BusOp
  | clean (pa : Word)
  | flush (pa : Word)
  | kill (pa : Word)
  | sync
  | eieio
  | extWrite (rid : BitVec 4) (pa : Word) (data : Word)
  | extRead (rid : BitVec 4) (pa : Word)
  | deviceRead (pa : Word)
  | deviceWrite (pa : Word) (value : Byte)
  deriving DecidableEq, Repr

/-! ## The state -/

/-- Everything the spec gives the machine, and the model's own fields at the end (marked MODEL). -/
structure State where
  /-- r0 to r31 (R40). -/
  gpr : Vector Word 32
  /-- f0 to f31 (R41). -/
  fpr : Vector DWord 32
  /-- Bit n: f(n) has been written since hard reset (R745). -/
  fprInit : BitVec 32
  /-- The condition register (R42). -/
  cr : Word
  /-- The floating-point status and control register (R43). -/
  fpscr : Word
  /-- The integer exception register (R44). -/
  xer : Word
  /-- The link register (R45). -/
  lr : Word
  /-- The count register (R46). -/
  ctr : Word
  /-- The effective address of the next instruction (R47). -/
  pc : Word
  /-- The machine state register (R60, R61). -/
  msr : Word
  sup : SupRegs
  mmu : Mmu
  hid : HidRegs
  perf : PerfRegs
  therm : Thermal
  tim : Timers
  resv : Reservation
  caches : Caches
  latch : Latches
  pins : Pins
  run : RunState
  /-- Physical memory (R200). -/
  mem : Mem
  /-- The 32-byte blocks the system now answers with TEA (R206, R386). -/
  tea : List (BitVec 27)
  /-- The 32-byte blocks that are a device's (parameter MEM_MAP, R10). -/
  devices : List (BitVec 27)
  /-- The store queue and the bus queues (R94): the newest three stores, and the pushes and castouts no `sync` has waited
  for, the newest first. What reads through the queues sees the bytes as they are; an instruction fetch may see them as
  they were (R245), and a hard reset may lose the writes (R1120). -/
  storeQueue : List Queued
  /-- The bus operations so far, the newest first (R375). -/
  busLog : List BusOp
  /-- MODEL: how many free values have been used (Config.free). -/
  freeCtr : Nat
  /-- MODEL: the instruction now executing took an exception (read by the trace rule R953 and the event counts). -/
  excTaken : Bool
  /-- MODEL: the instruction that has just completed is to be traced (R953). -/
  traceDue : Bool
  /-- MODEL: `mtmsr` has changed MSR[POW] from 0 to 1 with a mode bit of HID0 set (R1070). -/
  powAsked : Bool
  /-- MODEL: writes that no context-synchronising operation has followed yet (R1140). -/
  ctx : Context
  /-- MODEL: the instruction queue, the place of the running code, and what the next fetch and comparison must know. -/
  fetch : FetchUnit
  /-- MODEL: the instructions completed, as the performance monitor sees them. -/
  seen : Seen
  /-- MODEL: what the environment has laid ready for the coming instruction. -/
  supply : Supply
  /-- MODEL: the environment's moves, one list for each coming boundary; after its end the environment does nothing. -/
  env : List (List EnvMove)
  deriving DecidableEq, Repr

/-! ## Hard reset (R100) -/

/-- An empty TLB. -/
def emptyTlb : Vector TlbSet 64 := Vector.replicate 64 ⟨Vector.replicate 2 none, 0⟩

/-- An invalid L2 line. -/
def emptyL2Line : L2Line := ⟨0, Vector.replicate 2 none⟩

/-- An L2 with every tag bit clear (R420). -/
def emptyL2 : Vector L2Set 4096 := Vector.replicate 4096 ⟨Vector.replicate 2 emptyL2Line, 0⟩

/-- A data cache with every block invalid and every PLRU bit 0 (R347). -/
def emptyDcache : Vector DSet 128 := Vector.replicate 128 ⟨Vector.replicate 8 none, 0⟩

/-- An instruction cache with every block invalid and every PLRU bit 0 (R347). -/
def emptyIcache : Vector ISet 128 := Vector.replicate 128 ⟨Vector.replicate 8 none, 0⟩

/-- The machine right after a hard reset (R100, R101). Values the spec calls Unknown are zero, or invalid entries
(DESIGN CHOICE, notes/assumptions/1.md; memory 2.md, pins 7.md, HID2 8.md). -/
def State.reset : State where
  gpr := Vector.replicate 32 0
  fpr := Vector.replicate 32 0
  fprInit := 0
  cr := 0
  fpscr := 0
  xer := 0
  lr := 0
  ctr := 0
  pc := 0xFFF00100
  msr := 0x00000040
  sup := { srr0 := 0, srr1 := 0, dar := 0, dsisr := 0, sprg0 := 0, sprg1 := 0, sprg2 := 0, sprg3 := 0, ear := 0, dabr := 0 }
  mmu := { sdr1 := 0, sr := Vector.replicate 16 0, ibat := Vector.replicate 8 ⟨0, 0⟩, dbat := Vector.replicate 8 ⟨0, 0⟩,
           itlb := emptyTlb, dtlb := emptyTlb, tlbReady := 0 }
  hid := { hid0 := 0, hid1 := 0, hid2 := 0, iabr := 0, l2cr := 0, ictc := 0 }
  perf := { mmcr0 := 0, mmcr1 := 0, pmc1 := 0, pmc2 := 0, pmc3 := 0, pmc4 := 0, sia := 0, pending := false,
            frozen := false, trig := false }
  therm := { thrm1 := 0, thrm2 := 0, thrm3 := 0, pending := false, halt1 := false, halt2 := false, second := false }
  tim := { tbu := 0, tbl := 0, dec := 0xFFFFFFFF, pending := false }
  resv := { held := false, block := 0 }
  caches := { icache := emptyIcache, dcache := emptyDcache, l2 := emptyL2, l2Inval := 0, leaving := [] }
  latch := { sreset := false, machineCheck := false, mcCause := 0 }
  pins := { int := false, smi := false, ckstpIn := false, hreset := false, tben := true, qack := false, tlbisync := false }
  run := .running
  mem := []
  tea := []
  devices := []
  storeQueue := []
  busLog := []
  freeCtr := 0
  excTaken := false
  traceDue := false
  powAsked := false
  ctx := ⟨[], []⟩
  fetch := { noFetch with single := true }
  seen := ⟨[], Vector.replicate 4 0, false⟩
  supply := ⟨[], []⟩
  env := []

end Sys2Proof.Machine
end

