-- ==== Sys2Proof/Machine/Ops.lean ====
section
/-! DEFINITION. The named operations over registers and physical memory, and exception entry and return. Everything
above this file reads and writes the state through these. -/

namespace Sys2Proof.Machine

/-- What one step of an instruction answers. -/
abbrev Out := Host.Outcome State Fault Refusal

/-- The result of a part of an instruction: it goes on with a value, it has taken an exception (the state is the one
after the entry), or it reached a condition the spec gives no effect for. -/
inductive Res (α : Type)
  | ok (a : α) (s : State)
  | exc (s : State)
  | fault (f : Fault)

/-- Go on with the value, if there is one. -/
def andThen {α β : Type} (r : Res α) (f : α → State → Res β) : Res β :=
  match r with
  | .ok a s => f a s
  | .exc s => .exc s
  | .fault e => .fault e

/-- End an instruction: `f` on success; an exception already taken is the next state. -/
def finish {α : Type} (r : Res α) (f : α → State → Out) : Out :=
  match r with
  | .ok a s => f a s
  | .exc s => .next s
  | .fault e => .fault e

/-! ## Register files -/

/-- Read a general register (R40). -/
def gprGet (s : State) (r : Reg) : Word := s.gpr[r.toNat]'r.isLt

/-- Write a general register (R40). -/
def gprSet (s : State) (r : Reg) (v : Word) : State := { s with gpr := s.gpr.set r.toNat v r.isLt }

/-- Read a floating-point register (R41). -/
def fprGet (s : State) (r : Reg) : DWord := s.fpr[r.toNat]'r.isLt

/-- Write a floating-point register and mark it initialised (R41, R745). -/
def fprSet (s : State) (r : Reg) (v : DWord) : State :=
  { s with fpr := s.fpr.set r.toNat v r.isLt, fprInit := s.fprInit ||| maskBit r.toNat }

/-- Whether a floating-point register has been written since hard reset (R745). -/
def fprReady (s : State) (r : Reg) : Bool := bitAt s.fprInit r.toNat

/-- Read a segment register (R67). -/
def srGet (s : State) (n : BitVec 4) : Word := s.mmu.sr[n.toNat]'n.isLt

/-- Write a segment register, both copies at once (R67). -/
def srSet (s : State) (n : BitVec 4) (v : Word) : State :=
  { s with mmu := { s.mmu with sr := s.mmu.sr.set n.toNat v n.isLt } }

/-- The address of the next instruction in sequence (R47, D3). -/
def npc (s : State) : Word := s.pc + 4

/-- Go on with the instruction after this one (R47). -/
def advance (s : State) : State := { s with pc := npc s }

/-- The end of an instruction that does not branch. -/
def nextInstr (s : State) : Out := .next (advance s)

/-! ## Free values -/

/-- A fresh value of `w` bits that nothing constrains ("any value", 93_implementation_defined.md section 1). -/
def fresh (w : Nat) (s : State) : BitVec w × State :=
  (Config.free w s.freeCtr, { s with freeCtr := s.freeCtr + 1 })

/-- `n` fresh bytes. -/
def freshBytes : Nat → State → List Byte × State
  | 0, s => ([], s)
  | n + 1, s =>
    let (b, s) := fresh 8 s
    let (bs, s) := freshBytes n s
    (b :: bs, s)

/-! ## Old or new (R1140, R1141) -/

/-- A register of a BAT pair (R65). -/
def batGet (s : State) (data : Bool) (i : Fin 8) (lower : Bool) : Word :=
  let b := if data then s.mmu.dbat[i] else s.mmu.ibat[i]
  if lower then b.lower else b.upper

/-- The value last written: what `mfmsr`, `mfspr`, `mfsr` and `mfsrin` read (R1140). -/
def held (s : State) (c : Control) : Word :=
  match c with
  | .msr => s.msr
  | .order => s.msr
  | .sr n => srGet s n
  | .bat data i lower => batGet s data i lower
  | .sdr1 => s.mmu.sdr1
  | .hid0 => s.hid.hid0
  | .dabr => s.sup.dabr
  | .ear => s.sup.ear
  | .iabr => s.hid.iabr

/-- The value in force for a use: the last choice between old and new, or the register where none is open (R1140). -/
def control (s : State) (c : Control) : Word := (s.ctx.inForce.lookup c).getD (held s c)

/-- A control is about to be overwritten: its value goes on being in force until a use chooses (R1140). -/
def overwrite (c : Control) (s : State) : State :=
  { s with ctx := { stale := (c, held s c) :: s.ctx.stale, inForce := (c, held s c) :: s.ctx.inForce } }

/-- The bits of this control are used one by one. -/
def bitwise (c : Control) : Bool := c == .msr || c == .hid0

/-- For every stale value of a chosen control: keep the value in force, or go back to the stale one. -/
def chooseAll (p : Control → Bool) : List (Control × Word) → State → State
  | [], s => s
  | (c, old) :: l, s =>
    if p c then
      let (m, s) := fresh 32 s
      let m := if bitwise c then m else if bitAt m 0 then 0xFFFFFFFF else 0
      chooseAll p l { s with ctx := { s.ctx with inForce := (c, merge m (control s c) old) :: s.ctx.inForce } }
    else chooseAll p l s

/-- A use of the controls `p` selects: while a window is open, each is old or new, chosen afresh (R1140). -/
def rechoose (p : Control → Bool) (s : State) : State :=
  if s.ctx.stale.isEmpty then s
  else chooseAll p s.ctx.stale
    { s with ctx := { s.ctx with inForce := s.ctx.inForce.filter fun e => !p e.1 } }

/-- The uses of an instruction and of its first access: everything but the breakpoint on its address. -/
def newUse (s : State) : State := rechoose (fun c => c != .iabr) s

/-- A further use by the same access: the byte order stays as it was chosen. -/
def furtherUse (s : State) : State := rechoose (fun c => c != .iabr && c != .order) s

/-- The comparison of an instruction's address with IABR (R1141). -/
def iabrUse (s : State) : State := rechoose (fun c => c == .iabr) s

/-! ## Mode bits (R61) -/

/-- The MSR bits R1140 names are read as in force; the others as written. -/
def msrPr (s : State) : Bool := bitAt (control s .msr) 17
def msrFp (s : State) : Bool := bitAt (control s .msr) 18
def msrIr (s : State) : Bool := bitAt (control s .msr) 26
def msrDr (s : State) : Bool := bitAt (control s .msr) 27
def msrLe (s : State) : Bool := bitAt (control s .order) 31

/-- FE0 or FE1: floating-point enabled exceptions are taken (R63). -/
def msrFe (s : State) : Bool := bitAt (control s .msr) 20 || bitAt (control s .msr) 23

def msrPow (s : State) : Bool := bitAt s.msr 13
def msrIle (s : State) : Bool := bitAt s.msr 15
def msrEe (s : State) : Bool := bitAt s.msr 16
def msrMe (s : State) : Bool := bitAt s.msr 19
def msrSe (s : State) : Bool := bitAt s.msr 21
def msrBe (s : State) : Bool := bitAt s.msr 22
def msrIp (s : State) : Bool := bitAt s.msr 25
def msrPm (s : State) : Bool := bitAt s.msr 29

/-- MSR[PR] as written: what the performance monitor looks at. -/
def userMode (s : State) : Bool := bitAt s.msr 17

/-- HID0 as in force (R1141). -/
def hid0Now (s : State) : Word := control s .hid0

/-! ## Exception entry and return -/

/-- The physical base of the vectors (R220, R921). -/
def vectorBase (s : State) : Word := if msrIp s then 0xFFF00000 else 0

/-- The MSR after entry, `keep` being the bits that stay: ILE is copied into LE (R927). -/
def msrAfterEntry (keep msr : Word) : Word := (msr &&& keep) ||| boolWord (bitAt msr 15)

/-- The window without the MSR's old values. -/
def withoutMsr (c : Context) : Context :=
  { stale := c.stale.filter fun e => e.1 != .msr && e.1 != .order
    inForce := c.inForce.filter fun e => e.1 != .msr && e.1 != .order }

/-- Exception entry (R930): vector offset `vec`, address to save `a`, SRR1 information bits `info`; `keep` is the mask of
the MSR bits that stay. The reservation is not touched (R238). The stores of completed instructions have left the store
queue (R924, R936, R964); for a push or a castout only a `sync` waits (R226, R245). The new MSR is in force at
once; the other controls stay as they are (R1140 names the resets and the machine check as not context-synchronising). -/
def enterWith (keep vec a info : Word) (s : State) : State :=
  { s with
    sup := { s.sup with srr0 := a &&& 0xFFFFFFFC, srr1 := (s.msr &&& 0x87C0FFFF) ||| info }
    msr := msrAfterEntry keep s.msr
    pc := vectorBase s + vec
    excTaken := true
    traceDue := false
    powAsked := false
    storeQueue := pushesIn s.storeQueue
    ctx := withoutMsr s.ctx
    fetch := noFetch }

/-- What was fetched ahead is dropped (R97, R304). -/
def dropAhead (s : State) : State := { s with fetch := { s.fetch with queue := [] } }

/-- A context-synchronising operation: every window is closed, what was fetched ahead is dropped, and fetches use the
instruction cache as every `icbi` before it left it (R97, R229, R847, R1140). -/
def contextSync (s : State) : State :=
  dropAhead { s with ctx := ⟨[], []⟩, caches := { s.caches with leaving := [] } }

/-- Taking any exception but the resets and the machine check (R930, R927: ILE, ME and IP stay). -/
def takeException (vec a info : Word) (s : State) : State := contextSync (enterWith 0x00011040 vec a info s)

/-- Taking a machine check: ME is cleared as well (R927, R936). -/
def takeMachineCheck (a info : Word) (s : State) : State := enterWith 0x00010040 0x00200 a info s

/-- The next fetch is the first after a reset (R101). -/
def firstFetchNext (s : State) : State := { s with fetch := { s.fetch with single := true } }

/-- Taking a soft reset (R933, R101). -/
def takeSoftReset (a : Word) (s : State) : State := firstFetchNext (enterWith 0x00011040 0x00100 a 0 s)

/-- Taking a DSI: DAR and DSISR are loaded (R940). -/
def takeDsi (dar dsisr : Word) (s : State) : State :=
  takeException 0x00300 s.pc 0 { s with sup := { s.sup with dar := dar, dsisr := dsisr } }

/-- Taking an alignment exception (R944). -/
def takeAlignment (dar dsisr : Word) (s : State) : State :=
  takeException 0x00600 s.pc 0 { s with sup := { s.sup with dar := dar, dsisr := dsisr } }

/-- Taking a program exception; `info` is its one SRR1 bit (R945). -/
def takeProgram (info : Word) (s : State) : State := takeException 0x00700 s.pc info s

/-- The illegal-instruction program exception (R946). -/
def takeIllegal (s : State) : State := takeProgram (maskBit 12) s

/-- The privileged-instruction program exception (R947). -/
def takePrivileged (s : State) : State := takeProgram (maskBit 13) s

/-- The trap program exception (R949). -/
def takeTrap (s : State) : State := takeProgram (maskBit 14) s

/-- The floating-point enabled program exception (R948). -/
def takeFpEnabled (s : State) : State := takeProgram (maskBit 11) s

/-- The floating-point unavailable exception (R950). -/
def takeFpUnavailable (s : State) : State := takeException 0x00800 s.pc 0 s

/-- The system call exception (R952): SRR0 is the address after the `sc`. -/
def takeSystemCall (s : State) : State := takeException 0x00C00 (npc s) 0 s

/-- The MSR bits `rfi` takes from SRR1 (D61). -/
def rfiMask : Word := 0x87C0FF7F

/-- Return from an exception (R832, R931): the MSR from SRR1, the pc from SRR0. It switches translation and address
together (R303). -/
def returnFromException (s : State) : State :=
  contextSync { s with
    msr := merge rfiMask s.msr s.sup.srr1, pc := s.sup.srr0 &&& 0xFFFFFFFC, fetch := noFetch }

/-- An instruction only the supervisor may run (R947, R971). -/
def privileged (s : State) (k : Out) : Out := if msrPr s then .next (takePrivileged s) else k

/-- An instruction that needs MSR[FP] (R950). -/
def needsFp (s : State) (k : Out) : Out := if msrFp s then k else .next (takeFpUnavailable s)

/-! ## Physical memory (R200) -/

/-- What a byte of memory nothing has written reads as (DESIGN CHOICE, notes/assumptions/2.md). -/
def unlistedByte : Byte := 0

/-- Read one byte of memory. -/
def memRead : Mem → Nat → Byte
  | [], _ => unlistedByte
  | (k, b) :: m, a => if a = k then b else if a < k then unlistedByte else memRead m a

/-- Write one byte of memory, keeping the canonical form: a byte equal to what an unlisted address reads as is not
listed. -/
def memWrite : Mem → Nat → Byte → Mem
  | [], a, v => if v = unlistedByte then [] else [(a, v)]
  | (k, b) :: m, a, v =>
    if a = k then (if v = unlistedByte then m else (a, v) :: m)
    else if a < k then (if v = unlistedByte then (k, b) :: m else (a, v) :: (k, b) :: m)
    else (k, b) :: memWrite m a v

/-- The canonical form of memory: addresses rising and inside the 32-bit space, no byte listed that an unlisted address
reads as. -/
def memWf : Mem → Bool
  | [] => true
  | [(k, b)] => decide (k < 2 ^ 32) && decide (b ≠ unlistedByte)
  | (k, b) :: (k', b') :: m => decide (k < k') && decide (b ≠ unlistedByte) && memWf ((k', b') :: m)

/-- One byte of physical memory. -/
def peek (s : State) (pa : Word) : Byte := memRead s.mem pa.toNat

/-- Replace one byte of physical memory. -/
def poke (s : State) (pa : Word) (v : Byte) : State := { s with mem := memWrite s.mem pa.toNat v }

/-- The block number PA[0:26] of an address (R342). -/
def blockOf (pa : Word) : BitVec 27 := field pa 0 27

/-- The first address of a block. -/
def blockBase (b : BitVec 27) : Word := b ++ (0 : BitVec 5)

/-- The system answers this address with TEA (R206, R386). -/
def isTea (s : State) (pa : Word) : Bool := s.tea.contains (blockOf pa)

/-- A transfer error: a machine check condition with SRR1[13] (R936). -/
def raiseTea (s : State) : State :=
  { s with latch := { s.latch with machineCheck := true, mcCause := s.latch.mcCause ||| 0b00100 } }

/-- Record a bus operation that no memory byte shows (R375). -/
def logBus (op : BusOp) (s : State) : State := { s with busLog := op :: s.busLog }

/-- The address is a device's (MEM_MAP, R10). -/
def isDevice (s : State) (pa : Word) : Bool := s.devices.contains (blockOf pa)

/-- A byte read from a device: what the environment answers, else any value (D70). -/
def deviceRead (pa : Word) (s : State) : Byte × State :=
  let s := logBus (.deviceRead pa) s
  match s.supply.answers with
  | b :: bs => (b, { s with supply := { s.supply with answers := bs } })
  | [] => fresh 8 s

/-- Bytes of a device from an address on. -/
def deviceReads : Nat → Word → State → List Byte × State
  | 0, _, s => ([], s)
  | n + 1, pa, s =>
    let (b, s) := deviceRead pa s
    let (bs, s) := deviceReads n (pa + 1) s
    (b :: bs, s)

/-- Bytes written to a device from an address on. -/
def deviceWrites : List Byte → Word → State → State
  | [], _, s => s
  | v :: vs, pa, s => deviceWrites vs (pa + 1) (logBus (.deviceWrite pa v) s)

/-- The newest `n` stores, and every push. -/
def newestStores : Nat → List Queued → List Queued
  | _, [] => []
  | n, g :: q =>
    if g.push then g :: newestStores n q
    else match n with
      | 0 => newestStores 0 q
      | n + 1 => g :: newestStores n q

/-- A store enters the store queue, which holds three (R94). -/
def enqueueStore (old : List Replaced) (q : List Queued) : List Queued := newestStores 3 (⟨false, old⟩ :: q)

/-- A store enters the store queue (R94). -/
def beginStore (s : State) : State := { s with storeQueue := enqueueStore [] s.storeQueue }

/-- The newest write of the queue has replaced one more byte; after a push that came inside a store, the store goes on as
another one. -/
def noteOld (e : Replaced) : List Queued → List Queued
  | [] => []
  | g :: q => if g.push then enqueueStore [e] (g :: q) else { g with old := e :: g.old } :: q

/-- The store at the head of the queue is about to replace this byte, of the L2 or of memory. -/
def queueOld (l2 : Bool) (pa : Word) (old : Byte) (s : State) : State :=
  { s with storeQueue := noteOld ⟨l2, pa.toNat, old⟩ s.storeQueue }

/-- The bytes that the writes of the queue have replaced. -/
def replacedBytes (q : List Queued) : List Replaced := q.flatMap (·.old)

/-- Another master writes the addresses `p` selects: what this processor's writes replaced there is done. -/
def forget (p : Nat → Bool) (s : State) : State :=
  { s with storeQueue := s.storeQueue.map fun g => { g with old := g.old.filter fun e => !p e.address } }

/-- The pushes and castouts of a block are done: a snoop of it waits for them (R366, R370; a store's single-beat write is
not snooped, R369). -/
def settleBlock (b : BitVec 27) (s : State) : State :=
  { s with storeQueue := s.storeQueue.map fun g =>
      if g.push then { g with old := g.old.filter fun e => e.address / 32 != b.toNat } else g }

/-- A `sync` has waited: every store, push and castout is done, and so is every `icbi` (R226). -/
def drainStores (s : State) : State := { s with storeQueue := [], caches := { s.caches with leaving := [] } }

/-- A byte read from the bus: memory, a device's answer, or any value and a machine check where the system answers TEA
(R386). -/
def busReadByte (pa : Word) (s : State) : Byte × State :=
  if isTea s pa then fresh 8 (raiseTea s)
  else if isDevice s pa then deviceRead pa s
  else (peek s pa, s)

/-- A byte written to the bus; a transfer that ends in TEA writes nothing (R386). -/
def busWriteByte (pa : Word) (v : Byte) (s : State) : State :=
  if isTea s pa then raiseTea s
  else if isDevice s pa then logBus (.deviceWrite pa v) s
  else poke (queueOld false pa (peek s pa) s) pa v

/-- The bytes of a block of memory from byte `k` of the block on. -/
def peekBlock (s : State) (b : BitVec 27) : BlockData :=
  Vector.ofFn fun k : Fin 32 => peek s (blockBase b + BitVec.ofNat 32 k.val)

/-- Write the listed bytes to memory from an address on. -/
def pokeBytes : List Byte → Word → State → State
  | [], _, s => s
  | v :: vs, a, s => pokeBytes vs (a + 1) (poke s a v)

/-- The first 32 bytes of a list as a block. -/
def asBlock (bs : List Byte) : BlockData := Vector.ofFn fun k : Fin 32 => bs.getD k.val 0

/-- A burst read of a block (R382). -/
def busReadBlock (b : BitVec 27) (s : State) : BlockData × State :=
  if s.tea.contains b then
    let (bs, s) := freshBytes 32 (raiseTea s)
    (asBlock bs, s)
  else if s.devices.contains b then
    let (bs, s) := deviceReads 32 (blockBase b) s
    (asBlock bs, s)
  else (peekBlock s b, s)

/-- A burst write of a block (R382). -/
def busWriteBlock (b : BitVec 27) (d : BlockData) (s : State) : State :=
  if s.tea.contains b then raiseTea s
  else if s.devices.contains b then deviceWrites d.toList (blockBase b) s
  else pokeBytes d.toList (blockBase b) s

/-- Bytes of memory are as they were: `l` lists them, the newest first. -/
def restore : List Replaced → State → State
  | [], s => s
  | e :: l, s => restore l (if e.l2 then s else poke s (BitVec.ofNat 32 e.address) e.value)

/-- The newest writes of the queue, any number of them, by a free choice. -/
def someNewest (s : State) : List Queued × State :=
  let (k, s) := fresh 32 s
  (s.storeQueue.take (k.toNat % (s.storeQueue.length + 1)), s)

/-- Writes still in the queue are lost: any number of the newest ones (R1120). -/
def loseStores (s : State) : State :=
  if (replacedBytes s.storeQueue).isEmpty then s
  else
    let (q, s) := someNewest s
    restore (replacedBytes q) s

end Sys2Proof.Machine
end

