-- ==== Sys2Proof/Machine/Caches.lean ====
section
/-! DEFINITION. The caches as state: L1 data cache (R342 to R352), L2 (R410), instruction cache (R344), replacement, and a
push of a modified block to memory. The paths of an access through them are Machine/Paths.lean. -/

namespace Sys2Proof.Machine

/-! ## Control bits -/

def hidIce (s : State) : Bool := bitAt (hid0Now s) 16
def hidDce (s : State) : Bool := bitAt (hid0Now s) 17
def hidIlock (s : State) : Bool := bitAt (hid0Now s) 18
def hidDlock (s : State) : Bool := bitAt (hid0Now s) 19
def hidSpd (s : State) : Bool := bitAt (hid0Now s) 22
def hidDcfa (s : State) : Bool := bitAt (hid0Now s) 25
def hidAbe (s : State) : Bool := bitAt (hid0Now s) 28
def hidNoopti (s : State) : Bool := bitAt (hid0Now s) 31
def l2On (s : State) : Bool := bitAt s.hid.l2cr 0
def l2DataOnly (s : State) : Bool := bitAt s.hid.l2cr 9
def l2Wt (s : State) : Bool := bitAt s.hid.l2cr 12
def l2Ts (s : State) : Bool := bitAt s.hid.l2cr 13

/-- Way `w` of the L2 is locked: L2CR[20] locks way 0, L2CR[21] way 1 (R425). -/
def l2Locked (s : State) (w : Fin 2) : Bool := bitAt s.hid.l2cr (20 + w.val)

/-- W, I, M, G of an access (R222). -/
def attrW (x : BitVec 4) : Bool := bitAt x 0
def attrI (x : BitVec 4) : Bool := bitAt x 1
def attrM (x : BitVec 4) : Bool := bitAt x 2
def attrG (x : BitVec 4) : Bool := bitAt x 3

/-! ## Replacement (R345, R346) -/

/-- The eight ways, lowest first. -/
def ways8 : List (Fin 8) := [0, 1, 2, 3, 4, 5, 6, 7]

/-- The PLRU bits after an access to a way (R345, Table 3-2; a fill counts as an access, D40). -/
def plruTouch (b : BitVec 7) (w : Fin 8) : BitVec 7 :=
  match w with
  | 0 => merge 0b1101000 b 0b1101000
  | 1 => merge 0b1101000 b 0b1100000
  | 2 => merge 0b1100100 b 0b1000100
  | 3 => merge 0b1100100 b 0b1000000
  | 4 => merge 0b1010010 b 0b0010010
  | 5 => merge 0b1010010 b 0b0010000
  | 6 => merge 0b1010001 b 0b0000001
  | 7 => merge 0b1010001 b 0b0000000

/-- The way the PLRU tree points at (R346, Table 3-3). -/
def plruVictim (b : BitVec 7) : Fin 8 :=
  if !bitAt b 0 then
    if !bitAt b 1 then (if bitAt b 3 then 1 else 0) else (if bitAt b 4 then 3 else 2)
  else
    if !bitAt b 2 then (if bitAt b 5 then 5 else 4) else (if bitAt b 6 then 7 else 6)

/-- The way to fill: the lowest invalid one, else the PLRU victim; with DCFA always the latter (R346). -/
def victimWay {β : Type} (ways : Vector (Option β) 8) (plru : BitVec 7) (dcfa : Bool) : Fin 8 :=
  if dcfa then plruVictim plru
  else (ways8.find? fun w => ways[w].isNone).getD (plruVictim plru)

/-! ## The L1 data cache -/

/-- The set of an address: PA[20:26] (R342). -/
def setOf (pa : Word) : Fin 128 := (field pa 20 7).toFin

/-- The tag of an address: PA[0:19] (R342). -/
def tagOf (pa : Word) : BitVec 20 := field pa 0 20

/-- The byte of an address within its block: PA[27:31] (R342). -/
def offOf (pa : Word) : Fin 32 := (field pa 27 5).toFin

def dset (s : State) (i : Fin 128) : DSet := s.caches.dcache[i]

def dsetPut (s : State) (i : Fin 128) (x : DSet) : State :=
  { s with caches := { s.caches with dcache := s.caches.dcache.set i.val x i.isLt } }

/-- The way of the data cache that holds the block of an address. -/
def dFind (s : State) (pa : Word) : Option (Fin 8) :=
  ways8.find? fun w => match (dset s (setOf pa)).ways[w] with
    | some b => b.tag == tagOf pa
    | none => false

/-- The block of an address in the data cache. -/
def dBlock (s : State) (pa : Word) : Option DBlock :=
  match dFind s pa with
  | some w => (dset s (setOf pa)).ways[w]
  | none => none

/-- Put a block (or invalidity) into a way, the PLRU bits untouched. -/
def dWayPut (s : State) (pa : Word) (w : Fin 8) (b : Option DBlock) : State :=
  let x := dset s (setOf pa)
  dsetPut s (setOf pa) { x with ways := x.ways.set w.val b w.isLt }

/-- Note an access to a way (R345). -/
def dTouch (s : State) (pa : Word) (w : Fin 8) : State :=
  let x := dset s (setOf pa)
  dsetPut s (setOf pa) { x with plru := plruTouch x.plru w }

/-- The address of the block a way holds. -/
def dBlockAddr (pa : Word) (b : DBlock) : BitVec 27 := b.tag ++ field pa 20 7

/-! ## The L2 (R410) -/

def l2SetOf (pa : Word) : Fin 4096 := (field pa 14 12).toFin
def l2TagOf (pa : Word) : BitVec 14 := field pa 0 14
def l2SectorOf (pa : Word) : Fin 2 := (field pa 26 1).toFin

def l2Set (s : State) (pa : Word) : L2Set := s.caches.l2[l2SetOf pa]

def l2SetPut (s : State) (pa : Word) (x : L2Set) : State :=
  { s with caches := { s.caches with l2 := s.caches.l2.set (l2SetOf pa).val x (l2SetOf pa).isLt } }

/-- A line with the address's tag and the address's sector valid. -/
def l2LineHits (l : L2Line) (pa : Word) : Bool := l.tag == l2TagOf pa && l.sectors[l2SectorOf pa].isSome

/-- The way of the L2 that holds the sector of an address (R411). -/
def l2Find (s : State) (pa : Word) : Option (Fin 2) :=
  let x := l2Set s pa
  if l2LineHits x.ways[0] pa then some 0 else if l2LineHits x.ways[1] pa then some 1 else none

/-- The sector of an address, if the enabled L2 holds it. -/
def l2Sector (s : State) (pa : Word) : Option L2Sector :=
  match l2Find s pa with
  | some w => (l2Set s pa).ways[w].sectors[l2SectorOf pa]
  | none => none

/-- Put a sector of an address into a way; the way becomes the most recently used. -/
def l2SectorPut (s : State) (pa : Word) (w : Fin 2) (sec : Option L2Sector) : State :=
  let x := l2Set s pa
  let l := x.ways[w]
  let l := { l with sectors := l.sectors.set (l2SectorOf pa).val sec (l2SectorOf pa).isLt }
  l2SetPut s pa { ways := x.ways.set w.val l w.isLt, lru := if w = 0 then 1 else 0 }

/-- Note an access to a way. -/
def l2Touch (s : State) (pa : Word) (w : Fin 2) : State :=
  l2SetPut s pa { l2Set s pa with lru := if w = 0 then 1 else 0 }

/-- A line none of whose sectors is valid holds no tag. -/
def l2LineLive (l : L2Line) : Bool := l.sectors[0].isSome || l.sectors[1].isSome

/-- The way a new sector goes to: an unlocked way that already has the line, else the least recently used way, else the
unlocked one; none if both are locked (R411, R425, R426). -/
def l2AllocWay (s : State) (pa : Word) : Option (Fin 2) :=
  let x := l2Set s pa
  let has (w : Fin 2) : Bool := !l2Locked s w && l2LineLive x.ways[w] && x.ways[w].tag == l2TagOf pa
  if has 0 then some 0 else if has 1 then some 1
  else match l2Locked s 0, l2Locked s 1 with
    | false, false => some x.lru.toFin
    | false, true => some 0
    | true, false => some 1
    | true, true => none

/-- The block number of a sector of a line. -/
def l2BlockAddr (pa : Word) (l : L2Line) (sector : BitVec 1) : BitVec 27 := l.tag ++ field pa 14 12 ++ sector

/-- Replace the line of a way; the LRU bit stays. -/
def l2LinePut (s : State) (pa : Word) (w : Fin 2) (l : L2Line) : State :=
  let x := l2Set s pa
  l2SetPut s pa { x with ways := x.ways.set w.val l w.isLt }

/-- The bytes of a block as the entries of a queued write. -/
def replacedBlock (l2 : Bool) (b : BitVec 27) (d : BlockData) : List Replaced :=
  (List.finRange 32).map fun k => ⟨l2, b.toNat * 32 + k.val, d[k]⟩

/-- The push or castout of a block enters the bus queues (R94, R379): the block as a fetch finds it in memory, and as one
that looks in the L2 first finds it, before the write is done (R245). A device's block, and one that answers TEA, has no
bytes in memory. -/
def beginPush (b : BitVec 27) (s : State) : State :=
  let inMemory (l2 : Bool) : List Replaced :=
    if s.tea.contains b || s.devices.contains b then [] else replacedBlock l2 b (peekBlock s b)
  let inL2 := match l2On s, l2Sector s (blockBase b) with
    | true, some sec => replacedBlock true b sec.data
    | _, _ => inMemory true
  { s with storeQueue := ⟨true, inMemory false ++ inL2⟩ :: s.storeQueue }

/-- A push of a modified block to memory: the L2's sector is invalidated, unless L2TS is set or its way is locked
(R364, R370, R416, R435). A sector that stays takes the pushed bytes (DESIGN CHOICE, notes/assumptions/55.md). -/
def push (b : BitVec 27) (d : BlockData) (s : State) : State :=
  let pa := blockBase b
  let s := busWriteBlock b d s
  if l2On s then
    match l2Find s pa, l2Sector s pa with
    | some w, some sec =>
      l2SectorPut s pa w (if l2Ts s || l2Locked s w then some { sec with data := d } else none)
    | _, _ => s
  else s

/-- Replace a byte of a block. -/
def blockPut (d : BlockData) (pa : Word) (v : Byte) : BlockData := d.set (offOf pa).val v (offOf pa).isLt

/-! ## The instruction cache (R344, R377) -/

def iset (s : State) (i : Fin 128) : ISet := s.caches.icache[i]

def isetPut (s : State) (i : Fin 128) (x : ISet) : State :=
  { s with caches := { s.caches with icache := s.caches.icache.set i.val x i.isLt } }

/-- The way of the instruction cache that holds the block of an address. -/
def iFind (s : State) (pa : Word) : Option (Fin 8) :=
  ways8.find? fun w => match (iset s (setOf pa)).ways[w] with
    | some b => b.tag == tagOf pa
    | none => false

/-- The instruction-side L2 look-up is made (R411, R417). -/
def l2ForFetch (s : State) : Bool := l2On s && !l2DataOnly s

/-! ## Whole-cache operations -/

/-- Flash invalidation of the data cache: every block invalid, PLRU bits 0, nothing written back (R351). -/
def flashInvalidateD (s : State) : State := { s with caches := { s.caches with dcache := emptyDcache } }

/-- Flash invalidation of the instruction cache (R351). -/
def flashInvalidateI (s : State) : State :=
  { s with caches := { s.caches with icache := emptyIcache, leaving := [] } }

/-- The end of a global L2 invalidation: every tag bit clear (R420). -/
def clearL2 (s : State) : State := { s with caches := { s.caches with l2 := emptyL2, l2Inval := 0 } }

/-- The valid blocks of a set of the instruction cache. -/
def iBlocks (x : ISet) (set : BitVec 7) : List Leaving :=
  x.ways.toList.filterMap fun b => b.map fun b => ⟨b.tag ++ set, b.data⟩

/-- Every way of the set EA[20:26] of the instruction cache becomes invalid (R246, R886). Until a `sync` or a
context-synchronising operation a fetch may still hit the blocks (R226, R229, R245). -/
def invalidateISet (ea : Word) (s : State) : State :=
  let x := iset s (setOf ea)
  let s := isetPut s (setOf ea) { x with ways := Vector.replicate 8 none }
  { s with caches := { s.caches with leaving := iBlocks x (field ea 20 7) ++ s.caches.leaving } }

/-- The block of an address as an `icbi` that may not be done found it in the instruction cache. -/
def iLeaving (s : State) (pa : Word) : Option BlockData :=
  (s.caches.leaving.find? fun x => x.block == blockOf pa).map (·.data)

end Sys2Proof.Machine
end

