-- ==== Sys2Proof/Machine/Snoop.lean ====
section
/-! DEFINITION. Transactions of other bus masters (R370, R427, R429) and the gaps between the processor's own
transactions in which they fall (R250). -/

namespace Sys2Proof.Machine

/-! ## Snooped transactions (R370) -/

/-- What a snoop hit does to a block. -/
inductive SnoopAction
  | nothing
  /-- Modified data are pushed, the block stays as E. -/
  | clean
  /-- Modified data are pushed, the block becomes I. -/
  | flush
  /-- The block becomes I, modified data are lost. -/
  | kill
  deriving DecidableEq, Repr

/-- The action of a transaction (R370, Table 3-5); none for a reserved transfer type. -/
def snoopAction (k : SnoopKind) : Option SnoopAction :=
  match k with
  | .clean | .flush | .sync | .eieio | .extWrite | .tlbInvalidate | .extRead | .reservationSet | .tlbsync | .icbi =>
    some .nothing
  | .kill | .writeFlush | .readBurst | .rwitm | .writeFlushAtomic | .readAtomicBurst | .rwitmAtomic => some .flush
  | .writeKill => some .kill
  | .readSingle | .readAtomicSingle | .rwnitc => some .clean
  | .reserved => none

/-- The reservation is lost (R238, R370). -/
def snoopCancels (k : SnoopKind) (pa : Word) (s : State) : Bool :=
  match k with
  | .writeFlushAtomic => true
  | .kill | .writeFlush | .writeKill => s.resv.block == blockOf pa
  | _ => false

/-- The effect on the data cache; a snoop is no access of the processor: the PLRU bits stay (DESIGN CHOICE,
notes/assumptions/60.md). -/
def snoopL1 (act : SnoopAction) (pa : Word) (s : State) : State :=
  if hidDce s then
    match dFind s pa, dBlock s pa with
    | some w, some b =>
      let pushed := if b.modified && act ≠ .kill then push (blockOf pa) b.data s else s
      match act with
      | .nothing => s
      | .clean => dWayPut pushed pa w (some { b with modified := false })
      | .flush | .kill => dWayPut pushed pa w none
    | _, _ => s
  else s

/-- The effect on the L2 (R429). The way of a sector it acts on becomes the most recently used, also of one that stays
valid (DESIGN CHOICE, notes/assumptions/60.md: no rule says what a snoop does to the L2's LRU bit). -/
def snoopL2 (act : SnoopAction) (pa : Word) (s : State) : State :=
  if l2On s then
    match l2Find s pa, l2Sector s pa with
    | some w, some sec =>
      let pushed := if sec.modified && act ≠ .kill then busWriteBlock (blockOf pa) sec.data s else s
      match act with
      | .nothing => s
      | .clean => l2SectorPut pushed pa w (some { sec with modified := false })
      | .flush | .kill => l2SectorPut pushed pa w none
    | _, _ => s
  else s

/-- A snoop that acts on blocks has hit a sector of a locked way: L2CR[SHERR], and with L2CR[SHEE] a machine check (R110,
R170, R427, R936, R1110); a hit that leaves the sector valid too (DESIGN CHOICE, notes/assumptions/81.md: R427 names only
one that invalidates it). -/
def snoopLocked (pa : Word) (before after : State) : State :=
  match l2Find before pa with
  | some w =>
    if l2On before && l2Locked before w then
      { after with
        hid := { after.hid with l2cr := setBit after.hid.l2cr 23 true }
        latch := { after.latch with machineCheck := after.latch.machineCheck || bitAt after.hid.l2cr 22 } }
    else after
  | none => after

/-- A snooped transaction's effect on the caches: only a global one has any (R370). It waits for this processor's pushes
of the block, also those it causes (R366, R370). -/
def snoopCaches (act : SnoopAction) (isGlobal : Bool) (pa : Word) (s : State) : State :=
  if isGlobal && act ≠ .nothing then settleBlock (blockOf pa) (snoopLocked pa s (snoopL2 act pa (snoopL1 act pa s))) else s

/-- The processor snoops (R1070, R1072): not in nap, asleep, in reset or checkstopped. -/
def snooping (s : State) : Bool := s.run = .running || s.run = .doze

/-- Bytes another master writes: memory, but not a device's blocks (D75). -/
def otherWrites : List Byte → Word → State → State
  | [], _, s => s
  | v :: vs, pa, s =>
    otherWrites vs (pa + 1) (if isDevice s pa then s else poke (forget (fun a => a == pa.toNat) s) pa v)

/-- The snoop of a transaction: the reservation and the caches (R238, R370). -/
def snooped (act : SnoopAction) (x : Snoop) (s : State) : State :=
  if snooping s then
    snoopCaches act x.isGlobal x.pa
      (if snoopCancels x.kind x.pa s then { s with resv := { s.resv with held := false } } else s)
  else s

/-- Another master's transaction: the snoop, then the bytes it writes (R370, D75). -/
def applySnoop (x : Snoop) (s : State) : State :=
  match snoopAction x.kind with
  | none => s
  | some act => otherWrites x.data x.pa (snooped act x s)

/-- Transactions one after the other. -/
def applySnoops : List Snoop → State → State
  | [], s => s
  | x :: xs, s => applySnoops xs (applySnoop x s)

/-- A transaction at an instruction boundary: a reserved transfer type has no stated meaning (R370). -/
def snoop (x : Snoop) (s : State) : Res Unit :=
  if (snoopAction x.kind).isNone then .fault .reservedSnoop else .ok () (applySnoop x s)

/-- A gap between two bus transactions of an instruction: the other masters' transactions that fall into it (R250). -/
def gap (s : State) : State :=
  match s.supply.gaps with
  | [] => s
  | g :: gs => applySnoops g { s with supply := { s.supply with gaps := gs } }

end Sys2Proof.Machine
end

