-- ==== Sys2Proof/Machine/Paths.lean ====
section
/-! DEFINITION. The paths of an access through the caches (R361 to R368, R377, R411 to R418), written byte by byte from the
functional model of R435, each bus transaction after a gap in which other masters act (R250): what a transfer moves is
read after its gap. -/

namespace Sys2Proof.Machine

/-! ## Castouts and fills (R361, R366, R411, R412) -/

/-- A modified sector of a line that is to be replaced is cast out (R411), in a transaction of its own until which a snoop
may still hit it. -/
def l2CastoutSector (pa : Word) (w k : Fin 2) (s : State) : State :=
  let dirty (s : State) : Option BlockData :=
    match (l2Set s pa).ways[w].sectors[k] with
    | some sec => if sec.modified then some sec.data else none
    | none => none
  if (dirty s).isNone then s
  else
    let s := gap s
    match dirty s with
    | some d =>
      let l := (l2Set s pa).ways[w]
      let b := l2BlockAddr pa l (BitVec.ofFin k)
      l2LinePut (busWriteBlock b d (beginPush b s)) pa w
        { l with sectors := l.sectors.set k.val none k.isLt }
    | none => s

/-- A way is made ready for a sector of an address: the line it holds is cast out, unless it is the address's own (R411,
R412). -/
def l2Evict (pa : Word) (w : Fin 2) (s : State) : State :=
  let l := (l2Set s pa).ways[w]
  if l2LineLive l && l.tag == l2TagOf pa then s
  else
    l2LinePut (l2CastoutSector pa w 1 (l2CastoutSector pa w 0 s)) pa w
      { tag := l2TagOf pa, sectors := Vector.replicate 2 none }

/-- The way of the L2 a sector of an address can be written to, made ready: the one that holds it, else a new one; none
where the L2 is off or has no way for it (R411, R425, R426). -/
def l2Room (pa : Word) (s : State) : Option (Fin 2) × State :=
  if l2On s then
    match l2Find s pa with
    | some w => (some w, s)
    | none =>
      match l2AllocWay s pa with
      | some w => (some w, l2Evict pa w s)
      | none => (none, s)
  else (none, s)

/-- A block for an L1 cache: from the L2 if it is asked and holds it, else from the bus, which also fills the L2
(R361, R411, R426). -/
def fetchBlock (useL2 : Bool) (pa : Word) (s : State) : BlockData × State :=
  if useL2 then
    match l2Find s pa, l2Sector s pa with
    | some w, some sec => (sec.data, l2Touch s pa w)
    | _, _ =>
      let (room, s) := l2Room pa s
      let (d, s) := busReadBlock (blockOf pa) (gap s)
      match room with
      | some w => (d, l2SectorPut s pa w (some { modified := false, data := d }))
      | none => (d, s)
  else busReadBlock (blockOf pa) (gap s)

/-- The castout of a replaced modified block: to the L2, with L2WT to the bus too, or to memory where there is no way for
it (R366, R412, R426). -/
def castout (room : Option (Fin 2)) (b : BitVec 27) (d : BlockData) (s : State) : State :=
  let s := beginPush b s
  match room with
  | some w =>
    let s := l2SectorPut s (blockBase b) w (some { modified := !l2Wt s, data := d })
    if l2Wt s then busWriteBlock b d s else s
  | none => busWriteBlock b d s

/-- A push of a modified block by this processor: it enters the bus queues (R94). -/
def ownPush (b : BitVec 27) (d : BlockData) (s : State) : State := push b d (beginPush b s)

/-- The block a way of the data cache holds is cast out if it is modified; until then a snoop may hit it (R366). -/
def castoutWay (pa : Word) (w : Fin 8) (s : State) : State :=
  let dirty (s : State) : Option DBlock :=
    match (dset s (setOf pa)).ways[w] with
    | some b => if b.modified then some b else none
    | none => none
  match dirty s with
  | some b =>
    let (room, s) := l2Room (blockBase (dBlockAddr pa b)) (gap s)
    match dirty s with
    | some b => dWayPut (castout room (dBlockAddr pa b) b.data s) pa w none
    | none => s
  | none => s

/-- Fill the data cache with the block of an address after a miss (R361, R362). Answers the way. The castout comes before
the fill's look-up in the L2, which it may change (DESIGN CHOICE, notes/assumptions/84.md: so R361 and R435; R366 says when
the load completes). -/
def dFill (pa : Word) (s : State) : Fin 8 × State :=
  let x := dset s (setOf pa)
  let w := victimWay x.ways x.plru (hidDcfa s)
  let (d, s) := fetchBlock (l2On s) pa (castoutWay pa w s)
  let s := dWayPut s pa w (some { tag := tagOf pa, modified := false, data := d })
  (w, dTouch s pa w)

/-! ## Pushes of `dcbf` and `dcbst` (R416, R418, R426) -/

/-- The way of the L2 that the push of a modified block by `dcbf` or `dcbst` goes to, made ready: with L2TS any that can
take it, else a locked one that holds the block: the push then goes there alone, not to memory (R426; DESIGN CHOICE,
notes/assumptions/56.md: R416, R883, R884 and the push of R435 write memory and name no lock). With L2TS and no way that can
take it there is none (DESIGN CHOICE, the same entry: R418 says only into the L2, R425 lets no locked way allocate). -/
def pushRoom (pa : Word) (s : State) : Option (Fin 2) × State :=
  match dBlock s pa with
  | some b =>
    if b.modified then
      if l2Ts s then l2Room pa s
      else
        match l2Find s pa with
        | some w => (if l2On s && l2Locked s w then some w else none, s)
        | none => (none, s)
    else (none, s)
  | none => (none, s)

/-- A push caused by `dcbf` or `dcbst`: into the L2 where it has room, and with L2WT to the bus too (R414), else as any push.
The sector becomes modified, with L2WT unmodified (DESIGN CHOICE, notes/assumptions/56.md: R418 says valid only; as for a
castout, R412). -/
def pushByInstr (room : Option (Fin 2)) (b : BitVec 27) (d : BlockData) (s : State) : State :=
  match room with
  | some w => castout (some w) b d s
  | none => ownPush b d s

/-! ## Reads and writes of the data side (R435) -/

/-- A caching-inhibited access that hits the data cache: the block is pushed if modified and invalidated; the access is
then made again (R364). -/
def dEvictParadox (pa : Word) (s : State) : State :=
  if hidDce s then
    match dFind s pa, dBlock s pa with
    | some w, some b =>
      let drop (s : State) : State := dTouch (dWayPut s pa w none) pa w
      if b.modified then gap (drop (ownPush (blockOf pa) b.data s)) else drop s
    | _, _ => s
  else s

/-- A single-beat read that missed the L1 or found it off: from the L2 if it holds the byte, else from the bus
(R368, R411). It allocates nothing in the L2, also not in the locking sequence of R425, whose step 8 loads the lines
while its steps 4 to 12 keep the L1 data cache off (DESIGN CHOICE, notes/assumptions/57.md: R411 is followed). -/
def singleRead (pa : Word) (s : State) : Byte × State :=
  if l2On s then
    match l2Find s pa, l2Sector s pa with
    | some w, some sec => (sec.data[offOf pa], l2Touch s pa w)
    | _, _ => busReadByte pa s
  else busReadByte pa s

/-- Read one byte on the data side (R435, DRead). -/
def dataReadByte (pa : Word) (wimg : BitVec 4) (s : State) : Byte × State :=
  if attrI wimg then busReadByte pa (dEvictParadox pa s)
  else if hidDce s then
    match dFind s pa, dBlock s pa with
    | some w, some b => (b.data[offOf pa], dTouch s pa w)
    | _, _ =>
      if hidDlock s then singleRead pa s
      else
        let (_, s) := dFill pa s
        match dBlock s pa with
        | some b => (b.data[offOf pa], s)
        | none => busReadByte pa s
  else singleRead pa s

/-- A byte of the L2 in way `w`, whose sector is `sec`, is stored to through the store queue (R94, R413). -/
def l2StoreByte (w : Fin 2) (sec : L2Sector) (modified : Bool) (pa : Word) (v : Byte) (s : State) : State :=
  l2SectorPut (queueOld true pa sec.data[offOf pa] s) pa w
    (some { modified := modified, data := blockPut sec.data pa v })

/-- A write-through store: the L2's copy if it has one (its modified bit unchanged), and the bus (R413, R435). -/
def writeThrough (pa : Word) (v : Byte) (s : State) : State :=
  let s := if l2On s then
      match l2Find s pa, l2Sector s pa with
      | some w, some sec => l2StoreByte w sec sec.modified pa v s
      | _, _ => s
    else s
  busWriteByte pa v s

/-- A cacheable copy-back store that could not use the L1: into the L2 if it hits, else discarded with L2TS, also while the
L2 is off (the last line of R435's SingleBeatStore), else to the bus (R413, R418). -/
def singleWrite (pa : Word) (v : Byte) (s : State) : State :=
  if l2On s then
    match l2Find s pa, l2Sector s pa with
    | some w, some sec =>
      if l2Wt s then busWriteByte pa v (l2StoreByte w sec sec.modified pa v s) else l2StoreByte w sec true pa v s
    | _, _ => if l2Ts s then s else busWriteByte pa v s
  else if l2Ts s then s
  else busWriteByte pa v s

/-- What comes before a write-through store that hits a modified block: the block is pushed, the store then made again (DESIGN
CHOICE, notes/assumptions/74.md: so Table 3-7, R369; DWrite of R435 does not push, R363 leaves it open). -/
def pushWritten (pa : Word) (wimg : BitVec 4) (s : State) : State :=
  if attrW wimg && !attrI wimg && hidDce s then
    match dBlock s pa with
    | some b => if b.modified then gap (ownPush (blockOf pa) b.data s) else s
    | none => s
  else s

/-- Write one byte on the data side (R435, DWrite). A write-through store that hits leaves the block's state as it is
(R363, R369); what Table 3-7 does before it to a modified block is `pushWritten`. -/
def dataWriteByte (pa : Word) (wimg : BitVec 4) (v : Byte) (s : State) : State :=
  if attrI wimg then busWriteByte pa v (dEvictParadox pa s)
  else if hidDce s then
    match dFind s pa, dBlock s pa with
    | some w, some b =>
      if attrW wimg then
        writeThrough pa v (dTouch (dWayPut s pa w (some { b with data := blockPut b.data pa v })) pa w)
      else dTouch (dWayPut s pa w (some { b with modified := true, data := blockPut b.data pa v })) pa w
    | _, _ =>
      if attrW wimg then writeThrough pa v s
      else if hidDlock s then singleWrite pa v s
      else
        let (w, s) := dFill pa s
        match dBlock s pa with
        | some b => dWayPut s pa w (some { b with modified := true, data := blockPut b.data pa v })
        | none => s
  else if attrW wimg then writeThrough pa v s
  else singleWrite pa v s

/-! ## The store of a `stwcx.` (R367, R415) -/

/-- The way of the L2 the store of a `stwcx.` is written to, without going to the bus: it hits a modified sector, or both
caches in copy-back mode; a locked line is not written through (R415, R426). -/
def condStoreWay (pa : Word) (wimg : BitVec 4) (s : State) : Option (Fin 2) :=
  let hitL1 := hidDce s && (dFind s pa).isSome
  if l2On s && !attrI wimg then
    match l2Find s pa, l2Sector s pa with
    | some w, some sec =>
      if l2Locked s w && attrW wimg then none
      else if sec.modified || (hitL1 && !attrW wimg && !l2Wt s) then some w
      else none
    | _, _ => none
  else none

/-- What comes before the store: a modified block of the L1 that it hits is written to memory, once (R367, Table 3-7), and
to the L2's sector if the store goes there, which stays and becomes modified (DESIGN CHOICE, notes/assumptions/82.md:
R435's push would invalidate an unlocked sector, R415 says only that the store is written to the L2); a caching-inhibited
store drops the block (R364). -/
def condPush (way : Option (Fin 2)) (pa : Word) (wimg : BitVec 4) (s : State) : State :=
  if attrI wimg then dEvictParadox pa s
  else if hidDce s then
    match dBlock s pa with
    | some b =>
      if b.modified then
        match way with
        | some w =>
          gap (l2SectorPut (busWriteBlock (blockOf pa) b.data (beginPush (blockOf pa) s)) pa w
            (some { modified := true, data := b.data }))
        | none => gap (ownPush (blockOf pa) b.data s)
      else s
    | none => s
  else s

/-- The L1 side: the block is updated if present (R367, Table 3-7). -/
def condStoreL1 (pa : Word) (wimg : BitVec 4) (v : Byte) (s : State) : State :=
  if hidDce s && !attrI wimg then
    match dFind s pa, dBlock s pa with
    | some w, some b => dTouch (dWayPut s pa w (some { b with data := blockPut b.data pa v })) pa w
    | _, _ => s
  else s

/-- The L2 and bus side: into the L2 alone, or to the bus with the L2's sector invalidated (R415, D42), in a locked way too
(DESIGN CHOICE, notes/assumptions/78.md: D42 names no lock, R426 lets only `dcbi` deallocate a locked line by software). -/
def condStoreL2 (way : Option (Fin 2)) (pa : Word) (wimg : BitVec 4) (v : Byte) (s : State) : State :=
  match way, l2Sector s pa with
  | some w, some sec => l2StoreByte w sec true pa v s
  | _, _ =>
    if l2On s && !attrI wimg then
      match l2Find s pa with
      | some w => busWriteByte pa v (l2SectorPut s pa w none)
      | none => busWriteByte pa v s
    else busWriteByte pa v s

/-- One byte of a successful `stwcx.` (R367, R415). -/
def condStoreByte (way : Option (Fin 2)) (pa : Word) (wimg : BitVec 4) (v : Byte) (s : State) : State :=
  condStoreL2 way pa wimg v (condStoreL1 pa wimg v s)

/-! ## Instruction fetch (R377) -/

/-- Bytes 0 to 3 of the aligned word of an address in a block, most significant first. -/
def blockWord (d : BlockData) (pa : Word) : Word :=
  let at' (k : Nat) : Byte := d[offOf ((pa &&& 0xFFFFFFFC) + BitVec.ofNat 32 k)]
  at' 0 ++ at' 1 ++ at' 2 ++ at' 3

/-- A word read from the bus. -/
def busReadWord (pa : Word) (s : State) : Word × State :=
  let (b0, s) := busReadByte pa s
  let (b1, s) := busReadByte (pa + 1) s
  let (b2, s) := busReadByte (pa + 2) s
  let (b3, s) := busReadByte (pa + 3) s
  (b0 ++ b1 ++ b2 ++ b3, s)

/-- What a fetch sees of the queues: the bytes that the newest writes have replaced, for any number of writes that may not
be done (R94, R245). `looks`: it looks in the L2; `hit`: it finds the block there, and not in memory. The first match of an
address is the oldest. -/
def fetchView (looks hit : Bool) (s : State) : List Replaced × State :=
  if (replacedBytes s.storeQueue).isEmpty then ([], s)
  else
    let (q, s) := someNewest s
    (((replacedBytes q).filter fun e => if e.l2 then looks else !hit).reverse, s)

/-- A byte as a fetch sees it. -/
def viewByte (v : List Replaced) (pa : Word) (b : Byte) : Byte :=
  match v.find? fun e => e.address == pa.toNat with
  | some e => e.value
  | none => b

/-- A word as a fetch sees it. -/
def viewWord (v : List Replaced) (pa w : Word) : Word :=
  viewByte v pa (field w 0 8) ++ viewByte v (pa + 1) (field w 8 8) ++ viewByte v (pa + 2) (field w 16 8) ++
    viewByte v (pa + 3) (field w 24 8)

/-- A block as a fetch sees it. -/
def viewBlock (v : List Replaced) (b : BitVec 27) (d : BlockData) : BlockData :=
  Vector.ofFn fun k : Fin 32 => viewByte v (blockBase b + BitVec.ofNat 32 k.val) d[k]

/-- A fetch looks in the L2 (R377, R411, R417). -/
def fetchLooksL2 (wimg : BitVec 4) (s : State) : Bool := l2ForFetch s && !attrI wimg

/-- A fetch finds its word in the L2. -/
def fetchHitsL2 (pa : Word) (wimg : BitVec 4) (s : State) : Bool := fetchLooksL2 wimg s && (l2Find s pa).isSome

/-- A single-beat fetch of a word: from the L2 or the bus (R377). -/
def fetchSingle (pa : Word) (wimg : BitVec 4) (s : State) : Word × State :=
  let looks := fetchLooksL2 wimg s
  let hit := fetchHitsL2 pa wimg s
  let (w, s) :=
    if hit then
      match l2Find s pa, l2Sector s pa with
      | some w, some sec => (blockWord sec.data pa, l2Touch s pa w)
      | _, _ => busReadWord pa s
    else busReadWord pa (gap s)
  let (v, s) := fetchView looks hit s
  (viewWord v pa w, s)

/-- A fetch that misses the instruction cache fills it (R377). -/
def fetchFill (pa : Word) (wimg : BitVec 4) (s : State) : Word × State :=
  let looks := fetchLooksL2 wimg s
  let hit := fetchHitsL2 pa wimg s
  let (d, s) := fetchBlock (l2ForFetch s) pa s
  let (v, s) := fetchView looks hit s
  let d := viewBlock v (blockOf pa) d
  let x := iset s (setOf pa)
  let w := victimWay x.ways x.plru false
  let x : ISet := { ways := x.ways.set w.val (some { tag := tagOf pa, data := d }) w.isLt, plru := plruTouch x.plru w }
  (blockWord d pa, isetPut s (setOf pa) x)

/-- A fetch finds its word in the instruction cache. -/
def fetchHitsL1 (pa : Word) (wimg : BitVec 4) (s : State) : Bool := hidIce s && !attrI wimg && (iFind s pa).isSome

/-- A fetch that misses the instruction cache, one the cache may serve: a locked cache is not filled (R377). -/
def fetchMiss (pa : Word) (wimg : BitVec 4) (s : State) : Word × State :=
  if hidIlock s then fetchSingle pa wimg s else fetchFill pa wimg s

/-- A fetch of a block that an `icbi` which may not be done has invalidated: it hits the block as it was, or
misses, by a free choice (R226, R245). -/
def fetchLeaving (old : BlockData) (pa : Word) (wimg : BitVec 4) (s : State) : Word × State :=
  let (c, s) := fresh 1 s
  if c = 1 then (blockWord old pa, s) else fetchMiss pa wimg s

/-- Fetch the word at an aligned physical address (R204, R377): never from the data cache. A caching-inhibited fetch
leaves a block of the enabled instruction cache valid (DESIGN CHOICE, notes/assumptions/58.md: R377 does not say, R364
speaks of "the L1"). -/
def fetchPhys (pa : Word) (wimg : BitVec 4) (s : State) : Word × State :=
  if hidIce s && !attrI wimg then
    let x := iset s (setOf pa)
    match iFind s pa with
    | some w =>
      match x.ways[w] with
      | some b => (blockWord b.data pa, isetPut s (setOf pa) { x with plru := plruTouch x.plru w })
      | none => fetchSingle pa wimg s
    | none =>
      match iLeaving s pa with
      | some old => fetchLeaving old pa wimg s
      | none => fetchMiss pa wimg s
  else fetchSingle pa wimg s

/-- The fetch of an instruction that is to run: the first one after a reset is single-beat with caching inhibited, past both
caches (R101; DEDUCED for the caches, notes/assumptions/59.md). -/
def fetchInTurn (pa : Word) (wimg : BitVec 4) (s : State) : Word × State :=
  if s.fetch.single then fetchSingle pa (wimg ||| 0b0100) { s with fetch := { s.fetch with single := false } }
  else fetchPhys pa wimg s

/-! ## Speculation (R205, R222, R230) -/

/-- A speculative access may go to the bus: not to guarded storage, and not with HID0[SPD] = 1 (R120, R222, R230). -/
def speculates (wimg : BitVec 4) (s : State) : Bool := !attrG wimg && !hidSpd s

/-- A fetch may be made ahead of its turn: where it hits a cache, or may go to the bus. -/
def fetchesAhead (pa : Word) (wimg : BitVec 4) (s : State) : Bool :=
  fetchHitsL1 pa wimg s || fetchHitsL2 pa wimg s || speculates wimg s

/-- A load may be performed early: one that hits the data cache (not a caching-inhibited one, which would push the block),
or may go to the bus (R230). -/
def loadsAhead (pa : Word) (wimg : BitVec 4) (s : State) : Bool :=
  if hidDce s && (dFind s pa).isSome then !attrI wimg else speculates wimg s

end Sys2Proof.Machine
end

