-- ==== Sys2Proof/Machine/Mmu.lean ====
section
/-! DEFINITION. Address translation and protection (21_mmu.md): block translation, segments, the TLBs, the hardware
table search and the recording of R and C. -/

namespace Sys2Proof.Machine

/-- Why a translation fails (R262). -/
inductive Violation
  | pageFault
  | protection
  | directStore
  | noExecute
  | guarded
  deriving DecidableEq, Repr

/-- The answer of a translation; the state is the one after TLB and R/C updates. -/
inductive Xlat
  | ok (pa : Word) (wimg : BitVec 4) (s : State)
  | viol (v : Violation) (s : State)
  | fault (f : Fault)

/-- What an access is to the translation (R261). -/
inductive Access
  | fetch
  | load
  | store
  deriving DecidableEq, Repr

/-- The attributes of real addressing mode (R221). -/
def realWimg : BitVec 4 := 0b0011

/-! ## Block address translation (R266 to R270) -/

/-- A BAT pair matches an effective address in the current privilege state (R268). -/
def batMatches (pr : Bool) (b : BatPair) (ea : Word) : Bool :=
  let bl : BitVec 11 := field b.upper 19 11
  field ea 0 4 == field b.upper 0 4 &&
  (field ea 4 11 &&& ~~~ bl) == (field b.upper 4 11 &&& ~~~ bl) &&
  (if pr then bitAt b.upper 31 else bitAt b.upper 30)

/-- The BAT array of a side (R260), each register as in force (R1140). -/
def batArray (s : State) (k : Access) : Vector BatPair 8 :=
  Vector.ofFn fun i => ⟨control s (.bat (k != .fetch) i false), control s (.bat (k != .fetch) i true)⟩

/-- The matching entries of an array. -/
def batHits (s : State) (k : Access) (ea : Word) : List BatPair :=
  (batArray s k).toList.filter fun b => batMatches (msrPr s) b ea

/-- The physical address through a BAT pair (R269). -/
def batAddress (b : BatPair) (ea : Word) : Word :=
  let bl : BitVec 11 := field b.upper 19 11
  field b.lower 0 4 ++ ((field ea 4 11 &&& bl) ||| (field b.lower 4 11 &&& ~~~ bl)) ++ field ea 15 17

/-- Block protection (R270). -/
def batAllows (pp : BitVec 2) (k : Access) : Bool :=
  match k with
  | .store => pp == 0b10
  | _ => !(pp == 0b00)

/-- Translation through a matching BAT pair. -/
def batTranslate (b : BatPair) (k : Access) (ea : Word) (s : State) : Xlat :=
  let wimg : BitVec 4 := field b.lower 25 4
  if !batAllows (field b.lower 30 2) k then .viol .protection s
  else if k = .fetch && attrG wimg then .viol .guarded s
  else .ok (batAddress b ea) wimg s

/-! ## Page protection and the page table (R283 to R288) -/

/-- The protection key of the access (R283). -/
def pageKey (s : State) (sr : Word) : Bool := if msrPr s then bitAt sr 2 else bitAt sr 1

/-- Page protection (R283). -/
def pageAllows (key : Bool) (pp : BitVec 2) (k : Access) : Bool :=
  match k with
  | .store => if key then pp == 0b10 else !(pp == 0b11)
  | _ => !(key && pp == 0b00)

/-- The primary hash (R286). -/
def hashPrimary (vsid : BitVec 24) (ea : Word) : BitVec 19 := field vsid 5 19 ^^^ (field ea 4 16).setWidth 19

/-- The address of the PTE group of a hash (R285, R286). -/
def ptegAddr (sdr1 : Word) (h : BitVec 19) : Word :=
  field sdr1 0 7 ++ (field sdr1 7 9 ||| (field sdr1 23 9 &&& field h 0 9)) ++ field h 9 10 ++ (0 : BitVec 6)

/-- The attributes of a table-search access (R288). -/
def searchWimg : BitVec 4 := 0b0010

/-- A word of the page table, read big-endian through the data cache (R288), in a bus transaction of its own (R250). -/
def tableReadWord (pa : Word) (s : State) : Word × State :=
  let (b0, s) := dataReadByte pa searchWimg (gap s)
  let (b1, s) := dataReadByte (pa + 1) searchWimg s
  let (b2, s) := dataReadByte (pa + 2) searchWimg s
  let (b3, s) := dataReadByte (pa + 3) searchWimg s
  (b0 ++ b1 ++ b2 ++ b3, s)

/-- The first word of a matching PTE (R286, R287): V, VSID, H, API. -/
def pteWord0 (vsid : BitVec 24) (second : Bool) (ea : Word) : Word :=
  ofBit true ++ vsid ++ ofBit second ++ field ea 4 6

/-- Look through `n` PTEs from an address on (R287): the address of the first match and its second word. -/
def searchGroup (want : Word) : Nat → Word → State → Option (Word × Word) × State
  | 0, _, s => (none, s)
  | n + 1, pa, s =>
    let (w0, s) := tableReadWord pa s
    if w0 = want then
      let (w1, s) := tableReadWord (pa + 4) s
      (some (pa, w1), s)
    else searchGroup want n (pa + 8) s

/-- The hardware table search: the primary group, then the secondary (R287). -/
def tableSearch (vsid : BitVec 24) (ea : Word) (s : State) : Option (Word × Word) × State :=
  let h := hashPrimary vsid ea
  let base := control s .sdr1
  match searchGroup (pteWord0 vsid false ea) 8 (ptegAddr base h) s with
  | (some r, s) => (some r, s)
  | (none, s) => searchGroup (pteWord0 vsid true ea) 8 (ptegAddr base (~~~ h)) s

/-- Set R in the PTE at an address: a byte store to its byte 6 (R294), in a transaction of its own (R250). -/
def setReferenced (pte w1 : Word) (s : State) : State :=
  if bitAt w1 23 then s else dataWriteByte (pte + 6) searchWimg (field w1 16 8 ||| 0x01) (gap s)

/-- Set C in the PTE at an address: a byte store to its byte 7 (R294), in a transaction of its own (R250). -/
def setChanged (pte w1 : Word) (s : State) : State :=
  if bitAt w1 24 then s else dataWriteByte (pte + 7) searchWimg (field w1 24 8 ||| 0x80) (gap s)

/-! ## The TLBs (R290, R291) -/

/-- The set of an address: EA[14:19]. -/
def tlbIndex (ea : Word) : Fin 64 := (field ea 14 6).toFin

def tlbSet (s : State) (k : Access) (ea : Word) : TlbSet :=
  match k with
  | .fetch => s.mmu.itlb[tlbIndex ea]
  | _ => s.mmu.dtlb[tlbIndex ea]

def tlbSetPut (s : State) (k : Access) (ea : Word) (x : TlbSet) : State :=
  let i := tlbIndex ea
  match k with
  | .fetch => { s with mmu := { s.mmu with itlb := s.mmu.itlb.set i.val x i.isLt } }
  | _ => { s with mmu := { s.mmu with dtlb := s.mmu.dtlb.set i.val x i.isLt } }

/-- An entry is the one of a virtual page (R290). -/
def tlbEntryMatches (e : Option TlbEntry) (vsid : BitVec 24) (ea : Word) : Bool :=
  match e with
  | some e => e.vsid == vsid && e.page == field ea 4 10
  | none => false

/-- The way that holds a virtual page. -/
def tlbFind (s : State) (k : Access) (vsid : BitVec 24) (ea : Word) : Option (Fin 2) :=
  let x := tlbSet s k ea
  if tlbEntryMatches x.ways[0] vsid ea then some 0
  else if tlbEntryMatches x.ways[1] vsid ea then some 1 else none

/-- Put an entry into a way, which becomes the most recently used (R291). -/
def tlbPut (s : State) (k : Access) (ea : Word) (w : Fin 2) (e : TlbEntry) : State :=
  let x := tlbSet s k ea
  tlbSetPut s k ea { ways := x.ways.set w.val (some e) w.isLt, lru := if w = 0 then 1 else 0 }

/-- The way a reload replaces: an invalid one first, else the least recently used (R291). -/
def tlbVictim (s : State) (k : Access) (ea : Word) : Fin 2 :=
  let x := tlbSet s k ea
  if x.ways[0].isNone then 0 else if x.ways[1].isNone then 1 else x.lru.toFin

/-- The TLB entry of a PTE (R286, R290). -/
def entryOf (vsid : BitVec 24) (ea w1 : Word) : TlbEntry :=
  { vsid := vsid, page := field ea 4 10, rpn := field w1 0 20, changed := bitAt w1 24,
    wimg := field w1 25 4, pp := field w1 30 2 }

/-- The end of a page translation: the protection and guarded checks on an entry (R262, R283). -/
def entryCheck (e : TlbEntry) (key : Bool) (k : Access) : Option Violation :=
  if !pageAllows key e.pp k then some .protection
  else if k = .fetch && attrG e.wimg then some .guarded
  else none

/-- The physical address through an entry. -/
def entryAddress (e : TlbEntry) (ea : Word) : Word := e.rpn ++ field ea 20 12

/-- A table search caused by a TLB miss or by a store to a page whose C is 0: the entry is (re)loaded into a way, R is
set, and C if a store is allowed (R287 step 8, R294, R295). R is set also for a fetch that the G bit then refuses
(DESIGN CHOICE, notes/assumptions/61.md: R287 sets it on the match, R262 lists it after the check). -/
def reload (w : Fin 2) (vsid : BitVec 24) (key : Bool) (k : Access) (ea : Word) (s : State) : Xlat :=
  match tableSearch vsid ea s with
  | (none, s) => .viol .pageFault s
  | (some (pte, w1), s) =>
    let e := entryOf vsid ea w1
    let s := setReferenced pte w1 s
    match entryCheck e key k with
    | some v => .viol v (tlbPut s k ea w e)
    | none =>
      if k = .store then
        .ok (entryAddress e ea) e.wimg (tlbPut (setChanged pte w1 s) k ea w { e with changed := true })
      else .ok (entryAddress e ea) e.wimg (tlbPut s k ea w e)

/-- The segment register of an address, as in force (R276, R1140). -/
def segment (s : State) (ea : Word) : Word := control s (.sr (field ea 0 4))

/-- Page address translation (R262, R280, R290). `search` is whether a TLB miss may start a table search. The reload that
sets C goes to the way that hit (DESIGN CHOICE, notes/assumptions/62.md: R294 names no way). -/
def pageTranslate (search : Bool) (k : Access) (ea : Word) (s : State) : Xlat :=
  let sr := segment s ea
  if bitAt sr 0 then .viol .directStore s
  else if k = .fetch && bitAt sr 3 then .viol .noExecute s
  else
    let vsid : BitVec 24 := field sr 8 24
    let key := pageKey s sr
    match tlbFind s k vsid ea with
    | some w =>
      match (tlbSet s k ea).ways[w] with
      | some e =>
        match entryCheck e key k with
        | some v => .viol v (tlbPut s k ea w e)
        | none =>
          if k = .store && !e.changed && search then reload w vsid key k ea s
          else .ok (entryAddress e ea) e.wimg (tlbPut s k ea w e)
      | none => .viol .pageFault s
    | none => if search then reload (tlbVictim s k ea) vsid key k ea s else .viol .pageFault s

/-- Translation is off for this kind of access (R262). -/
def realMode (s : State) (k : Access) : Bool :=
  match k with
  | .fetch => !msrIr s
  | _ => !msrDr s

/-- `tlbie` has invalidated all 64 sets since the hard reset (R293). -/
def tlbsReady (s : State) : Bool := s.mmu.tlbReady == BitVec.allOnes 64

/-- Translate an effective address (R262). Translation enabled before the 64 `tlbie` is refused (R293). -/
def translateWith (search : Bool) (k : Access) (ea : Word) (s : State) : Xlat :=
  if realMode s k then .ok ea realWimg s
  else if !tlbsReady s then .fault .tlbNotInvalidated
  else match batHits s k ea with
    | [] => pageTranslate search k ea s
    | [b] => batTranslate b k ea s
    | _ => .fault .multipleBatMatch

/-- Translate an effective address, searching the page table on a TLB miss (R262). -/
def translate (k : Access) (ea : Word) (s : State) : Xlat := translateWith true k ea s

/-- Invalidate both ways of a set of both TLBs (R300). -/
def tlbInvalidate (ea : Word) (s : State) : State :=
  let i := tlbIndex ea
  let x : Vector (Option TlbEntry) 2 := Vector.replicate 2 none
  { s with mmu := { s.mmu with
      itlb := s.mmu.itlb.set i.val { s.mmu.itlb[i] with ways := x } i.isLt
      dtlb := s.mmu.dtlb.set i.val { s.mmu.dtlb[i] with ways := x } i.isLt
      tlbReady := s.mmu.tlbReady ||| ((1 : BitVec 64) <<< i.val) } }

end Sys2Proof.Machine
end

