-- ==== Sys2Proof/Machine/Access.lean ====
section
/-! DEFINITION. The access primitives of the data side (R203, R210 to R217): translation of every page an operand
touches, the data address breakpoint, the bytes in the current byte order, and the DSI a failing access takes. -/

namespace Sys2Proof.Machine

/-! ## Addresses of an operand -/

/-- The effective addresses of the `n` bytes of an operand, ascending (R201). -/
def byteEas (ea : Word) : Nat → List Word
  | 0 => []
  | n + 1 => ea :: byteEas (ea + 1) n

/-- The address of the last of `n` bytes. -/
def lastEa (ea : Word) (n : Nat) : Word := ea + BitVec.ofNat 32 (n - 1)

/-- The page of an address. -/
def pageOf (ea : Word) : BitVec 20 := field ea 0 20

/-- Word alignment (R202). -/
def wordAligned (ea : Word) : Bool := field ea 30 2 == 0

/-- Where the physical pages of an operand are: those of its first and of its last byte (R216). -/
structure Span where
  page1 : BitVec 20
  wimg1 : BitVec 4
  page2 : BitVec 20
  wimg2 : BitVec 4
  deriving DecidableEq, Repr

/-- The byte of the program's view at effective address `a` lies at `a` in big-endian mode; in little-endian mode at
the mirrored place of its doubleword (LE_MUNGE, R211, R212). -/
def placed (s : State) (a : Word) : Word := if msrLe s then a ^^^ 7 else a

/-- The physical address and the attributes of the byte at effective address `a` of an operand that begins at `ea`. -/
def spanByte (t : Span) (ea a : Word) (s : State) : Word × BitVec 4 :=
  if pageOf a = pageOf ea then (t.page1 ++ field (placed s a) 20 12, t.wimg1)
  else (t.page2 ++ field (placed s a) 20 12, t.wimg2)

/-- A value's bytes in the order of ascending effective addresses: most significant first in big-endian mode, least
significant first in little-endian mode (R210, R212). The same function takes them back. -/
def inOrder (s : State) (bs : List Byte) : List Byte := if msrLe s then bs.reverse else bs

/-- The access to a byte goes toward the bus: caching-inhibited, a write-through store, or past an L1 data cache that is off,
or locked and without the block (R218). -/
def towardBus (store : Bool) (pa : Word) (wimg : BitVec 4) (s : State) : Bool :=
  attrI wimg || (store && attrW wimg) || !hidDce s || (hidDlock s && (dFind s pa).isNone)

/-- The byte at `a` of an operand at `ea` begins a piece: the first one; one at a doubleword boundary; and, of an access
toward the bus, one at a word boundary, unless the operand begins at a doubleword (R218, R380). -/
def beginsPiece (bus : Bool) (ea a : Word) : Bool :=
  a == ea || field a 29 3 == 0 || (bus && field a 30 2 == 0 && field ea 29 3 != 0)

/-- The gap before a piece that is not the first (R218, R250); the first one's is the access's own. -/
def pieceGap (bus : Bool) (ea a : Word) (s : State) : State := if beginsPiece bus ea a && a != ea then gap s else s

/-- Read the bytes at a list of effective addresses of an operand. -/
def readList (t : Span) (ea : Word) : List Word → State → List Byte × State
  | [], s => ([], s)
  | a :: as, s =>
    let p := spanByte t ea a s
    let (b, s) := dataReadByte p.1 p.2 (pieceGap (towardBus false p.1 p.2 s) ea a s)
    let (bs, s) := readList t ea as s
    (b :: bs, s)

/-- One byte of a store: before the first of a piece the gap, and the push of a modified block that is written through. -/
def writePieceByte (p : Word × BitVec 4) (ea a : Word) (b : Byte) (s : State) : State :=
  let bus := towardBus true p.1 p.2 s
  let s := pieceGap bus ea a s
  dataWriteByte p.1 p.2 b (if beginsPiece bus ea a then pushWritten p.1 p.2 s else s)

/-- Write bytes to the effective addresses from `a` on. -/
def writeList (t : Span) (ea : Word) : Word → List Byte → State → State
  | _, [], s => s
  | a, b :: bs, s => writeList t ea (a + 1) bs (writePieceByte (spanByte t ea a s) ea a b s)

/-! ## DSI (R940) -/

/-- The DSISR bit of a translation failure, and bit 6 for a store. -/
def dsisrOf (v : Violation) (k : Access) : Word :=
  (match v with
    | .pageFault => maskBit 1
    | .protection => maskBit 4
    | .directStore => maskBit 5
    | .noExecute => 0
    | .guarded => 0) ||| (if k = .store then maskBit 6 else 0)

/-- The bytes of a store that lie in its first page, those at ascending addresses. -/
def firstPart (ea : Word) : Word → List Byte → List Byte
  | _, [] => []
  | a, b :: bs => if pageOf a = pageOf ea then b :: firstPart ea (a + 1) bs else []

/-- What an access moves before the DSI its second page takes: the first portion of a store, or of a load, whose bytes are
dropped (R216). -/
def movePart (k : Access) (t : Span) (ea : Word) (n : Nat) (data : List Byte) (s : State) : State :=
  match k with
  | .store => writeList t ea ea (firstPart ea ea data) (beginStore s)
  | _ => (readList t ea ((byteEas ea n).filter fun a => pageOf a == pageOf ea) s).2

/-- The first portion of an access whose second page takes a DSI may have been moved: a free bit says whether it was
(R216). One that moves none, `part` says so, moves none here. -/
def firstPortion (part : Bool) (k : Access) (t : Span) (ea : Word) (n : Nat) (data : List Byte) (s : State) : State :=
  if part then
    let (early, s) := fresh 1 s
    if early = 1 then movePart k t ea n data (gap s) else s
  else s

/-- The address is translated by a BAT pair, in its present privilege state. -/
def byBat (k : Access) (ea : Word) (s : State) : Bool := !(batHits s k ea).isEmpty

/-- The place of a DSI among those one access can take: a protection violation of a BAT pair, a direct-store segment, any
of the page (R923: 7, 8, 9). -/
def dsiRank (v : Violation) (bat : Bool) : Nat :=
  match v with
  | .directStore => 8
  | _ => if bat then 7 else 9

/-- A failure of the first portion: the DSI with DAR at the operand's first byte; or, where the operand has a second page
whose failure comes before it in R923's order, that one's. -/
def firstFails (k : Access) (ea : Word) (n : Nat) (v : Violation) (s : State) : Res Span :=
  let last := lastEa ea n
  let own : Res Span := .exc (takeDsi ea (dsisrOf v k) s)
  if pageOf last = pageOf ea then own
  else
    let start : Word := pageOf last ++ (0 : BitVec 12)
    match translateWith false k start s with
    | .viol v2 _ =>
      if dsiRank v2 (byBat k start s) < dsiRank v (byBat k ea s) then .exc (takeDsi start (dsisrOf v2 k) s) else own
    | _ => own

/-- Translate an operand of `n` bytes, each page it touches on its own (R203 step 2, R216). A failure takes the DSI with
DAR at the first byte in the failing page; before it the first portion may have moved, where `part` says that the access
moves its own bytes. Each translation is a use of its own (R1140). -/
def translateSpan (k : Access) (ea : Word) (n : Nat) (part : Bool) (data : List Byte) (s : State) : Res Span :=
  match translate k ea s with
  | .fault f => .fault f
  | .viol v s => firstFails k ea n v s
  | .ok pa1 w1 s =>
    let last := lastEa ea n
    if pageOf last = pageOf ea then .ok ⟨pageOf pa1, w1, pageOf pa1, w1⟩ s
    else
      let start : Word := pageOf last ++ (0 : BitVec 12)
      match translate k start (furtherUse s) with
      | .fault f => .fault f
      | .viol v s =>
        .exc (takeDsi start (dsisrOf v k) (firstPortion part k ⟨pageOf pa1, w1, pageOf pa1, w1⟩ ea n data s))
      | .ok pa2 w2 s => .ok ⟨pageOf pa1, w1, pageOf pa2, w2⟩ s

/-! ## The data address breakpoint (R941) -/

/-- An access to the doubleword of an address matches DABR. -/
def dabrMatches (k : Access) (a : Word) (s : State) : Bool :=
  let d := control s .dabr
  field a 0 29 == field d 0 29 && bitAt d 29 == msrDr s && (if k = .store then bitAt d 30 else bitAt d 31)

/-- The DSI of a breakpoint match. -/
def takeDabr (k : Access) (dar : Word) (s : State) : State :=
  takeDsi dar (maskBit 9 ||| (if k = .store then maskBit 6 else 0)) s

/-- Compare every doubleword an operand touches: the first that matches takes the DSI. -/
def dabrCheck (k : Access) (ea : Word) (n : Nat) (s : State) : Res Unit :=
  if dabrMatches k ea s then .exc (takeDabr k ea s)
  else
    let last := lastEa ea n
    if dabrMatches k last s then .exc (takeDabr k (field last 0 29 ++ (0 : BitVec 3)) s)
    else .ok () s

/-- Translation and the breakpoint of a data access: all that comes before the bytes move (R203). The comparison with DABR
is a use of its own (R1140); the bytes move in a bus transaction after a gap (R250). -/
def dataAccess (k : Access) (ea : Word) (n : Nat) (part : Bool) (data : List Byte) (s : State) : Res Span :=
  andThen (translateSpan k ea n part data s) fun t s =>
  andThen (dabrCheck k ea n (furtherUse s)) fun _ s => .ok t (gap s)

/-- `MemRead(EA, n)` (R203): the bytes of the value, most significant first. -/
def dataLoad (ea : Word) (n : Nat) (s : State) : Res (List Byte) :=
  andThen (dataAccess .load ea n true [] (newUse s)) fun t s =>
    let (bs, s) := readList t ea (byteEas ea n) s
    .ok (inOrder s bs) s

/-- `MemWrite(EA, n, v)` (R203): `bs` are the bytes of the value, most significant first. The store enters the store
queue (R94). -/
def dataStore (ea : Word) (bs : List Byte) (s : State) : Res Unit :=
  let s := newUse s
  let data := inOrder s bs
  andThen (dataAccess .store ea data.length true data s) fun t s => .ok () (writeList t ea ea data (beginStore s))

/-! ## Sequences of accesses (load/store multiple and string, R217) -/

/-- Store a list of pieces at successive addresses; only the first `lim` of them move bytes, the others are checked. -/
def storeSeq : Nat → Word → List (List Byte) → State → Res Unit
  | _, _, [], s => .ok () s
  | 0, ea, p :: ps, s =>
    andThen (dataAccess .store ea p.length false [] (newUse s)) fun _ s => storeSeq 0 (ea + BitVec.ofNat 32 p.length) ps s
  | lim + 1, ea, p :: ps, s =>
    andThen (dataStore ea p s) fun _ s => storeSeq lim (ea + BitVec.ofNat 32 p.length) ps s

/-- Store all the pieces. If one takes a DSI, how many of the pieces before it have been stored is free (R217). -/
def storePieces (ea : Word) (ps : List (List Byte)) (s : State) : Res Unit :=
  match storeSeq ps.length ea ps s with
  | .exc t =>
    let (lim, s) := fresh 8 s
    match storeSeq lim.toNat ea ps s with
    | .exc t => .exc t
    | _ => .exc t
  | r => r

/-- Registers of which some have been written by a load that was then abandoned: which ones is free (R217). -/
def mixRegs (old : Vector Word 32) (s : State) : State :=
  let (m, s) := fresh 32 s
  { s with gpr := Vector.ofFn fun i : Fin 32 => if bitAt m i.val then s.gpr[i] else old[i] }

/-- The end of a load multiple or string: a DSI leaves the registers mixed (R217). -/
def abandon {α : Type} (old : Vector Word 32) (r : Res α) : Res α :=
  match r with
  | .exc s => .exc (mixRegs old s)
  | r => r

/-! ## The alignment exception's DSISR (R944) -/

/-- DSISR for a D-form instruction: primary opcode, rD or rS field, rA field. -/
def dsisrD (op : BitVec 6) (r rA : Reg) : Word :=
  (0 : BitVec 17) ++ field op 5 1 ++ field op 1 4 ++ r ++ rA

/-- DSISR for an X-form instruction: extended opcode, rD or rS field, rA field. -/
def dsisrX (xo : BitVec 10) (r rA : Reg) : Word :=
  (0 : BitVec 15) ++ field xo 8 2 ++ field xo 4 1 ++ field xo 0 4 ++ r ++ rA

/-- The alignment check on a word-aligned operand, before any translation (R203 step 1, R215). -/
def needsWordAligned (ea dsisr : Word) (s : State) (k : Out) : Out :=
  if wordAligned ea then k else .next (takeAlignment ea dsisr s)

end Sys2Proof.Machine
end

