-- ==== Sys2Proof/Machine/Operands.lean ====
section
/-! DEFINITION. Operand forms: the base `(rA|0)`, the three ways an effective address is formed (R201, R680), the
rotation mask (R462, R463). -/

namespace Sys2Proof.Machine

/-- `(rA|0)`: 0 when the field is 0, else the register (R17, R40). -/
def base (s : State) (rA : Reg) : Word := if rA = 0 then 0 else gprGet s rA

/-- Register indirect with immediate index: `(rA|0) + sext(d)` (R201). -/
def eaD (s : State) (rA : Reg) (d : BitVec 16) : Word := base s rA + sext16 d

/-- Register indirect with index: `(rA|0) + rB` (R201). -/
def eaX (s : State) (rA rB : Reg) : Word := base s rA + gprGet s rB

/-- The immediate form of an update instruction: the base is the register itself (R681). -/
def eaDU (s : State) (rA : Reg) (d : BitVec 16) : Word := gprGet s rA + sext16 d

/-- The indexed form of an update instruction (R681). -/
def eaXU (s : State) (rA rB : Reg) : Word := gprGet s rA + gprGet s rB

/-- `MASK(mb, me)`: ones from bit `mb` through bit `me`, wrapping when `mb > me` (R462). -/
def maskMbMe (mb me : Reg) : Word :=
  let up : Word := (0xFFFFFFFF : Word) >>> mb.toNat
  let down : Word := (0xFFFFFFFF : Word) <<< (31 - me.toNat)
  if mb ≤ me then up &&& down else up ||| down

/-- `ROTL32(x, n)` (R463). -/
def rotl32 (x : Word) (n : Reg) : Word := x.rotateLeft n.toNat

/-- The six-bit shift amount of a register shift (R575). -/
def shiftAmount (x : Word) : Nat := (field x 26 6).toNat

end Sys2Proof.Machine
end

