-- ==== Sys2Proof/Machine/Flags.lean ====
section
/-! DEFINITION. The condition register fields and the XER flags: recording into CR0 (R500), carry and overflow (R501),
comparison results, single CR bits. -/

namespace Sys2Proof.Machine

/-! ## The condition register (R42) -/

/-- A CR field. -/
def crField (s : State) (n : CrField) : BitVec 4 := field s.cr (4 * n.toNat) 4

/-- The bits of a CR field as a mask. -/
def crFieldMask (n : CrField) : Word := (0xF0000000 : Word) >>> (4 * n.toNat)

/-- Write a CR field; the other seven stay. -/
def setCrField (n : CrField) (v : BitVec 4) (s : State) : State :=
  { s with cr := merge (crFieldMask n) s.cr ((v ++ (0 : BitVec 28)) >>> (4 * n.toNat)) }

/-- A CR bit by its number (R460). -/
def crBit (s : State) (n : Reg) : Bool := bitAt s.cr n.toNat

/-- Write one CR bit; the other 31 stay. -/
def setCrBit (n : Reg) (b : Bool) (s : State) : State := { s with cr := setBit s.cr n.toNat b }

/-! ## XER (R44) -/

def xerSo (s : State) : Bool := bitAt s.xer 0
def xerOv (s : State) : Bool := bitAt s.xer 1
def xerCa (s : State) : Bool := bitAt s.xer 2

/-- The byte count of `lswx` and `stswx` (R44). -/
def xerCount (s : State) : Nat := (field s.xer 25 7).toNat

/-- Write XER[CA] (R501). -/
def setCa (c : Bool) (s : State) : State := { s with xer := setBit s.xer 2 c }

/-- Write XER[OV] and accumulate XER[SO] (R501). -/
def setOv (v : Bool) (s : State) : State :=
  { s with xer := setBit (setBit s.xer 1 v) 0 (xerSo s || v) }

/-! ## Recording (R500) -/

/-- LT, GT and EQ of a result against 0. -/
def signBits (r : Word) : BitVec 3 := if r = 0 then 0b001 else if bitAt r 0 then 0b100 else 0b010

/-- CR0 from a result and XER[SO] (R500). -/
def record (r : Word) (s : State) : State := setCrField 0 (signBits r ++ ofBit (xerSo s)) s

/-- The effect of the Rc bit of an integer instruction. -/
def recordIf (rc : Bool) (r : Word) (s : State) : State := if rc then record r s else s

/-- CR0 receives any value where bit 31 is set on a form for which the sources say so (R682, U3). -/
def recordAny (rc : Bool) (s : State) : State :=
  if rc then
    let (v, s) := fresh 4 s
    setCrField 0 v s
  else s

/-! ## Carry and overflow (R501) -/

/-- `sum33(x, y, c)`. -/
def sum33 (x y : Word) (c : Bool) : BitVec 33 :=
  x.setWidth 33 + y.setWidth 33 + (BitVec.ofBool c).setWidth 33

/-- `carry(x, y, c)`. -/
def carryOut (x y : Word) (c : Bool) : Bool := bitAt (sum33 x y c) 0

/-- `res(x, y, c)`. -/
def sumWord (x y : Word) (c : Bool) : Word := field (sum33 x y c) 1 32

/-- `ovf(x, y, c)`. -/
def sumOvf (x y : Word) (c : Bool) : Bool :=
  bitAt x 0 == bitAt y 0 && bitAt (sumWord x y c) 0 != bitAt x 0

/-! ## Comparison (R524 to R527) -/

/-- A signed comparison. -/
def compareSigned (a b : Word) : BitVec 3 := if a.slt b then 0b100 else if b.slt a then 0b010 else 0b001

/-- An unsigned comparison. -/
def compareUnsigned (a b : Word) : BitVec 3 := if a.ult b then 0b100 else if b.ult a then 0b010 else 0b001

/-- The result of a comparison and XER[SO] into a CR field. -/
def setCompare (n : CrField) (c : BitVec 3) (s : State) : State := setCrField n (c ++ ofBit (xerSo s)) s

end Sys2Proof.Machine
end

