-- ==== Sys2Proof/Machine/FloatArith.lean ====
section
/-! DEFINITION. Floating-point values and exact arithmetic (R600, R604 to R609, R618, R619, R631, R747, R752): pure
functions of the operand patterns and the FPSCR. -/

namespace Sys2Proof.Machine

/-! ## Classes of a 64-bit pattern (R600) -/

def fpSign (x : DWord) : Bool := bitAt x 0
def fpExp (x : DWord) : Nat := (field x 1 11).toNat
def fpFrac (x : DWord) : Nat := (field x 12 52).toNat
def fpIsNan (x : DWord) : Bool := fpExp x == 2047 && fpFrac x != 0
def fpIsSnan (x : DWord) : Bool := fpIsNan x && !bitAt x 12
def fpIsInf (x : DWord) : Bool := fpExp x == 2047 && fpFrac x == 0
def fpIsZero (x : DWord) : Bool := fpExp x == 0 && fpFrac x == 0
def fpIsDenormal (x : DWord) : Bool := fpExp x == 0 && fpFrac x != 0

/-- The magnitude of a finite pattern is `fpMant x * 2 ^ fpPow x`. -/
def fpMant (x : DWord) : Nat := if fpExp x = 0 then fpFrac x else fpFrac x + 2 ^ 52

/-- The power of two of `fpMant`. -/
def fpPow (x : DWord) : Int := (if fpExp x = 0 then 1 else (fpExp x : Int)) - 1075

def fpZero (s : Bool) : DWord := ofBit s ++ (0 : BitVec 63)
def fpInf (s : Bool) : DWord := ofBit s ++ (0x7FF0000000000000 : BitVec 63)

/-- The generated (default) QNaN. -/
def defaultNan : DWord := 0x7FF8000000000000

/-- A NaN made quiet (R607). -/
def quiet (x : DWord) : DWord := x ||| 0x0008000000000000

/-- A pattern with its sign bit inverted. -/
def fpNegate (x : DWord) : DWord := x ^^^ 0x8000000000000000

/-- `n` scaled by a power of two, rounded down. -/
def scale (n : Nat) (k : Int) : Nat := if k < 0 then n >>> k.natAbs else n <<< k.natAbs

/-- The pattern is single-representable (R600). -/
def fpSingleRep (x : DWord) : Bool :=
  if fpIsNan x then field x 35 29 == 0
  else if fpIsInf x || fpIsZero x then true
  else fpExp x ≤ 1150 && fpExp x ≥ 874 &&
    -- the value is a multiple of the unit in the last place of its single format
    (let drop := if fpExp x ≥ 897 then 29 else 29 + (897 - fpExp x)
     fpMant x % 2 ^ drop == 0)

/-- The double pattern of `m * 2^k` with a sign; `m` has at most 53 significant bits and the value is in range. -/
def fpPack (s : Bool) (m : Nat) (k : Int) : DWord :=
  if m = 0 then fpZero s
  else
    let e : Int := k + (Nat.log2 m : Int)
    let bits : Nat :=
      if e ≥ -1022 then (e + 1023).toNat * 2 ^ 52 + (scale m (52 - (Nat.log2 m : Int)) - 2 ^ 52)
      else scale m (k + 1074)
    ofBit s ++ BitVec.ofNat 63 bits

/-! ## FPSCR bits (R43) -/

def fxBit : Word := maskBit 0
def oxBit : Word := maskBit 3
def uxBit : Word := maskBit 4
def zxBit : Word := maskBit 5
def xxBit : Word := maskBit 6
def vxsnanBit : Word := maskBit 7
def vxisiBit : Word := maskBit 8
def vxidiBit : Word := maskBit 9
def vxzdzBit : Word := maskBit 10
def vximzBit : Word := maskBit 11
def vxvcBit : Word := maskBit 12
def vxsqrtBit : Word := maskBit 22
def vxcviBit : Word := maskBit 23
def fpVe (f : Word) : Bool := bitAt f 24
def fpOe (f : Word) : Bool := bitAt f 25
def fpUe (f : Word) : Bool := bitAt f 26
def fpZe (f : Word) : Bool := bitAt f 27
def fpNi (f : Word) : Bool := bitAt f 29
def fpRn (f : Word) : BitVec 2 := field f 30 2

/-- The non-IEEE mode: NI = 1, which has no effect with UE = 1 (R606, D51; DEDUCED that the sentence holds of R609 step 1 and
R631 too, which name NI alone, notes/assumptions/67.md). -/
def fpNonIeee (f : Word) : Bool := fpNi f && !fpUe f

/-- The invalid-operation bits 7 to 12 and 21 to 23. -/
def vxBits : Word := 0x01F80700

/-- The exception bits FX, OX, UX, ZX, XX and the invalid-operation bits (R641). -/
def excBits : Word := 0x9FF80700

/-- The exception bits a `mtfsb1` sets FX for (R645). -/
def causeBits : Word := 0x1FF80700

/-- VX and FEX computed from the other bits; the reserved bit 20 is 0 (R602). -/
def fpSummary (f : Word) : Word :=
  let f := setBit f 20 false
  let f := setBit f 2 (f &&& vxBits != 0)
  setBit f 1 ((bitAt f 2 && bitAt f 24) || (bitAt f 3 && bitAt f 25) || (bitAt f 4 && bitAt f 26) ||
    (bitAt f 5 && bitAt f 27) || (bitAt f 6 && bitAt f 28))

/-! ## Rounding (R604) -/

/-- What a floating-point operation decides: the value to write (none: frD unchanged), FPRF (none: unchanged), FR and
FI, the exception bits to raise; `frAny` marks an FR that is any value (U7). -/
structure FpResult where
  value : Option DWord
  fprf : Option (BitVec 5)
  fr : Bool
  fi : Bool
  frAny : Bool
  exc : Word
  deriving DecidableEq, Repr

/-- `RInt(n / d)` in a rounding mode for a magnitude of sign `s`: the integer, whether it was increased, whether it was
inexact (R604). -/
def rint (rn : BitVec 2) (s : Bool) (n d : Nat) : Nat × Bool × Bool :=
  let q := n / d
  let r := n % d
  let inx := r != 0
  let up :=
    if rn = 0 then 2 * r > d || (2 * r == d && q % 2 == 1)
    else if rn = 1 then false
    else if rn = 2 then inx && !s
    else inx && s
  if up then (q + 1, true, inx) else (q, false, inx)

/-- `RInt(v / 2^t)` for the magnitude `v = n / d * 2^k`. -/
def rintAt (rn : BitVec 2) (s : Bool) (n d : Nat) (k t : Int) : Nat × Bool × Bool :=
  if t ≤ k then rint rn s (n <<< (k - t).natAbs) d else rint rn s n (d <<< (t - k).natAbs)

/-- `floor(log2(n / d * 2^k))` (n, d not 0). -/
def floorLog2 (n d : Nat) (k : Int) : Int :=
  let g : Int := (Nat.log2 n : Int) - (Nat.log2 d : Int)
  let ge := if g ≥ 0 then n ≥ d <<< g.natAbs else n <<< g.natAbs ≥ d
  (if ge then g else g - 1) + k

/-- The class code of a result (R608); `single` is the instruction's precision. -/
def fprfOf (single : Bool) (x : DWord) : BitVec 5 :=
  if fpIsNan x then 0b10001
  else if fpIsInf x then (if fpSign x then 0b01001 else 0b00101)
  else if fpIsZero x then (if fpSign x then 0b10010 else 0b00010)
  else if fpIsDenormal x || (single && fpExp x < 897) then (if fpSign x then 0b11000 else 0b10100)
  else (if fpSign x then 0b01000 else 0b00100)

/-- A result with its class and no inexactness. -/
def fpExact (single : Bool) (x : DWord) (exc : Word) : FpResult :=
  { value := some x, fprf := some (fprfOf single x), fr := false, fi := false, frAny := false, exc := exc }

/-- An operation whose enabled exception suppresses the write (R605). -/
def fpSuppressed (exc : Word) : FpResult :=
  { value := none, fprf := none, fr := false, fi := false, frAny := false, exc := exc }

/-- The end of rounding for a result in range. -/
def roundInRange (single : Bool) (f : Word) (s : Bool) (n d : Nat) (k e adj : Int) (exc : Word) : FpResult :=
  let p : Int := if single then 24 else 53
  let emax : Int := if single then 127 else 1023
  let (m, inc, inx) := rintAt (fpRn f) s n d k (e - p + 1)
  let t := e - p + 1
  let (m, t) := if m = 2 ^ p.toNat then (2 ^ (p.toNat - 1), t + 1) else (m, t)
  let e := t + p - 1
  if e > emax then
    if fpOe f then
      let x := fpPack s m (t - adj)
      { value := some x, fprf := some (fprfOf single x), fr := inc, fi := inx, frAny := false, exc := exc ||| oxBit }
    else
      let toInf := fpRn f == 0 || (fpRn f == 2 && !s) || (fpRn f == 3 && s)
      let x := if toInf then fpInf s else fpPack s (2 ^ p.toNat - 1) (emax - p + 1)
      { value := some x, fprf := some (fprfOf single x), fr := false, fi := true, frAny := true, exc := exc ||| oxBit }
  else
    let x := fpPack s m t
    { value := some x, fprf := some (fprfOf single x), fr := inc, fi := inx, frAny := false, exc := exc }

/-- `Round(s, v, fmt)` for the magnitude `v = n / d * 2^k`, not zero (R604, R606). -/
def fpRound (single : Bool) (f : Word) (s : Bool) (n d : Nat) (k : Int) : FpResult :=
  let p : Int := if single then 24 else 53
  let emin : Int := if single then -126 else -1022
  let adj : Int := if single then 192 else 1536
  let e := floorLog2 n d k
  if e < emin then
    if fpUe f then roundInRange single f s n d (k + adj) (e + adj) adj uxBit
    else
      let t := emin - p + 1
      let (m, inc, inx) := rintAt (fpRn f) s n d k t
      if fpNonIeee f && decide (m < 2 ^ (p.toNat - 1)) then
        let lost := inx || m != 0
        let x := fpZero s
        { value := some x, fprf := some (fprfOf single x), fr := false, fi := lost, frAny := false,
          exc := if lost then uxBit else 0 }
      else
        let x := fpPack s m t
        { value := some x, fprf := some (fprfOf single x), fr := inc, fi := inx, frAny := false,
          exc := if inx then uxBit else 0 }
  else roundInRange single f s n d k e adj 0

/-! ## The arithmetic procedure (R609) -/

/-- The kinds of arithmetic; `madd` carries whether the addend is subtracted and whether the result is negated. -/
inductive FpKind
  | add
  | sub
  | mul
  | div
  | madd (minus negated : Bool)
  deriving DecidableEq, Repr

/-- The operands an instruction has, in the order of NaN priority: frA, frB, frC (R607). -/
def fpOperands (kind : FpKind) (a b c : DWord) : List DWord :=
  match kind with
  | .add => [a, b]
  | .sub => [a, b]
  | .mul => [a, c]
  | .div => [a, b]
  | .madd _ _ => [a, b, c]

/-- A denormalised operand is read as a zero of its sign in the non-IEEE mode (R606, D51; R609 step 1). -/
def flushOperand (f : Word) (x : DWord) : DWord :=
  if fpNonIeee f && fpIsDenormal x then fpZero (fpSign x) else x

/-- The invalid-operation bit of an addition `x + y` of infinities of opposite sign. -/
def invalidSum (xInf xSign yInf ySign : Bool) : Word := if xInf && yInf && xSign != ySign then vxisiBit else 0

/-- One infinity and one zero (R609 step 3). -/
def infTimesZero (a c : DWord) : Bool := (fpIsInf a && fpIsZero c) || (fpIsZero a && fpIsInf c)

/-- A product is an infinity (no NaN, not infinity times zero). -/
def productInf (a c : DWord) : Bool := (fpIsInf a && !fpIsNan c) || (fpIsInf c && !fpIsNan a)

/-- The invalid conditions of a kind (R609 step 3). -/
def fpInvalid (kind : FpKind) (a b c : DWord) : Word :=
  match kind with
  | .add => invalidSum (fpIsInf a) (fpSign a) (fpIsInf b) (fpSign b)
  | .sub => invalidSum (fpIsInf a) (fpSign a) (fpIsInf b) (!fpSign b)
  | .mul => if infTimesZero a c then vximzBit else 0
  | .div =>
    if fpIsInf a && fpIsInf b then vxidiBit else if fpIsZero a && fpIsZero b then vxzdzBit else 0
  | .madd minus _ =>
    if infTimesZero a c then vximzBit
    else invalidSum (productInf a c) (fpSign a != fpSign c) (fpIsInf b) (fpSign b != minus)

/-- The NaN an operation answers (R607). -/
def fpNanResult (operands : List DWord) : DWord :=
  match operands.find? fpIsNan with
  | some x => quiet x
  | none => defaultNan

/-- An exact result. -/
inductive FpValue
  | inf (s : Bool)
  | zero (s : Bool)
  | fin (s : Bool) (n d : Nat) (k : Int)
  deriving DecidableEq, Repr

/-- The value of a pattern that is no NaN. -/
def fpValue (x : DWord) : FpValue :=
  if fpIsInf x then .inf (fpSign x) else if fpIsZero x then .zero (fpSign x)
  else .fin (fpSign x) (fpMant x) 1 (fpPow x)

/-- The negated value. -/
def fpValueNeg (x : FpValue) : FpValue :=
  match x with
  | .inf s => .inf (!s)
  | .zero s => .zero (!s)
  | .fin s n d k => .fin (!s) n d k

/-- The exact product of two values (not infinity times zero). -/
def fpMul (x y : FpValue) : FpValue :=
  match x, y with
  | .inf s, .inf t => .inf (s != t)
  | .inf s, .zero t => .zero (s != t)
  | .inf s, .fin t _ _ _ => .inf (s != t)
  | .zero s, .inf t => .zero (s != t)
  | .zero s, .zero t => .zero (s != t)
  | .zero s, .fin t _ _ _ => .zero (s != t)
  | .fin s _ _ _, .inf t => .inf (s != t)
  | .fin s _ _ _, .zero t => .zero (s != t)
  | .fin s n d k, .fin t n' d' k' => .fin (s != t) (n * n') (d * d') (k + k')

/-- The exact quotient of two values (the divisor of a finite value not zero). -/
def fpDiv (x y : FpValue) : FpValue :=
  match x, y with
  | .inf s, .inf t => .inf (s != t)
  | .inf s, .zero t => .inf (s != t)
  | .inf s, .fin t _ _ _ => .inf (s != t)
  | .zero s, .inf t => .zero (s != t)
  | .zero s, .zero t => .zero (s != t)
  | .zero s, .fin t _ _ _ => .zero (s != t)
  | .fin s _ _ _, .inf t => .zero (s != t)
  | .fin s _ _ _, .zero t => .inf (s != t)
  | .fin s n d k, .fin t n' d' k' => .fin (s != t) (n * d') (d * n') (k - k')

/-- The sign of an exact zero sum of two values that are not both zeros of one sign (R609). -/
def zeroSumSign (f : Word) : Bool := fpRn f == 3

/-- The exact sum of two values (not infinities of opposite sign), both with denominator 1. -/
def fpAdd (f : Word) (x y : FpValue) : FpValue :=
  match x, y with
  | .inf s, _ => .inf s
  | .zero _, .inf t => .inf t
  | .fin _ _ _ _, .inf t => .inf t
  | .zero s, .zero t => if s = t then .zero s else .zero (zeroSumSign f)
  | .zero _, .fin t n d k => .fin t n d k
  | .fin s n d k, .zero _ => .fin s n d k
  | .fin s n _ k, .fin t n' _ k' =>
    let low := min k k'
    let a : Int := (n <<< (k - low).natAbs : Nat)
    let b : Int := (n' <<< (k' - low).natAbs : Nat)
    let sum := (if s then -a else a) + (if t then -b else b)
    if sum = 0 then .zero (zeroSumSign f) else .fin (decide (sum < 0)) sum.natAbs 1 low

/-- The exact result of an operation on operands that are no NaN and not invalid together (R609 steps 7, 8). -/
def fpExactValue (kind : FpKind) (f : Word) (a b c : DWord) : FpValue :=
  match kind with
  | .add => fpAdd f (fpValue a) (fpValue b)
  | .sub => fpAdd f (fpValue a) (fpValueNeg (fpValue b))
  | .mul => fpMul (fpValue a) (fpValue c)
  | .div => fpDiv (fpValue a) (fpValue b)
  | .madd minus _ =>
    fpAdd f (fpMul (fpValue a) (fpValue c)) (if minus then fpValueNeg (fpValue b) else fpValue b)

/-- An exact value rounded to the instruction's precision. -/
def fpRoundValue (single : Bool) (f : Word) (v : FpValue) : FpResult :=
  match v with
  | .inf s => fpExact single (fpInf s) 0
  | .zero s => fpExact single (fpZero s) 0
  | .fin s n d k => fpRound single f s n d k

/-- The sign inversion of `fnmadd` and `fnmsub` (R609 step 9). -/
def negateResult (single negated : Bool) (r : FpResult) : FpResult :=
  if negated then
    match r.value with
    | some x => { r with value := some (fpNegate x), fprf := some (fprfOf single (fpNegate x)) }
    | none => r
  else r

/-- Whether a kind negates its result. -/
def fpNegates (kind : FpKind) : Bool :=
  match kind with
  | .madd _ negated => negated
  | _ => false

/-- `Arith(fmt, kind, a, b, c)` (R609); `f` is the FPSCR. -/
def fpArith (single : Bool) (kind : FpKind) (f : Word) (a b c : DWord) : FpResult :=
  let a := flushOperand f a
  let b := flushOperand f b
  let c := flushOperand f c
  let operands := fpOperands kind a b c
  let exc := (if operands.any fpIsSnan then vxsnanBit else 0) ||| fpInvalid kind a b c
  if exc != 0 then
    if fpVe f then fpSuppressed exc else fpExact single (fpNanResult operands) exc
  else if operands.any fpIsNan then fpExact single (fpNanResult operands) 0
  else if kind == .div && fpIsZero b && !fpIsInf a then
    if fpZe f then fpSuppressed zxBit else fpExact single (fpInf (fpSign a != fpSign b)) zxBit
  else negateResult single (fpNegates kind) (fpRoundValue single f (fpExactValue kind f a b c))

/-! ## Round to single and convert to integer (R630, R631) -/

/-- `frsp` (R630). -/
def fpToSingle (f : Word) (b : DWord) : FpResult :=
  let b := flushOperand f b
  if fpIsNan b then
    let r := quiet b &&& 0xFFFFFFFFE0000000
    if fpIsSnan b then (if fpVe f then fpSuppressed vxsnanBit else fpExact true r vxsnanBit)
    else fpExact true r 0
  else fpRoundValue true f (fpValue b)

/-- What `fctiw` decides: the integer (none: frD unchanged), FR, FI, the exception bits. -/
structure IntResult where
  value : Option Word
  fr : Bool
  fi : Bool
  exc : Word
  deriving DecidableEq, Repr

/-- An invalid conversion: the saturated integer, `0x80000000` always in the non-IEEE mode (R631, D55). -/
def intInvalid (f saturated exc : Word) : IntResult :=
  { value := if fpVe f then none else some (if fpNonIeee f then 0x80000000 else saturated),
    fr := false, fi := false, exc := exc ||| vxcviBit }

/-- `fctiw` and `fctiwz` (R631, R632); `rn` is the rounding mode used. -/
def fpToInt (f : Word) (rn : BitVec 2) (b : DWord) : IntResult :=
  let b := flushOperand f b
  if fpIsNan b then intInvalid f 0x80000000 (if fpIsSnan b then vxsnanBit else 0)
  else if fpIsInf b then intInvalid f (if fpSign b then 0x80000000 else 0x7FFFFFFF) 0
  else
    let (q, inc, inx) := rintAt rn (fpSign b) (fpMant b) 1 (fpPow b) 0
    let n : Int := if fpSign b then -(q : Int) else q
    if n > 2147483647 then intInvalid f 0x7FFFFFFF 0
    else if n < -2147483648 then intInvalid f 0x80000000 0
    else { value := some (BitVec.ofInt 32 n), fr := inc, fi := inx, exc := 0 }

/-! ## Estimates (R618, R619, D54) -/

/-- The magnitude of `est * x` lies above 3999/4000, and below 4001/4000. -/
def recipAbove (x est : DWord) : Bool :=
  let m := fpMant est * fpMant x
  let k := fpPow est + fpPow x
  if k < 0 then 3999 <<< k.natAbs < 4000 * m else 3999 < 4000 * (m <<< k.natAbs)
def recipBelow (x est : DWord) : Bool :=
  let m := fpMant est * fpMant x
  let k := fpPow est + fpPow x
  if k < 0 then 4000 * m < 4001 <<< k.natAbs else 4000 * (m <<< k.natAbs) < 4001

/-- Some finite single keeps the bound of R618: the largest one is not too small. -/
def recipInRange (x : DWord) : Bool := recipAbove x (fpPack false (2 ^ 24 - 1) 104)

/-- An estimate of `1/x` keeps the bound of R618: a single value of the sign of `x` with relative error below 1/4000;
where no finite single has that, any single but a NaN. -/
def fresMeets (x est : DWord) : Bool :=
  fpSingleRep est && !fpIsNan est && fpSign est == fpSign x &&
  (!recipInRange x || (!fpIsInf est && recipAbove x est && recipBelow x est))

/-- The value `fres` writes for a finite non-zero single: the chip's, or the reciprocal rounded toward zero should the
parameter break the bound. -/
def fresValue (x : DWord) : DWord :=
  if fresMeets x (Config.fresEstimate x) then Config.fresEstimate x
  else ((fpRound true 1 (fpSign x) 1 (fpMant x) (-(fpPow x))).value).getD (fpZero (fpSign x))

/-- The two sides of a comparison of `y² * x` with `num / den`, for `y = c * 2^p`, as natural numbers. -/
def sqTimes (c : Nat) (p : Int) (x : DWord) (num den : Nat) : Nat × Nat :=
  let m := c * c * fpMant x
  let k := 2 * p + fpPow x
  if k < 0 then (m * den, num <<< k.natAbs) else ((m <<< k.natAbs) * den, num)

/-- `y² * x ≤ 1`. -/
def sqTimesLeOne (c : Nat) (p : Int) (x : DWord) : Bool :=
  let (l, r) := sqTimes c p x 1 1
  l ≤ r

/-- `y² * x < num / den`. -/
def sqTimesLt (c : Nat) (p : Int) (x : DWord) (num den : Nat) : Bool :=
  let (l, r) := sqTimes c p x num den
  l < r

/-- `num / den < y² * x`. -/
def sqTimesGt (c : Nat) (p : Int) (x : DWord) (num den : Nat) : Bool :=
  let (l, r) := sqTimes c p x num den
  r < l

/-- An estimate of `1/sqrt(x)` keeps the bound of R619: positive and finite, relative error below 1/4000, fraction bits
below the twelfth zero. -/
def frsqrteMeets (x est : DWord) : Bool :=
  !fpSign est && !fpIsNan est && !fpIsInf est && field est 24 40 == 0 &&
  sqTimesLt (fpMant est) (fpPow est) x (4001 * 4001) (4000 * 4000) &&
  sqTimesGt (fpMant est) (fpPow est) x (3999 * 3999) (4000 * 4000)

/-- The largest 13-bit significand `c` (built from the listed bits on top of `c0`) with `(c * 2^p)² * x ≤ 1`. -/
def rsqrtBits (p : Int) (x : DWord) : List Nat → Nat → Nat
  | [], c => c
  | b :: bs, c => rsqrtBits p x bs (if sqTimesLeOne (c + b) p x then c + b else c)

/-- `1/sqrt(x)` truncated to a 12-bit fraction. -/
def rsqrtTruncated (x : DWord) : DWord :=
  let n : Int := fpPow x + (Nat.log2 (fpMant x) : Int)
  let e0 : Int := -(n / 2)
  let e := if sqTimesLeOne 1 e0 x then e0 else e0 - 1
  fpPack false (rsqrtBits (e - 12) x [2048, 1024, 512, 256, 128, 64, 32, 16, 8, 4, 2, 1] 4096) (e - 12)

/-- The value `frsqrte` writes for a positive finite operand: the chip's, or the truncated root should the parameter
break the bound. -/
def frsqrteValue (x : DWord) : DWord :=
  if frsqrteMeets x (Config.frsqrteEstimate x) then Config.frsqrteEstimate x else rsqrtTruncated x

/-! ## Comparison (R635) -/

/-- The four bits FL, FG, FE, FU of a comparison. -/
def fpCompare (a b : DWord) : BitVec 4 :=
  if fpIsNan a || fpIsNan b then 0b0001
  else if fpIsZero a && fpIsZero b then 0b0010
  else
    -- the patterns of one sign are ordered as integers
    let key (x : DWord) : Int := if fpSign x then -((field x 1 63).toNat : Int) else ((field x 1 63).toNat : Int)
    if key a < key b then 0b1000 else if key b < key a then 0b0100 else 0b0010

/-! ## Formats of loads and stores (R747, R752) -/

/-- `DOUBLE(W)` (R747). -/
def toDouble (w : Word) : DWord :=
  let e := (field w 1 8).toNat
  let f := (field w 9 23).toNat
  if e = 0 && f != 0 then fpPack (bitAt w 0) f (-149)
  else
    let x : BitVec 3 := if e = 0 then 0 else if e = 255 then 0b111 else if bitAt w 1 then 0b000 else 0b111
    field w 0 2 ++ x ++ field w 2 30 ++ (0 : BitVec 29)

/-- `SINGLE(S)` (R752). -/
def toSingle (x : DWord) : Word :=
  let e := fpExp x
  if e > 896 || (field x 1 63 == 0) then field x 0 2 ++ field x 5 30
  else if e ≥ 874 then
    ofBit (bitAt x 0) ++ (0 : BitVec 8) ++ BitVec.ofNat 23 (fpMant x >>> (29 + (897 - e)))
  else ofBit (bitAt x 0) ++ (0 : BitVec 31)

end Sys2Proof.Machine
end

