-- ==== Sys2Proof/Machine/Float.lean ====
section
/-! DEFINITION. Floating-point arithmetic, conversion, compare, FPSCR and move instructions (42_float.md). Every one
first needs MSR[FP] (R601). -/

namespace Sys2Proof.Machine

/-! ## The FPSCR (R602) -/

/-- Exception bits raised: they stay set, FX is set by a change from 0 to 1 (R602). -/
def raiseExc (f exc : Word) : Word :=
  let g := f ||| exc
  if exc &&& ~~~ f = 0 then g else g ||| fxBit

/-- Write FR and FI. -/
def setFrFi (fr fi : Bool) (f : Word) : Word := setBit (setBit f 13 fr) 14 fi

/-- Write FPRF, bits 15 to 19. -/
def setFprf (c : BitVec 5) (f : Word) : Word := merge 0x0001F000 f (c.setWidth 32 <<< 12)

/-- Write FPCC, bits 16 to 19. -/
def setFpcc (c : BitVec 4) (f : Word) : Word := merge 0x0000F000 f (c.setWidth 32 <<< 12)

/-- FPRF where the operation gives one. -/
def setFprfOpt (c : Option (BitVec 5)) (f : Word) : Word :=
  match c with
  | some c => setFprf c f
  | none => f

/-- The FPSCR after an operation (R602): XX is the sticky form of FI. -/
def fpscrAfter (f exc : Word) (fr fi : Bool) (fprf : Option (BitVec 5)) : Word :=
  fpSummary (setFprfOpt fprf (setFrFi fr fi (raiseExc f (if fi then exc ||| xxBit else exc))))

/-- CR1 from FPSCR[0:3] (R603). -/
def recordFp (rc : Bool) (s : State) : State := if rc then setCrField 1 (field s.fpscr 0 4) s else s

/-- The end of an instruction that writes the FPSCR: the enabled exception, or the next instruction (R602, R948). -/
def fpEnd (rc : Bool) (s : State) : Out :=
  let s := recordFp rc s
  if msrFe s && bitAt s.fpscr 1 then .next (takeFpEnabled s) else nextInstr s

/-- Write frD where the operation gives a value. -/
def fprSetOpt (frD : Reg) (v : Option DWord) (s : State) : State :=
  match v with
  | some v => fprSet s frD v
  | none => s

/-- The end of an arithmetic instruction (R602). -/
def fpCommit (frD : Reg) (rc : Bool) (r : FpResult) (s : State) : Out :=
  let (free, s) := if r.frAny then fresh 1 s else (0, s)
  let fr := if r.frAny then free = 1 else r.fr
  fpEnd rc (fprSetOpt frD r.value { s with fpscr := fpscrAfter s.fpscr r.exc fr r.fi r.fprf })

/-- The end of a single-precision instruction given an operand that is no single value: any value in frD (if it is
written), in FPSCR[FPRF, FR, FI, OX, UX, XX] and in CR1 (R600, U5). -/
def fpCommitAny (frD : Reg) (rc : Bool) (r : FpResult) (s : State) : Out :=
  let (v, s) := fresh 64 s
  let (st, s) := fresh 32 s
  let (c, s) := fresh 4 s
  -- OX, UX, XX are bits 3, 4, 6; FR, FI, FPRF bits 13 to 19
  let f := raiseExc s.fpscr ((r.exc &&& ~~~ 0x1A000000) ||| (st &&& 0x1A000000))
  let s := { s with fpscr := fpSummary (merge 0x1A07F000 f st) }
  let s := if r.value.isSome then fprSet s frD v else s
  let s := if rc then setCrField 1 c s else s
  fpEnd false s

/-- A single-precision instruction (R600). -/
def fpCommitSingle (operands : List DWord) (frD : Reg) (rc : Bool) (r : FpResult) (s : State) : Out :=
  if operands.all fpSingleRep then fpCommit frD rc r s else fpCommitAny frD rc r s

/-- The end of an estimate: FR and FI are any value (U9); FI sets XX only for an ordinary operand. -/
def fpCommitEstimate (frD : Reg) (rc ordinary : Bool) (r : FpResult) (s : State) : Out :=
  let (free, s) := fresh 2 s
  let fi := bitAt free 1
  let f := raiseExc s.fpscr (if fi && ordinary then r.exc ||| xxBit else r.exc)
  let f := fpSummary (setFprfOpt r.fprf (setFrFi (bitAt free 0) fi f))
  fpEnd rc (fprSetOpt frD r.value { s with fpscr := f })

/-- A two-operand or multiply-add instruction. -/
def fpDouble (kind : FpKind) (frD frA frB frC : Reg) (rc : Bool) (s : State) : Out :=
  needsFp s (fpCommit frD rc (fpArith false kind s.fpscr (fprGet s frA) (fprGet s frB) (fprGet s frC)) s)

/-- The single-precision form. -/
def fpSingle (kind : FpKind) (frD frA frB frC : Reg) (rc : Bool) (s : State) : Out :=
  let a := fprGet s frA
  let b := fprGet s frB
  let c := fprGet s frC
  needsFp s (fpCommitSingle (fpOperands kind a b c) frD rc (fpArith true kind s.fpscr a b c) s)

/-! ## Arithmetic -/

/-- R610. -/
def execFadd (frD frA frB : Reg) (rc : Bool) (s : State) : Out := fpDouble .add frD frA frB frB rc s

/-- R611. -/
def execFadds (frD frA frB : Reg) (rc : Bool) (s : State) : Out := fpSingle .add frD frA frB frB rc s

/-- R612. -/
def execFsub (frD frA frB : Reg) (rc : Bool) (s : State) : Out := fpDouble .sub frD frA frB frB rc s

/-- R613. -/
def execFsubs (frD frA frB : Reg) (rc : Bool) (s : State) : Out := fpSingle .sub frD frA frB frB rc s

/-- R614. -/
def execFmul (frD frA frC : Reg) (rc : Bool) (s : State) : Out := fpDouble .mul frD frA frC frC rc s

/-- R615. -/
def execFmuls (frD frA frC : Reg) (rc : Bool) (s : State) : Out := fpSingle .mul frD frA frC frC rc s

/-- R616. -/
def execFdiv (frD frA frB : Reg) (rc : Bool) (s : State) : Out := fpDouble .div frD frA frB frB rc s

/-- R617. -/
def execFdivs (frD frA frB : Reg) (rc : Bool) (s : State) : Out := fpSingle .div frD frA frB frB rc s

/-- What `fres` decides of a special operand (R618); none for an ordinary one. -/
def fresSpecial (f : Word) (b : DWord) : Option FpResult :=
  if fpIsSnan b then some (if fpVe f then fpSuppressed vxsnanBit else fpExact true (quiet b) vxsnanBit)
  else if fpIsNan b then some (fpExact true b 0)
  else if fpIsZero b then some (if fpZe f then fpSuppressed zxBit else fpExact true (fpInf (fpSign b)) zxBit)
  else if fpIsInf b then some (fpExact true (fpZero (fpSign b)) 0)
  else none

/-- A denormalised single result is replaced by a zero when NI = 1 and UE = 0 (R606). -/
def flushesSingle (f : Word) (x : DWord) : Bool := fpNonIeee f && !fpIsZero x && (fpExp x < 897)

/-- The result of `fres` whose estimate is replaced by a zero of its sign: UX and XX, FI = 1, FR = 0 (R606, D51), and OX where
the reciprocal overflows (R618). -/
def fresFlushed (exc : Word) (x : DWord) : FpResult :=
  { fpExact true (fpZero (fpSign x)) (uxBit ||| (exc &&& oxBit)) with fi := true }

/-- What `fres` decides of an ordinary operand: the estimate, with OX and UX as the rounded reciprocal has them
(R618). -/
def fresOrdinary (f : Word) (b : DWord) : FpResult :=
  fpExact true (fresValue b) ((fpRound true f (fpSign b) 1 (fpMant b) (-(fpPow b))).exc &&& (oxBit ||| uxBit))

/-- R618. The rule for a NaN holds of every NaN (D54), also of one with low fraction bits that no single has. -/
def execFres (frD frB : Reg) (rc : Bool) (s : State) : Out :=
  let b := fprGet s frB
  let x := flushOperand s.fpscr b
  needsFp s (
    match fresSpecial s.fpscr x with
    | some r => if fpSingleRep b || fpIsNan b then fpCommitEstimate frD rc false r s else fpCommitAny frD rc r s
    | none =>
      let r := fresOrdinary s.fpscr x
      if !fpSingleRep b then fpCommitAny frD rc r s
      else if flushesSingle s.fpscr (fresValue x) then fpCommit frD rc (fresFlushed r.exc (fresValue x)) s
      else fpCommitEstimate frD rc true r s)

/-- What `frsqrte` decides of a special operand (R619); none for an ordinary one. -/
def frsqrteSpecial (f : Word) (b : DWord) : Option FpResult :=
  if fpIsSnan b then some (if fpVe f then fpSuppressed vxsnanBit else fpExact false (quiet b) vxsnanBit)
  else if fpIsNan b then some (fpExact false b 0)
  else if fpIsZero b then some (if fpZe f then fpSuppressed zxBit else fpExact false (fpInf (fpSign b)) zxBit)
  else if fpSign b then some (if fpVe f then fpSuppressed vxsqrtBit else fpExact false defaultNan vxsqrtBit)
  else if fpIsInf b then some (fpExact false (fpZero false) 0)
  else none

/-- R619. -/
def execFrsqrte (frD frB : Reg) (rc : Bool) (s : State) : Out :=
  let x := flushOperand s.fpscr (fprGet s frB)
  needsFp s (
    match frsqrteSpecial s.fpscr x with
    | some r => fpCommitEstimate frD rc false r s
    | none => fpCommitEstimate frD rc true (fpExact false (frsqrteValue x) 0) s)

/-- R620: the FPSCR is not changed. -/
def execFsel (frD frA frC frB : Reg) (rc : Bool) (s : State) : Out :=
  let a := fprGet s frA
  let ge := !fpIsNan a && (fpIsZero a || !fpSign a)
  needsFp s (nextInstr (recordFp rc (fprSet s frD (if ge then fprGet s frC else fprGet s frB))))

/-! ## Multiply-add -/

/-- R621. -/
def execFmadd (frD frA frC frB : Reg) (rc : Bool) (s : State) : Out := fpDouble (.madd false false) frD frA frB frC rc s

/-- R622. -/
def execFmadds (frD frA frC frB : Reg) (rc : Bool) (s : State) : Out := fpSingle (.madd false false) frD frA frB frC rc s

/-- R623. -/
def execFmsub (frD frA frC frB : Reg) (rc : Bool) (s : State) : Out := fpDouble (.madd true false) frD frA frB frC rc s

/-- R624. -/
def execFmsubs (frD frA frC frB : Reg) (rc : Bool) (s : State) : Out := fpSingle (.madd true false) frD frA frB frC rc s

/-- R625. -/
def execFnmadd (frD frA frC frB : Reg) (rc : Bool) (s : State) : Out := fpDouble (.madd false true) frD frA frB frC rc s

/-- R626. -/
def execFnmadds (frD frA frC frB : Reg) (rc : Bool) (s : State) : Out := fpSingle (.madd false true) frD frA frB frC rc s

/-- R627. -/
def execFnmsub (frD frA frC frB : Reg) (rc : Bool) (s : State) : Out := fpDouble (.madd true true) frD frA frB frC rc s

/-- R628. -/
def execFnmsubs (frD frA frC frB : Reg) (rc : Bool) (s : State) : Out := fpSingle (.madd true true) frD frA frB frC rc s

/-! ## Rounding and conversion -/

/-- R630. -/
def execFrsp (frD frB : Reg) (rc : Bool) (s : State) : Out :=
  needsFp s (fpCommit frD rc (fpToSingle s.fpscr (fprGet s frB)) s)

/-- The end of a conversion: the high half of frD and FPRF are any value (R631, U6, U8). -/
def intCommit (frD : Reg) (rc : Bool) (r : IntResult) (s : State) : Out :=
  match r.value with
  | none => fpEnd rc { s with fpscr := fpscrAfter s.fpscr r.exc r.fr r.fi none }
  | some w =>
    let (hi, s) := fresh 32 s
    let (c, s) := fresh 5 s
    fpEnd rc (fprSet { s with fpscr := fpscrAfter s.fpscr r.exc r.fr r.fi (some c) } frD (hi ++ w))

/-- R631. -/
def execFctiw (frD frB : Reg) (rc : Bool) (s : State) : Out :=
  needsFp s (intCommit frD rc (fpToInt s.fpscr (fpRn s.fpscr) (fprGet s frB)) s)

/-- R632. -/
def execFctiwz (frD frB : Reg) (rc : Bool) (s : State) : Out :=
  needsFp s (intCommit frD rc (fpToInt s.fpscr 1 (fprGet s frB)) s)

/-! ## Compare -/

/-- The exception bits of a compare (R635, R636). -/
def compareExc (ordered : Bool) (f : Word) (a b : DWord) : Word :=
  if fpIsSnan a || fpIsSnan b then
    (if ordered && !fpVe f then vxsnanBit ||| vxvcBit else vxsnanBit)
  else if (fpIsNan a || fpIsNan b) && ordered then vxvcBit
  else 0

/-- A compare; with bit 31 set the whole CR and FPCC are any value (R635, U10). FR and FI stay, also where VXSNAN or VXVC
is raised (DESIGN CHOICE, notes/assumptions/66.md: R635 keeps them, R605 clears them in every invalid case). -/
def fpCompareInto (ordered : Bool) (crfD : CrField) (frA frB : Reg) (rc : Bool) (s : State) : Out :=
  let a := fprGet s frA
  let b := fprGet s frB
  let f := raiseExc s.fpscr (compareExc ordered s.fpscr a b)
  needsFp s (
    if rc then
      let (cr, s) := fresh 32 s
      let (c, s) := fresh 4 s
      fpEnd false { s with fpscr := fpSummary (setFpcc c f), cr := cr }
    else
      let c := fpCompare a b
      fpEnd false (setCrField crfD c { s with fpscr := fpSummary (setFpcc c f) }))

/-- R635. -/
def execFcmpu (crfD : CrField) (frA frB : Reg) (rc : Bool) (s : State) : Out := fpCompareInto false crfD frA frB rc s

/-- R636. -/
def execFcmpo (crfD : CrField) (frA frB : Reg) (rc : Bool) (s : State) : Out := fpCompareInto true crfD frA frB rc s

/-! ## FPSCR instructions -/

/-- R640: the high half of frD is any value (U6). -/
def execMffs (frD : Reg) (rc : Bool) (s : State) : Out :=
  needsFp s (
    let (hi, s) := fresh 32 s
    nextInstr (recordFp rc (fprSet s frD (hi ++ s.fpscr))))

/-- The bits of an FPSCR field. -/
def fpscrFieldMask (n : CrField) : Word := crFieldMask n

/-- R641: the exception bits of the copied field are cleared. -/
def execMcrfs (crfD crfS : CrField) (s : State) : Out :=
  needsFp s (
    let c : BitVec 4 := field s.fpscr (4 * crfS.toNat) 4
    let f := s.fpscr &&& ~~~ (fpscrFieldMask crfS &&& excBits)
    fpEnd false (setCrField crfD c { s with fpscr := fpSummary f }))

/-- R642: FEX and VX are not written. -/
def execMtfsfi (crfD : CrField) (imm : BitVec 4) (rc : Bool) (s : State) : Out :=
  needsFp s (
    let v := (imm ++ (0 : BitVec 28)) >>> (4 * crfD.toNat)
    fpEnd rc { s with fpscr := fpSummary (merge (fpscrFieldMask crfD) s.fpscr v) })

/-- The mask of an eight-bit field selector, each bit repeated four times (R458, R643). -/
def fieldsMask (m : BitVec 8) : Word :=
  let n (i : Nat) : BitVec 4 := if bitAt m i then 0b1111 else 0
  n 0 ++ n 1 ++ n 2 ++ n 3 ++ n 4 ++ n 5 ++ n 6 ++ n 7

/-- R643: FEX and VX are not written. -/
def execMtfsf (fm : BitVec 8) (frB : Reg) (rc : Bool) (s : State) : Out :=
  needsFp s (
    let v : Word := field (fprGet s frB) 32 32
    fpEnd rc { s with fpscr := fpSummary (merge (fieldsMask fm) s.fpscr v) })

/-- R644: FEX and VX follow from the other bits. -/
def execMtfsb0 (crbD : Reg) (rc : Bool) (s : State) : Out :=
  needsFp s (fpEnd rc { s with fpscr := fpSummary (setBit s.fpscr crbD.toNat false) })

/-- R645: setting an exception bit that was 0 sets FX. -/
def execMtfsb1 (crbD : Reg) (rc : Bool) (s : State) : Out :=
  needsFp s (
    let b := maskBit crbD.toNat
    let f := s.fpscr ||| b
    let f := if b &&& causeBits &&& ~~~ s.fpscr = 0 then f else f ||| fxBit
    fpEnd rc { s with fpscr := fpSummary f })

/-! ## Moves: the FPSCR is not changed -/

/-- R650. -/
def execFmr (frD frB : Reg) (rc : Bool) (s : State) : Out :=
  needsFp s (nextInstr (recordFp rc (fprSet s frD (fprGet s frB))))

/-- R651. -/
def execFneg (frD frB : Reg) (rc : Bool) (s : State) : Out :=
  needsFp s (nextInstr (recordFp rc (fprSet s frD (fpNegate (fprGet s frB)))))

/-- R652. -/
def execFabs (frD frB : Reg) (rc : Bool) (s : State) : Out :=
  needsFp s (nextInstr (recordFp rc (fprSet s frD (fprGet s frB &&& 0x7FFFFFFFFFFFFFFF))))

/-- R653. -/
def execFnabs (frD frB : Reg) (rc : Bool) (s : State) : Out :=
  needsFp s (nextInstr (recordFp rc (fprSet s frD (fprGet s frB ||| 0x8000000000000000))))

end Sys2Proof.Machine
end

