-- ==== Sys2Proof/Machine/PerfMon.lean ====
section
/-! DEFINITION. The performance monitor (R1040 to R1054): when a counter may change, how it advances, when the interrupt
is signalled. -/

namespace Sys2Proof.Machine

def mmcrDis (s : State) : Bool := bitAt s.perf.mmcr0 0
def mmcrDp (s : State) : Bool := bitAt s.perf.mmcr0 1
def mmcrDu (s : State) : Bool := bitAt s.perf.mmcr0 2
def mmcrDms (s : State) : Bool := bitAt s.perf.mmcr0 3
def mmcrDmr (s : State) : Bool := bitAt s.perf.mmcr0 4
def mmcrEnint (s : State) : Bool := bitAt s.perf.mmcr0 5
def mmcrDiscount (s : State) : Bool := bitAt s.perf.mmcr0 6
/-- INTONBITTRANS is bit 9 (DESIGN CHOICE, notes/assumptions/75.md: so R160's table, whose bit 6 is DISCOUNT; ruling C80
prints bit 6). -/
def mmcrIntOnBitTrans (s : State) : Bool := bitAt s.perf.mmcr0 9
def mmcrPmc1Int (s : State) : Bool := bitAt s.perf.mmcr0 16
def mmcrPmcInt (s : State) : Bool := bitAt s.perf.mmcr0 17
def mmcrTrigger (s : State) : Bool := bitAt s.perf.mmcr0 18

/-- The event selectors of the four counters (R160, R162). -/
def pmSelector (s : State) (n : Fin 4) : Nat :=
  match n with
  | 0 => (field s.perf.mmcr0 19 7).toNat
  | 1 => (field s.perf.mmcr0 26 6).toNat
  | 2 => (field s.perf.mmcr1 0 5).toNat
  | 3 => (field s.perf.mmcr1 5 5).toNat

/-- The TBL bit RTCSELECT picks (R1024). -/
def rtcBit (s : State) : Nat :=
  match (field s.perf.mmcr0 7 2).toNat with
  | 0 => 31
  | 1 => 23
  | 2 => 19
  | _ => 15

def pmc (s : State) (n : Fin 4) : Word :=
  match n with
  | 0 => s.perf.pmc1
  | 1 => s.perf.pmc2
  | 2 => s.perf.pmc3
  | 3 => s.perf.pmc4

def pmcPut (s : State) (n : Fin 4) (v : Word) : State :=
  match n with
  | 0 => { s with perf := { s.perf with pmc1 := v } }
  | 1 => { s with perf := { s.perf with pmc2 := v } }
  | 2 => { s with perf := { s.perf with pmc3 := v } }
  | 3 => { s with perf := { s.perf with pmc4 := v } }

/-- The MMCR0 bits 0 to 4 let the counters change in the current state (R1041). -/
def pmGate (s : State) : Bool :=
  !mmcrDis s && !(mmcrDp s && !userMode s) && !(mmcrDu s && userMode s) &&
  !(mmcrDms s && msrPm s) && !(mmcrDmr s && !msrPm s)

/-- Counter `n` may be changed by hardware (R1041). -/
def pmCounts (s : State) (n : Fin 4) : Bool :=
  pmGate s &&
  (if n = 0 then !s.perf.frozen
   else if mmcrTrigger s then s.perf.trig || bitAt s.perf.pmc1 0 else !s.perf.frozen)

/-- The overflow condition of R1045. -/
def pmOverflow (s : State) : Bool :=
  (mmcrPmc1Int s && bitAt s.perf.pmc1 0) ||
  (mmcrPmcInt s && (bitAt s.perf.pmc2 0 || bitAt s.perf.pmc3 0 || bitAt s.perf.pmc4 0))

/-- The condition of the interrupt; `trans`: the selected time base bit has just gone from 0 to 1 (R1045). -/
def pmCondition (trans : Bool) (s : State) : Bool :=
  mmcrEnint s && (pmOverflow s || (mmcrIntOnBitTrans s && trans))

/-- The interrupt is signalled with an address for SIA (R1045). -/
def pmRaise (sia : Word) (s : State) : State :=
  { s with perf := { s.perf with
      pending := true
      mmcr0 := setBit s.perf.mmcr0 5 false
      trig := true
      frozen := s.perf.frozen || mmcrDiscount s
      sia := sia } }

/-- When the interrupt is signalled: inside an instruction, which is about to complete; at the end of a step in which one has
completed; between instructions. -/
inductive Moment
  | inside
  | after
  | between
  deriving DecidableEq, Repr

/-- What SIA may receive: the address of any instruction completed so far, the one now completing among them (P9); between
instructions it may also stay as it is (R1045). -/
def siaChoices (m : Moment) (s : State) : List Word :=
  let old := s.seen.history.map (·.address)
  match m with
  | .inside => s.pc :: old
  | .after => old
  | .between => s.perf.sia :: old

/-- The address SIA receives; where there is none it stays as it is. -/
def siaNear (m : Moment) (s : State) : Word × State :=
  let l := siaChoices m s
  if l.isEmpty then (s.perf.sia, s)
  else
    let (k, s) := fresh 32 s
    (l.getD (k.toNat % l.length) s.perf.sia, s)

/-- Signal the interrupt if its condition holds (R1045). -/
def pmSignal (trans : Bool) (m : Moment) (s : State) : State :=
  if pmCondition trans s then
    let (a, s) := siaNear m s
    pmRaise a s
  else s

/-- Add occurrences to a counter, if it counts (R1042). -/
def pmAdd (n : Fin 4) (k : Nat) (s : State) : State :=
  if pmCounts s n then pmcPut s n (pmc s n + BitVec.ofNat 32 k) else s

/-- One occurrence of the event `selector` of counter `n`. -/
def pmEvent (n : Fin 4) (selector : Nat) (s : State) : State :=
  if pmSelector s n = selector then pmAdd n 1 s else s

/-- A 0 to 1 change of the selected TBL bit: event 3 of every counter, and the transition condition (R1024, R1045). PMC1
advances first: with PMCTRIGGER the change that makes its bit 0 one is counted by PMC2 to PMC4 (DESIGN CHOICE,
notes/assumptions/77.md: R1041 does not say). -/
def pmTransition (m : Moment) (s : State) : State :=
  pmSignal true m (pmEvent 3 3 (pmEvent 2 3 (pmEvent 1 3 (pmEvent 0 3 s))))

/-- Replace TBL, with the event a change of the selected bit is, in nap as in the other states in which the time base runs
(DESIGN CHOICE, notes/assumptions/76.md: R1024 counts every change, R1072 lets nothing but the time base and the thermal
unit operate in nap). -/
def setTbl (m : Moment) (v : Word) (s : State) : State :=
  let rises := !bitAt s.tim.tbl (rtcBit s) && bitAt v (rtcBit s)
  let s := { s with tim := { s.tim with tbl := v } }
  if rises then pmTransition m s else s

/-- Replace DEC, with the condition a change of bit 0 from 0 to 1 raises (R1026). -/
def setDec (v : Word) (s : State) : State :=
  { s with tim := { s.tim with dec := v, pending := s.tim.pending || (!bitAt s.tim.dec 0 && bitAt v 0) } }

/-- The events the environment counts, by counter (R1050 to R1053): the selectors that are neither 0, exact nor
reserved. -/
def pmEnvironment (n : Fin 4) (selector : Nat) : Bool :=
  match n with
  | 0 => [1, 2, 4, 6, 7, 8, 10, 11, 12].contains selector
  | 1 => [1, 2, 4, 5, 6, 7, 8, 12, 13, 15, 16].contains selector
  | 2 => [1, 2, 4, 5, 6, 7, 8, 12, 13, 15, 16, 17].contains selector
  | 3 => [1, 2, 4, 5, 6, 8, 12, 14].contains selector

/-- An instruction has completed: its address may reach SIA, and a counter that counts completed instructions may count it
(event 2 of every counter) (R1045, R1050 to R1053). -/
def noteCompleted (address : Word) (load : Bool) (s : State) : State :=
  { s with seen := { s.seen with
      history := { address := address, load := load } :: s.seen.history
      credit := Vector.ofFn fun n : Fin 4 =>
        if pmSelector s n = 2 && pmCounts s n then s.seen.credit[n] + 1 else s.seen.credit[n] } }

/-- Completed instructions are counted: never more than there were (R1042, R1050 to R1053). -/
def countCompleted (n : Fin 4) (k : Nat) (s : State) : State :=
  let k := min k s.seen.credit[n]
  let s := { s with seen := { s.seen with credit := s.seen.credit.set n.val (s.seen.credit[n] - k) n.isLt } }
  pmSignal false .between (pmAdd n k s)

/-- Loads over the threshold are counted: SIA receives the sampled one (R1043, R1045, R166). -/
def countSampled (k sampled : Nat) (s : State) : State :=
  match s.seen.history.filter (·.load) with
  | [] => s
  | l =>
    let s := pmAdd 0 k s
    if pmCondition false s then pmRaise ((l.map (·.address)).getD (sampled % l.length) 0) s else s

/-- `k` occurrences of an event the environment counts, for the counter that selects it (R1042). -/
def countEvents (n : Fin 4) (k sampled : Nat) (s : State) : State :=
  if pmEnvironment n (pmSelector s n) && (s.run = .running || s.run = .doze) then
    if pmSelector s n = 2 then countCompleted n k s
    else if n = 0 && pmSelector s n = 10 then countSampled k sampled s
    else pmSignal false .between (pmAdd n k s)
  else s

end Sys2Proof.Machine
end

