-- ==== Sys2Proof/Machine/ProcControl.lean ====
section
/-! DEFINITION. Processor control and synchronisation (45_processor_control_sync.md): MSR, special registers, time base,
condition register moves, `rfi`, `sync`, `eieio`, `isync`. -/

namespace Sys2Proof.Machine

/-! ## The MSR -/

/-- The MSR bits that hold a value (R62, R830, D4). -/
def msrMask : Word := 0x87C5FF7F

/-- A pending enabled floating-point exception is taken when MSR[FE0, FE1], as just written, let it (R948). -/
def fpPending (s : State) : Out :=
  if (bitAt s.msr 20 || bitAt s.msr 23) && bitAt s.fpscr 1 then .next (takeFpEnabled s) else .next s

/-- A power-saving mode is asked for once MSR[POW] changes from 0 to 1 with a mode bit of HID0 set (R1070, D34). -/
def powAskedAfter (v : Word) (s : State) : Bool :=
  bitAt v 13 && (s.powAsked || (!msrPow s && field (hid0Now s) 8 3 != 0))

/-- A write of the MSR; the old value stays in force until a use chooses (R1140). -/
def msrMove (v : Word) (s : State) : State :=
  { overwrite .order (overwrite .msr s) with msr := v, powAsked := powAskedAfter v s }

/-- R830: the bits that hold a value are written. -/
def execMtmsr (rS : Reg) (s : State) : Out :=
  privileged s (fpPending (advance (msrMove (gprGet s rS &&& msrMask) s)))

/-- R831. -/
def execMfmsr (rD : Reg) (s : State) : Out := privileged s (nextInstr (gprSet s rD s.msr))

/-- R832. -/
def execRfi (s : State) : Out := privileged s (fpPending (returnFromException s))

/-! ## Special registers: reading (R80, R81, R836) -/

/-- The BAT pair of an SPR number: data side or not, index, lower register or not. -/
def batSpr (n : Nat) : Option (Bool × Fin 8 × Bool) :=
  if 528 ≤ n ∧ n ≤ 535 then some (false, Fin.ofNat 8 ((n - 528) / 2), n % 2 = 1)
  else if 536 ≤ n ∧ n ≤ 543 then some (true, Fin.ofNat 8 ((n - 536) / 2), n % 2 = 1)
  else if 560 ≤ n ∧ n ≤ 567 then some (false, Fin.ofNat 8 ((n - 560) / 2 + 4), n % 2 = 1)
  else if 568 ≤ n ∧ n ≤ 575 then some (true, Fin.ofNat 8 ((n - 568) / 2 + 4), n % 2 = 1)
  else none

/-- Write a register of a BAT pair. -/
def batSet (data : Bool) (i : Fin 8) (lower : Bool) (v : Word) (s : State) : State :=
  let b := if data then s.mmu.dbat[i] else s.mmu.ibat[i]
  let b : BatPair := if lower then { b with lower := v } else { b with upper := v }
  if data then { s with mmu := { s.mmu with dbat := s.mmu.dbat.set i.val b i.isLt } }
  else { s with mmu := { s.mmu with ibat := s.mmu.ibat.set i.val b i.isLt } }

/-- PVR (R64). -/
def pvr : Word := (0x7000 : BitVec 16) ++ Config.pvrRev

/-- HID1 as read: the straps in front of bits 7 to 31 (R150). -/
def hid1Value (s : State) : Word := Config.pllCfg ++ Config.pllRng ++ field s.hid.hid1 7 25

/-- L2CR as read: bit 31 is L2IP (R170, R420). -/
def l2crValue (s : State) : Word := setBit s.hid.l2cr 31 (s.caches.l2Inval != 0)

/-- The registers `mfspr` reads at either level (R80, R83, R836). -/
def userSpr (n : Nat) (s : State) : Option Word :=
  match n with
  | 1 => some s.xer
  | 8 => some s.lr
  | 9 => some s.ctr
  | 268 => some s.tim.tbl
  | 269 => some s.tim.tbu
  | 936 => some s.perf.mmcr0
  | 937 => some s.perf.pmc1
  | 938 => some s.perf.pmc2
  | 939 => some s.perf.sia
  | 940 => some s.perf.mmcr1
  | 941 => some s.perf.pmc3
  | 942 => some s.perf.pmc4
  | 943 => some 0
  | _ => none

/-- The registers `mfspr` reads in supervisor mode only (R80). -/
def supervisorSpr (n : Nat) (s : State) : Option Word :=
  match n with
  | 18 => some s.sup.dsisr
  | 19 => some s.sup.dar
  | 22 => some s.tim.dec
  | 25 => some s.mmu.sdr1
  | 26 => some s.sup.srr0
  | 27 => some s.sup.srr1
  | 272 => some s.sup.sprg0
  | 273 => some s.sup.sprg1
  | 274 => some s.sup.sprg2
  | 275 => some s.sup.sprg3
  | 282 => some s.sup.ear
  | 287 => some pvr
  | 952 => some s.perf.mmcr0
  | 953 => some s.perf.pmc1
  | 954 => some s.perf.pmc2
  | 955 => some s.perf.sia
  | 956 => some s.perf.mmcr1
  | 957 => some s.perf.pmc3
  | 958 => some s.perf.pmc4
  | 959 => some 0
  | 1008 => some s.hid.hid0
  | 1009 => some (hid1Value s)
  | 1010 => some s.hid.iabr
  | 1013 => some s.sup.dabr
  | 1016 => some s.hid.hid2
  | 1017 => some (l2crValue s)
  | 1019 => some s.hid.ictc
  | 1020 => some s.therm.thrm1
  | 1021 => some s.therm.thrm2
  | 1022 => some s.therm.thrm3
  | _ =>
    match batSpr n with
    | some (data, i, lower) => some (batGet s data i lower)
    | none => none

/-- A read of a special register: an invalid number is illegal at either level, then privilege is checked (R81). -/
def readSpr (rD : Reg) (n : Nat) (rc : Bool) (s : State) : Out :=
  match userSpr n s with
  | some v => nextInstr (recordAny rc (gprSet s rD v))
  | none =>
    match supervisorSpr n s with
    | some v => privileged s (nextInstr (recordAny rc (gprSet s rD v)))
    | none => .next (takeIllegal s)

/-! ## Special registers: writing (R80, R81, R835) -/

/-- The XER bits that hold a value (R44). -/
def xerMask : Word := 0xE000FF7F

/-- A write of HID0: a flash invalidation happens, and its bit stays 1 only while the cache is off (R120, R351, D41). -/
def setHid0 (v : Word) (s : State) : State :=
  let s := overwrite .hid0 s
  let s := if bitAt v 20 then flashInvalidateI s else s
  let s := if bitAt v 21 then flashInvalidateD s else s
  let v := if bitAt v 16 then setBit v 20 false else v
  let v := if bitAt v 17 then setBit v 21 false else v
  { s with hid := { s.hid with hid0 := v } }

/-- The HID1 bits `mtspr` writes (R150). -/
def hid1Mask : Word := 0x00F3FEFE

/-- The bits of SDR1, EAR, ICTC and L2CR that hold a value; the reserved ones read 0 (R13, R285, R75, R176, R170). L2CR
bit 31 is read-only. -/
def sdr1Mask : Word := 0xFFFF01FF
def earMask : Word := 0x8000000F
def ictcMask : Word := 0x000001FF
def l2crMask : Word := 0xC06C0F00

/-- A write of L2CR: L2I starts the global invalidation (R170, R420). -/
def setL2cr (v : Word) (s : State) : State :=
  let s := { s with hid := { s.hid with l2cr := v &&& l2crMask } }
  if bitAt v 10 then { s with caches := { s.caches with l2Inval := Config.l2InvalSteps + 1 } } else s

/-- L2I set outside the stated sequence: with L2E = 1 or HID0[DPM] = 1 (R420). A write that clears L2E and sets L2I at
once counts as inside it (DESIGN CHOICE, notes/assumptions/65.md: the sequence clears L2E in a write of its own). -/
def l2crMisuse (v : Word) (s : State) : Bool := bitAt v 10 && (bitAt v 0 || bitAt (hid0Now s) 11)

/-- THRM1 or THRM2 after a write: TIN stays, TIV is cleared (R178). -/
def thrmAfter (old v : Word) : Word := (old &&& 0x80000000) ||| (v &&& 0x3F800007)

/-- TIV cleared (R180). -/
def clearTiv (x : Word) : Word := setBit x 1 false

/-- A write of THRM3: both comparisons start again (R180). -/
def setThrm3 (v : Word) (s : State) : State :=
  { s with therm := { s.therm with thrm3 := v &&& 0x00003FFF, thrm1 := clearTiv s.therm.thrm1,
                                    thrm2 := clearTiv s.therm.thrm2, halt1 := false, halt2 := false, second := false } }

/-- A write of a register of the performance monitor may signal its interrupt at once (R1045, D63). -/
def setMmcr0 (v : Word) (s : State) : State :=
  pmSignal false .inside { s with perf := { s.perf with mmcr0 := v, frozen := false, trig := false } }

/-- A write of a counter (R1045). -/
def setPmc (n : Fin 4) (v : Word) (s : State) : State := pmSignal false .inside (pmcPut s n v)

/-- The registers `mtspr` writes at either level (R80). -/
def userSprSet (n : Nat) (v : Word) (s : State) : Option State :=
  match n with
  | 1 => some { s with xer := v &&& xerMask }
  | 8 => some { s with lr := v }
  | 9 => some { s with ctr := v }
  | _ => none

/-- A write of a BAT register: the old value stays in force until a use chooses (R1140); an IBAT write flushes the instruction
queue (R304). -/
def batMove (data : Bool) (i : Fin 8) (lower : Bool) (v : Word) (s : State) : State :=
  let s := batSet data i lower v (overwrite (.bat data i lower) s)
  if data then s else dropAhead s

/-- The registers `mtspr` writes in supervisor mode only (R80, R83, R835). A write of THRM1 or THRM2 restarts the
comparisons with THRM1 (R1096). What R1140 lists stays in force until a use chooses. -/
def supervisorSprSet (n : Nat) (v : Word) (s : State) : Option State :=
  match n with
  | 18 => some { s with sup := { s.sup with dsisr := v } }
  | 19 => some { s with sup := { s.sup with dar := v } }
  | 22 => some (setDec v s)
  | 25 => let s := overwrite .sdr1 s; some { s with mmu := { s.mmu with sdr1 := v &&& sdr1Mask } }
  | 26 => some { s with sup := { s.sup with srr0 := v } }
  | 27 => some { s with sup := { s.sup with srr1 := v } }
  | 272 => some { s with sup := { s.sup with sprg0 := v } }
  | 273 => some { s with sup := { s.sup with sprg1 := v } }
  | 274 => some { s with sup := { s.sup with sprg2 := v } }
  | 275 => some { s with sup := { s.sup with sprg3 := v } }
  | 282 => let s := overwrite .ear s; some { s with sup := { s.sup with ear := v &&& earMask } }
  | 284 => some (setTbl .inside v s)
  | 285 => some { s with tim := { s.tim with tbu := v } }
  | 287 => some s
  | 952 => some (setMmcr0 v s)
  | 953 => some (setPmc 0 v s)
  | 954 => some (setPmc 1 v s)
  | 955 => some { s with perf := { s.perf with sia := v } }
  | 956 => some { s with perf := { s.perf with mmcr1 := v &&& 0xFFC00000 } }
  | 957 => some (setPmc 2 v s)
  | 958 => some (setPmc 3 v s)
  | 959 => some s
  | 1008 => some (setHid0 v s)
  | 1009 => some { s with hid := { s.hid with hid1 := merge hid1Mask s.hid.hid1 v } }
  | 1010 =>
    let s := overwrite .iabr s
    some { s with hid := { s.hid with iabr := v }, fetch := { s.fetch with iabrNew := true } }
  | 1013 => let s := overwrite .dabr s; some { s with sup := { s.sup with dabr := v } }
  | 1016 => some { s with hid := { s.hid with hid2 := v } }
  | 1017 => some (setL2cr v s)
  | 1019 => some { s with hid := { s.hid with ictc := v &&& ictcMask } }
  | 1020 => some { s with therm := { s.therm with thrm1 := thrmAfter s.therm.thrm1 v, halt1 := false, second := false } }
  | 1021 => some { s with therm := { s.therm with thrm2 := thrmAfter s.therm.thrm2 v, halt2 := false, second := false } }
  | 1022 => some (setThrm3 v s)
  | _ =>
    match batSpr n with
    | some (data, i, lower) => some (batMove data i lower v s)
    | none => none

/-- A write of a supervisor register, after the privilege check. -/
def writeSupervisor (n : Nat) (v : Word) (rc : Bool) (s s' : State) : Out :=
  privileged s (if n = 1017 ∧ l2crMisuse v s then .fault .l2InvalidateMisuse else nextInstr (recordAny rc s'))

/-- A write of a special register (R81): USDA is a no-op in supervisor mode and illegal in user mode (R83). -/
def writeSpr (n : Nat) (v : Word) (rc : Bool) (s : State) : Out :=
  match userSprSet n v s with
  | some s' => nextInstr (recordAny rc s')
  | none =>
    if n = 943 then (if msrPr s then .next (takeIllegal s) else nextInstr (recordAny rc s))
    else match supervisorSprSet n v s with
      | some s' => writeSupervisor n v rc s s'
      | none => .next (takeIllegal s)

/-- R835. -/
def execMtspr (spr : BitVec 10) (rS : Reg) (rc : Bool) (s : State) : Out := writeSpr spr.toNat (gprGet s rS) rc s

/-- R836. -/
def execMfspr (rD : Reg) (spr : BitVec 10) (rc : Bool) (s : State) : Out := readSpr rD spr.toNat rc s

/-- R837: identical to `mfspr`. -/
def execMftb (rD : Reg) (tbr : BitVec 10) (s : State) : Out := readSpr rD tbr.toNat false s

/-! ## The condition register -/

/-- R840. -/
def execMtcrf (crm : BitVec 8) (rS : Reg) (s : State) : Out :=
  nextInstr { s with cr := merge (fieldsMask crm) s.cr (gprGet s rS) }

/-- R841. -/
def execMfcr (rD : Reg) (s : State) : Out := nextInstr (gprSet s rD s.cr)

/-- R842. -/
def execMcrxr (crfD : CrField) (s : State) : Out :=
  nextInstr (setCrField crfD (field s.xer 0 4) { s with xer := s.xer &&& 0x0FFFFFFF })

/-! ## Synchronisation -/

/-- R845: every store, push and `icbi` before it is done (R226), and the broadcast. -/
def execSync (rc : Bool) (s : State) : Out :=
  nextInstr (recordAny rc (drainStores (if hidAbe s then logBus .sync s else s)))

/-- R846. -/
def execEieio (s : State) : Out := nextInstr (if hidAbe s then logBus .eieio s else s)

/-- R847. -/
def execIsync (s : State) : Out := nextInstr (contextSync s)

end Sys2Proof.Machine
end

