-- ==== Sys2Proof/Machine/Platform.lean ====
section
/-! DEFINITION. The platform around the instructions: the environment's moves (D70), power modes (R1070 to R1073), the
thermal comparisons (R1090 to R1096), snooped transactions (R370, R427, R429), resets, and the sampling of asynchronous
conditions at an instruction boundary (R981). -/

namespace Sys2Proof.Machine

/-! ## Timers -/

/-- TB and DEC advance (R1020, R1025): TBEN is asserted, and the processor is not asleep, in reset or checkstopped. -/
def timersRun (s : State) : Bool :=
  s.pins.tben && (s.run = .running || s.run = .doze || s.run = .nap)

/-- One tick of the time-base clock (R1020, R1026). -/
def tick (s : State) : State :=
  if timersRun s then
    let tb : DWord := (s.tim.tbu ++ s.tim.tbl) + 1
    let s := setDec (s.tim.dec - 1) s
    setTbl .between (field tb 32 32) { s with tim := { s.tim with tbu := field tb 0 32 } }
  else s

/-! ## The thermal assist unit (R1090 to R1096) -/

/-- Threshold register 1 (or 2) takes part in comparisons (R1090). -/
def thermActive (s : State) (second : Bool) : Bool :=
  bitAt s.therm.thrm3 31 &&
  (if second then bitAt s.therm.thrm2 31 && !s.therm.halt2 else bitAt s.therm.thrm1 31 && !s.therm.halt1)

/-- The temperature crosses the threshold of a register (R1091). -/
def thermCrossed (x : Word) (temp : Int) : Bool :=
  let thr : Int := (field x 2 7).toNat
  if bitAt x 29 then decide (temp < thr) else decide (thr < temp)

/-- The result of one comparison with register 1 (or 2) (R1091). -/
def thermCompare (second : Bool) (temp : Int) (s : State) : State :=
  let x := if second then s.therm.thrm2 else s.therm.thrm1
  let crossed := thermCrossed x temp
  let x := setBit (setBit x 0 crossed) 1 true
  let pending := s.therm.pending || (crossed && bitAt x 30)
  if second then { s with therm := { s.therm with thrm2 := x, pending := pending, second := false } }
  else { s with therm := { s.therm with thrm1 := x, pending := pending, second := true } }

/-- The end of a sample interval: the comparisons alternate over the active registers (R1092, R1096). -/
def thermSample (temp : Int) (s : State) : State :=
  if s.run = .checkstop || s.run = .heldInReset then s
  else if thermActive s s.therm.second then thermCompare s.therm.second temp s
  else if thermActive s (!s.therm.second) then thermCompare (!s.therm.second) temp s
  else s

/-- The register's comparison has asked for the interrupt (R1093: V, TIV, TIN, TIE all 1). -/
def thermAsked (x : Word) : Bool := bitAt x 31 && bitAt x 1 && bitAt x 0 && bitAt x 30

/-! ## Power modes -/

/-- The mode HID0 selects, if exactly one bit is set (R121, R1070). -/
def selectedMode (s : State) : Option RunState :=
  if field (hid0Now s) 8 3 = 0b100 then some .doze
  else if field (hid0Now s) 8 3 = 0b010 then some .nap
  else if field (hid0Now s) 8 3 = 0b001 then some .sleep
  else none

/-- The modes whose HID0 bit is set. -/
def selectedModes (s : State) : List RunState :=
  (if bitAt (hid0Now s) 8 then [.doze] else []) ++ (if bitAt (hid0Now s) 9 then [.nap] else []) ++
  (if bitAt (hid0Now s) 10 then [.sleep] else [])

/-- The mode that would be entered: the one selected, and of several any (R121, D30: no priority is stated). -/
def chosenMode (s : State) : Option RunState × State :=
  match selectedModes s with
  | [] => (none, s)
  | [m] => (some m, s)
  | ms =>
    let (k, s) := fresh 8 s
    (ms[k.toNat % ms.length]?, s)

/-- The moment of entry: `mtmsr` has changed MSR[POW] from 0 to 1 with a mode bit set, nothing is to be traced, and nap
and sleep have QACK (R1070, R1072). Nap and sleep wait for every outstanding bus operation: every queued write is done. -/
def powerEntry (s : State) : State :=
  if s.run = .running && s.powAsked && msrPow s && !s.traceDue then
    match chosenMode s with
    | (some .doze, s) => { s with run := .doze }
    | (some m, s) => if s.pins.qack then { s with run := m, storeQueue := [] } else s
    | (none, s) => s
  else s

/-- A condition waits that ends the mode: only one that would be taken in the running state (R1070, D33). -/
def wakes (s : State) : Bool :=
  let ee := msrEe s
  match s.run with
  | .doze => s.latch.sreset || s.latch.machineCheck ||
      (ee && (s.pins.smi || s.pins.int || s.perf.pending || s.tim.pending || s.therm.pending))
  | .nap => s.latch.sreset || (s.latch.machineCheck && bitAt s.latch.mcCause 1) ||
      (ee && (s.pins.smi || s.pins.int || s.tim.pending))
  | .sleep => s.latch.sreset || (s.latch.machineCheck && bitAt s.latch.mcCause 1) || (ee && (s.pins.smi || s.pins.int))
  | _ => false

/-- Leaving a mode clears MSR[POW] (R1070). -/
def awaken (s : State) : State := { s with run := .running, msr := setBit s.msr 13 false, powAsked := false }

/-! ## Output signals (R7, R1100) -/

/-- RSRV is asserted: exactly while the reservation is held (R1105), but released in checkstop and while HRESET is asserted,
as every output but CKSTP_OUT is (R1103, R1120; DESIGN CHOICE, notes/assumptions/79.md: R1105 makes no exception). -/
def rsrvOut (s : State) : Bool := s.resv.held && s.run ≠ .checkstop && s.run ≠ .heldInReset

/-- CKSTP_OUT is asserted: exactly in checkstop (R1103, R937). -/
def ckstpOut (s : State) : Bool := s.run = .checkstop

/-- QREQ is asserted: nap or sleep is asked for, or entered; a nap that QACK has turned into doze keeps it (R1070, R1072). -/
def qreqOut (s : State) : Bool :=
  match s.run with
  | .running => s.powAsked && msrPow s && (bitAt (hid0Now s) 9 || bitAt (hid0Now s) 10)
  | .doze => selectedMode s = some .nap
  | .nap | .sleep => true
  | .checkstop | .heldInReset => false

/-! ## Pins -/

/-- A pin at a level. -/
def pinsSet (p : Pin) (b : Bool) (x : Pins) : Pins :=
  match p with
  | .int => { x with int := b }
  | .smi => { x with smi := b }
  | .ckstpIn => { x with ckstpIn := b }
  | .hreset => { x with hreset := b }
  | .tben => { x with tben := b }
  | .qack => { x with qack := b }
  | .tlbisync => { x with tlbisync := b }

/-- QACK moves a processor between nap and doze (R1070, T7 and T8); HRESET holds it in reset (R1120). -/
def pinEffect (p : Pin) (b : Bool) (s : State) : State :=
  match p with
  | .hreset => if b then { s with run := .heldInReset } else s
  | .qack =>
    if s.run = .nap && !b then { s with run := .doze }
    else if s.run = .doze && b && selectedMode s = some .nap then { s with run := .nap }
    else s
  | _ => s

/-- A machine check condition with a cause bit (R936). -/
def raiseCheck (cause : BitVec 5) (s : State) : State :=
  { s with latch := { s.latch with machineCheck := true, mcCause := s.latch.mcCause ||| cause } }

/-- A falling edge of MCP is latched if HID0[EMCP] = 1 (R1102). A request once latched is taken also if EMCP is cleared
before (DESIGN CHOICE, notes/assumptions/80.md: R981 step 3 and R937 speak of a condition pending and enabled). -/
def mcpFall (s : State) : State :=
  if bitAt (hid0Now s) 0 && s.run ≠ .checkstop && s.run ≠ .heldInReset then raiseCheck 0b01000 s else s

/-- Bad parity on a snooped address is a machine check if HID0[EBA] = 1 (R388, R936, R1110). -/
def addressParity (s : State) : State := if bitAt (hid0Now s) 2 && snooping s then raiseCheck 0b00001 s else s

/-- Bad parity on data read is a machine check if HID0[EBD] = 1; only the running processor reads (R388, R936, R1110). -/
def dataParity (s : State) : State := if bitAt (hid0Now s) 3 && s.run = .running then raiseCheck 0b00010 s else s

/-- A falling edge of SRESET is latched; during a hard reset it is dropped (R1120). -/
def sresetFall (s : State) : State :=
  if s.pins.hreset || s.run = .heldInReset || s.run = .checkstop then s
  else { s with latch := { s.latch with sreset := true } }

/-- HID1[PSTAT] follows HID1[PS] (R1080). -/
def pllSwitch (s : State) : State := { s with hid := { s.hid with hid1 := setBit s.hid.hid1 7 (bitAt s.hid.hid1 15) } }

/-! ## Fetching (R204, R205) -/

/-- The address the fetch unit presents: in little-endian order the word's place in its doubleword is exchanged
(R211). -/
def fetchEa (ea : Word) (s : State) : Word := if msrLe s then ea ^^^ 4 else ea

/-- Run a bus access with the transfer error latch clear, and say whether it ended in TEA. -/
def watchTea {α : Type} (f : State → α × State) (s : State) : α × Bool × State :=
  let (a, t) := f { s with latch := { s.latch with machineCheck := false } }
  (a, t.latch.machineCheck,
    { t with latch := { t.latch with machineCheck := t.latch.machineCheck || s.latch.machineCheck } })

/-- The fetch unit and the load unit may run ahead: the processor runs, and the first fetch after a reset, which is the first
bus operation, has been made (R101). -/
def mayRunAhead (s : State) : Bool := s.run = .running && !s.fetch.single

/-- A word fetched ahead of its turn enters the instruction queue of six (R205, R1161): one that hits a cache, or that may be
read speculatively (R230). It searches no page table and sets no R (R295 row 3); one that ends in TEA brings no word
(R465). One that hits the TLB and is refused by protection or G is a use of the entry (DESIGN CHOICE,
notes/assumptions/47.md: R291 says any use, even a speculative one, and not what a refused one is). -/
def prefetch (ea : Word) (s : State) : State :=
  if mayRunAhead s then
    match translateWith false .fetch (fetchEa ea s) s with
    | .ok pa wimg s =>
      if fetchesAhead pa wimg s then
        let (w, tea, s) := watchTea (fetchPhys (pa &&& 0xFFFFFFFC) wimg) s
        if tea then s else { s with fetch := { s.fetch with queue := ((ea, w) :: s.fetch.queue).take 6 } }
      else s
    | .viol _ s => s
    | .fault _ => s
  else s

/-- A load performed speculatively, its value dropped: what is left is what it does to the caches and on the bus (R230). It
starts no table search. One that hits the TLB and is refused is a use of the entry, as for `prefetch`
(notes/assumptions/47.md). -/
def speculate (ea : Word) (s : State) : State :=
  if mayRunAhead s then
    match translateWith false .load ea s with
    | .ok pa wimg s => if loadsAhead pa wimg s then (dataReadByte pa wimg s).2 else s
    | .viol _ s => s
    | .fault _ => s
  else s

/-! ## The moves -/

/-- The kinds of the transactions a gap holds are all stated (R370). -/
def gapsStated (l : List (List Snoop)) : Bool := l.flatten.all fun x => (snoopAction x.kind).isSome

/-- One move of the environment (D70). Those that depend on HID0, or translate, are uses of it (R1141). -/
def envMove (m : EnvMove) (s : State) : Res Unit :=
  match m with
  | .pin p b => .ok () (pinEffect p b { s with pins := pinsSet p b s.pins })
  | .mcpFall => .ok () (mcpFall (newUse s))
  | .sresetFall => .ok () (sresetFall s)
  | .tick => .ok () (tick s)
  | .thermSample t => .ok () (thermSample t s)
  | .addressParity => .ok () (addressParity (newUse s))
  | .dataParity => .ok () (dataParity (newUse s))
  | .pmCount n k sampled => .ok () (countEvents n k sampled s)
  | .powerEntry => .ok () (powerEntry (newUse s))
  | .pllSwitch => .ok () (if snooping s then pllSwitch s else s)
  | .snoop k g pa data => snoop { kind := k, isGlobal := g, pa := pa, data := data } (newUse s)
  | .gaps l => if gapsStated l then .ok () { s with supply := { s.supply with gaps := l } } else .fault .reservedSnoop
  | .deviceBlocks bs => .ok () { s with devices := bs }
  | .answer bs => .ok () { s with supply := { s.supply with answers := bs } }
  | .prefetch ea => .ok () (prefetch ea (newUse s))
  | .speculate ea => .ok () (speculate ea (newUse s))
  | .teaBlocks bs => .ok () { s with tea := bs }
  | .defer => .ok () s

/-- The moves of one boundary, in order. -/
def envMoves : List EnvMove → State → Res Unit
  | [], s => .ok () s
  | m :: ms, s => andThen (envMove m s) fun _ s => envMoves ms s

/-- The moves the environment makes at this boundary. -/
def movesNow (s : State) : List EnvMove := s.env.headD []

/-- The environment's script with this boundary's moves used up. -/
def envAdvance (s : State) : State := { s with env := s.env.tail }

/-! ## Asynchronous exceptions (R981) -/

/-- The end of a hard reset (R1120): everything is as after reset but what the chip does not hold: memory, without the writes
still in the queues that are lost, the devices, the pins, the record of the bus, and the environment. -/
def hardReset (s : State) : State :=
  let s := loseStores s
  { State.reset with
    mem := s.mem, tea := s.tea, devices := s.devices, busLog := s.busLog, pins := s.pins, env := s.env, freeCtr := s.freeCtr }

/-- A machine check is taken, or checkstop entered if MSR[ME] = 0 (R936, R937). -/
def machineCheckNow (s : State) : State :=
  if msrMe s then
    takeMachineCheck s.pc (s.latch.mcCause.setWidth 32 <<< 16)
      { s with latch := { s.latch with machineCheck := false, mcCause := 0 } }
  else { s with run := .checkstop }

/-- The thermal interrupt is taken: the registers that asked for it are halted (R1093, R964). -/
def thermalNow (s : State) : State :=
  takeException 0x01700 s.pc 0 { s with therm := { s.therm with
    pending := false
    halt1 := s.therm.halt1 || thermAsked s.therm.thrm1
    halt2 := s.therm.halt2 || thermAsked s.therm.thrm2 } }

/-- The first pending maskable interrupt (R923: SMI, INT, performance monitor, decrementer, thermal). -/
def maskableNow (s : State) : Option State :=
  if s.pins.smi then some (takeException 0x01400 s.pc 0 s)
  else if s.pins.int then some (takeException 0x00500 s.pc 0 s)
  else if s.perf.pending then some (takeException 0x00F00 s.pc 0 { s with perf := { s.perf with pending := false } })
  else if s.tim.pending then some (takeException 0x00900 s.pc 0 { s with tim := { s.tim with pending := false } })
  else if s.therm.pending then some (thermalNow s)
  else none

/-- Steps 3 to 5 of R981 in the running state. -/
def asyncNow (s : State) : Option State :=
  if s.latch.machineCheck then some (machineCheckNow s)
  else if s.latch.sreset then some (takeSoftReset s.pc { s with latch := { s.latch with sreset := false } })
  else if msrEe s then maskableNow s
  else none

/-- Steps 1 to 5 of R981: the state after what happens at a boundary instead of an instruction, if anything does.
`deferred`: the environment puts off steps 3 to 5 (R924, D72). -/
def boundary (deferred : Bool) (s : State) : Option State :=
  if s.pins.hreset then some { s with run := .heldInReset }
  else match s.run with
    | .heldInReset => some (hardReset s)
    | .checkstop => some s
    | .running =>
      if s.pins.ckstpIn then some { s with run := .checkstop }
      else if deferred then none else asyncNow s
    | .doze | .nap | .sleep =>
      if s.pins.ckstpIn then some { s with run := .checkstop }
      else if deferred || !wakes s then some s
      else some ((asyncNow (awaken s)).getD s)

end Sys2Proof.Machine
end

