-- ==== Sys2Proof/Machine/Cycle.lean ====
section
/-! DEFINITION. The parts of one step: fetching an instruction (R204, R942), the instruction breakpoint (R962), and what
follows an instruction: the events the performance monitor counts exactly (R1050 to R1053) and trace (R953). -/

namespace Sys2Proof.Machine

/-! ## Fetch -/

/-- The SRR1 bit of an ISI (R942). -/
def isiInfo (v : Violation) : Word :=
  match v with
  | .pageFault => maskBit 1
  | .directStore | .noExecute | .guarded => maskBit 3
  | .protection => maskBit 4

/-- Taking an ISI (R942). -/
def takeIsi (v : Violation) (s : State) : State := takeException 0x00400 s.pc (isiInfo v) s

/-- Fetch the word at the pc (R204). A fetch that ends in TEA never reaches the decoder: the machine check is taken in its
place (R386, R465, R936). -/
def fetchInstr (s : State) : Res Word :=
  let ea := s.pc
  match translate .fetch (fetchEa ea s) s with
  | .fault f => .fault f
  | .viol v s => .exc (takeIsi v s)
  | .ok pa wimg s =>
    let (w, tea, s) := watchTea (fetchInTurn (pa &&& 0xFFFFFFFC) wimg) s
    if tea then .exc (machineCheckNow s) else .ok w s

/-- The physical address of the next fetch, if it has one. -/
def fetchPlace (s : State) : Option Word :=
  match translate .fetch (fetchEa s.pc s) s with
  | .ok pa _ _ => some (pa &&& 0xFFFFFFFC)
  | _ => none

/-- The physical address the next fetch reads; the pc itself where it has no translation. -/
def fetchTarget (s : State) : Word := (fetchPlace s).getD s.pc

/-! ## Implicit branches (R303, R1140) -/

/-- The physical page an instruction address is mapped to, whether or not a fetch from it is allowed: a violation of the
protection, the no-execute or the guarded bit is an ISI and moves nothing (R262). None in a direct-store segment, and for a
page without an entry. -/
def codePage (ea : Word) (s : State) : Option (BitVec 20) :=
  if realMode s .fetch then some (field ea 0 20)
  else match batHits s .fetch ea with
    | b :: _ => some (field (batAddress b ea) 0 20)
    | [] =>
      let sr := segment s ea
      if bitAt sr 0 then none
      else match tlbFind s .fetch (field sr 8 24) ea with
        | some w => ((tlbSet s .fetch ea).ways[w]).map (·.rpn)
        | none => (tableSearch (field sr 8 24) ea s).1.map fun e => field e.2 0 20

/-- That page with these values in force. -/
def codePageUnder (inForce : List (Control × Word)) (ea : Word) (s : State) : Option (BitVec 20) :=
  codePage ea { s with ctx := { s.ctx with inForce := inForce } }

/-- That page with every value as last written. -/
def newPage (ea : Word) (s : State) : Option (BitVec 20) := codePageUnder [] ea s

/-- That page with every value as at the last context synchronisation. -/
def oldPage (ea : Word) (s : State) : Option (BitVec 20) := codePageUnder s.ctx.stale.reverse ea s

/-- Every value as last written, but MSR[PR] as at the last context synchronisation. -/
def oldPrivilege (s : State) : List (Control × Word) :=
  match s.ctx.stale.reverse.lookup .msr with
  | some m => [(.msr, merge (maskBit 17) s.msr m)]
  | none => []

/-- An address of the running code that was mapped to page `p` is mapped elsewhere: with every value as last written it has
another page; or it has none, though it has one with the values before the writes that wait for a context synchronisation,
and not by MSR[PR] alone, whose change is old or new (R1140). -/
def movedFrom (p : BitVec 20) (ea : Word) (s : State) : Bool :=
  match newPage ea s with
  | some q => q != p
  | none => (oldPage ea s).isSome && (codePageUnder (oldPrivilege s) ea s).isNone

/-- The running code is no longer where it ran (R303, R1140): the last instruction's own page has moved and the code goes on
in it or after it; or the code runs on into the next page, which has moved under the last instruction. An explicit branch to
another page is never one. -/
def implicitBranch (s : State) : Bool :=
  match s.fetch.page with
  | none => false
  | some r =>
    let inSequence := s.pc == r.ea + 4
    let inPage := field s.pc 0 20 == field r.ea 0 20
    ((inSequence || inPage) && movedFrom r.here r.ea s) ||
    (inSequence && !inPage && r.next.any fun q => movedFrom q s.pc s)

/-- Where the code runs, with every value as last written. -/
def runningPage (s : State) : Option RunningAt :=
  (newPage s.pc s).map fun p =>
    { ea := s.pc, here := p, next := if field (npc s) 0 20 = field s.pc 0 20 then some p else newPage (npc s) s }

/-- Note where the running code is. -/
def notePage (page : Option RunningAt) (s : State) : State := { s with fetch := { s.fetch with page := page } }

/-! ## The instruction queue -/

/-- The next instruction's word, if it has been fetched ahead (R97, R205). -/
def queued (s : State) : Option Word := s.fetch.queue.lookup s.pc

/-- The word at the pc leaves the instruction queue. -/
def unqueue (s : State) : State :=
  { s with fetch := { s.fetch with queue := s.fetch.queue.filter fun e => e.1 != s.pc } }

/-- A queued word that is executed leaves the instruction queue; a `tlbsync` that waits stays in it (R896). -/
def takeQueued (w : Word) (s : State) : State :=
  if decode w = .instr .tlbsync ∧ s.pins.tlbisync = true then s else unqueue s

/-- The instruction address breakpoint matches, with the IABR in force (R962, R1141). -/
def iabrMatches (s : State) : Bool :=
  let a := control s .iabr
  bitAt a 30 && field a 0 30 == field s.pc 0 30 && bitAt a 31 == msrIr s

/-- Taking an instruction address breakpoint (R962). -/
def takeIabr (s : State) : State := takeException 0x01300 s.pc 0 s

/-- Taking a trace exception: the pc is already the next one (R953). -/
def takeTrace (s : State) : State := takeException 0x00D00 s.pc 0 s

/-! ## Classes of instructions (R1050 to R1053) -/

/-- A completed load or store instruction: 43_load_store.md. -/
def isLoadStore (i : Instr) : Bool :=
  match i with
  | .lbz _ _ _ | .lbzx _ _ _ _ | .lbzu _ _ _ | .lbzux _ _ _ _ | .lhz _ _ _ | .lhzx _ _ _ _ | .lhzu _ _ _
  | .lhzux _ _ _ _ | .lha _ _ _ | .lhax _ _ _ _ | .lhau _ _ _ | .lhaux _ _ _ _ | .lwz _ _ _ | .lwzx _ _ _ _
  | .lwzu _ _ _ | .lwzux _ _ _ _ | .stb _ _ _ | .stbx _ _ _ _ | .stbu _ _ _ | .stbux _ _ _ _ | .sth _ _ _
  | .sthx _ _ _ _ | .sthu _ _ _ | .sthux _ _ _ _ | .stw _ _ _ | .stwx _ _ _ _ | .stwu _ _ _ | .stwux _ _ _ _
  | .lhbrx _ _ _ _ | .lwbrx _ _ _ _ | .sthbrx _ _ _ _ | .stwbrx _ _ _ _ | .lmw _ _ _ | .stmw _ _ _
  | .lswi _ _ _ _ | .lswx _ _ _ _ | .stswi _ _ _ _ | .stswx _ _ _ _ | .lfs _ _ _ | .lfsx _ _ _ _ | .lfsu _ _ _
  | .lfsux _ _ _ _ | .lfd _ _ _ | .lfdx _ _ _ _ | .lfdu _ _ _ | .lfdux _ _ _ _ | .stfs _ _ _ | .stfsx _ _ _ _
  | .stfsu _ _ _ | .stfsux _ _ _ _ | .stfd _ _ _ | .stfdx _ _ _ _ | .stfdu _ _ _ | .stfdux _ _ _ _
  | .stfiwx _ _ _ _ | .lwarx _ _ _ _ | .stwcxRc _ _ _ _ => true
  | _ => false

/-- A completed load: what the threshold event samples (R1043). -/
def isLoad (i : Instr) : Bool :=
  match i with
  | .lbz _ _ _ | .lbzx _ _ _ _ | .lbzu _ _ _ | .lbzux _ _ _ _ | .lhz _ _ _ | .lhzx _ _ _ _ | .lhzu _ _ _
  | .lhzux _ _ _ _ | .lha _ _ _ | .lhax _ _ _ _ | .lhau _ _ _ | .lhaux _ _ _ _ | .lwz _ _ _ | .lwzx _ _ _ _
  | .lwzu _ _ _ | .lwzux _ _ _ _ | .lhbrx _ _ _ _ | .lwbrx _ _ _ _ | .lmw _ _ _ | .lswi _ _ _ _ | .lswx _ _ _ _
  | .lfs _ _ _ | .lfsx _ _ _ _ | .lfsu _ _ _ | .lfsux _ _ _ _ | .lfd _ _ _ | .lfdx _ _ _ _ | .lfdu _ _ _
  | .lfdux _ _ _ _ | .lwarx _ _ _ _ => true
  | _ => false

/-- A floating-point load or store. -/
def isFpLoadStore (i : Instr) : Bool :=
  match i with
  | .lfs _ _ _ | .lfsx _ _ _ _ | .lfsu _ _ _ | .lfsux _ _ _ _ | .lfd _ _ _ | .lfdx _ _ _ _ | .lfdu _ _ _
  | .lfdux _ _ _ _ | .stfs _ _ _ | .stfsx _ _ _ _ | .stfsu _ _ _ | .stfsux _ _ _ _ | .stfd _ _ _ | .stfdx _ _ _ _
  | .stfdu _ _ _ | .stfdux _ _ _ _ | .stfiwx _ _ _ _ => true
  | _ => false

/-- An instruction of the floating-point unit: 42_float.md. -/
def isFpu (i : Instr) : Bool :=
  match i with
  | .fadd _ _ _ _ | .fadds _ _ _ _ | .fsub _ _ _ _ | .fsubs _ _ _ _ | .fmul _ _ _ _ | .fmuls _ _ _ _
  | .fdiv _ _ _ _ | .fdivs _ _ _ _ | .fres _ _ _ | .frsqrte _ _ _ | .fsel _ _ _ _ _ | .fmadd _ _ _ _ _
  | .fmadds _ _ _ _ _ | .fmsub _ _ _ _ _ | .fmsubs _ _ _ _ _ | .fnmadd _ _ _ _ _ | .fnmadds _ _ _ _ _
  | .fnmsub _ _ _ _ _ | .fnmsubs _ _ _ _ _ | .frsp _ _ _ | .fctiw _ _ _ | .fctiwz _ _ _ | .fcmpu _ _ _ _
  | .fcmpo _ _ _ _ | .mffs _ _ | .mcrfs _ _ | .mtfsfi _ _ _ | .mtfsf _ _ _ | .mtfsb0 _ _ | .mtfsb1 _ _
  | .fmr _ _ _ | .fneg _ _ _ | .fabs _ _ _ | .fnabs _ _ _ => true
  | _ => false

/-- An integer operation: 40_integer_arith.md and 41_integer_logical_rotate_shift.md. -/
def isInteger (i : Instr) : Bool :=
  match i with
  | .addi _ _ _ | .addis _ _ _ | .addic _ _ _ | .addicRc _ _ _ | .subfic _ _ _ | .mulli _ _ _ | .add _ _ _ _ _
  | .subf _ _ _ _ _ | .addc _ _ _ _ _ | .subfc _ _ _ _ _ | .adde _ _ _ _ _ | .subfe _ _ _ _ _ | .addme _ _ _ _
  | .subfme _ _ _ _ | .addze _ _ _ _ | .subfze _ _ _ _ | .neg _ _ _ _ | .mullw _ _ _ _ _ | .mulhw _ _ _ _
  | .mulhwu _ _ _ _ | .divw _ _ _ _ _ | .divwu _ _ _ _ _ | .cmpi _ _ _ _ | .cmp _ _ _ _ | .cmpli _ _ _ _
  | .cmpl _ _ _ _ | .andiRc _ _ _ | .andisRc _ _ _ | .ori _ _ _ | .oris _ _ _ | .xori _ _ _ | .xoris _ _ _
  | .and _ _ _ _ | .or _ _ _ _ | .xor _ _ _ _ | .nand _ _ _ _ | .nor _ _ _ _ | .eqv _ _ _ _ | .andc _ _ _ _
  | .orc _ _ _ _ | .extsb _ _ _ | .extsh _ _ _ | .cntlzw _ _ _ | .rlwinm _ _ _ _ _ _ | .rlwnm _ _ _ _ _ _
  | .rlwimi _ _ _ _ _ _ | .slw _ _ _ _ | .srw _ _ _ _ | .srawi _ _ _ _ | .sraw _ _ _ _ => true
  | _ => false

/-- A system unit instruction of the source's Table 6-5 (PRESUMED list, notes/assumptions/38.md: the table is not in
spec/; `tlbsync` has no unit there, R896, R1162). -/
def isSystemUnit (i : Instr) : Bool :=
  match i with
  | .eieio | .isync | .mfmsr _ | .mfspr _ _ _ | .mfsr _ _ | .mfsrin _ _ | .mftb _ _ | .mtmsr _ | .mtspr _ _ _
  | .mtsr _ _ | .mtsrin _ _ | .rfi | .sc | .sync _ => true
  | _ => false

/-- A branch, for MSR[BE] (R953). -/
def isBranch (i : Instr) : Bool :=
  match i with
  | .b _ _ _ | .bc _ _ _ _ _ | .bclr _ _ _ | .bcctr _ _ _ => true
  | _ => false

/-- An instruction only the supervisor may run, whatever its operands (R465). -/
def isSupervisor (i : Instr) : Bool :=
  match i with
  | .mtmsr _ | .mfmsr _ | .rfi | .dcbi _ _ | .mtsr _ _ | .mtsrin _ _ | .mfsr _ _ | .mfsrin _ _ | .tlbie _ | .tlbsync =>
    true
  | _ => false

/-- The context-synchronising instructions, which IABR matches with its old value (R1141). -/
def isContextSync (w : Word) : Bool :=
  match decode w with
  | .instr .isync | .instr .sc | .instr .rfi => true
  | _ => false

/-- The instructions MSR[SE] does not trace (R953). -/
def neverTraced (i : Instr) : Bool :=
  match i with
  | .rfi | .isync | .sc => true
  | _ => false

/-! ## After an instruction -/

/-- An event if a condition holds. -/
def pmEventIf (c : Bool) (n : Fin 4) (selector : Nat) (s : State) : State := if c then pmEvent n selector s else s

/-- The exact events of an instruction that has completed (R1050 to R1053); `before` is the state it began in. -/
def completionEvents (i : Instr) (before s : State) : State :=
  let s := pmEventIf (i == .eieio) 0 5 s
  let s := pmEventIf (field s.hid.iabr 0 30 == field before.pc 0 30) 0 9 s
  let s := pmEventIf (match i with | .lwarx _ _ _ _ => true | _ => false) 1 10 s
  let s := pmEventIf (isLoadStore i) 1 11 s
  let s := pmEventIf (isSystemUnit i) 1 14 s
  let stwcx := match i with | .stwcxRc _ _ _ _ => true | _ => false
  let s := pmEventIf stwcx 2 10 s
  let s := pmEventIf (isFpu i) 2 11 s
  let s := pmEventIf (stwcx && s.seen.stored) 3 10 s
  let s := pmEventIf (match i with | .sync _ => true | _ => false) 3 11 s
  pmEventIf (isInteger i) 3 13 s

/-- The instruction is traced: the MSR as it was before (R953). -/
def traced (i : Instr) (before : State) : Bool :=
  (msrSe before && !neverTraced i) || (msrBe before && isBranch i)

/-- A `tlbsync` that waits has not completed (R896). -/
def waits (i : Instr) (before : State) : Bool := i == .tlbsync && before.pins.tlbisync

/-- The instruction completed before the exception: `sc`, and an `mtmsr` or `rfi` that let a pending floating-point
exception through (R948, R952). -/
def completesFirst (i : Instr) (before : State) : Bool :=
  match i with
  | .sc => true
  | .mtmsr _ | .rfi => !msrPr before
  | _ => false

/-- An `mtmsr` or `rfi` into user mode whose exception returns to supervisor mode toggled MSR[PR] twice (R1051). -/
def togglesBetween (i : Instr) (after : State) : Bool :=
  match i with
  | .mtmsr _ | .rfi => bitAt after.sup.srr1 17
  | _ => false

/-- What the performance monitor sees of a completed instruction. -/
def completed (i : Instr) (before s : State) : State := completionEvents i before (noteCompleted before.pc (isLoad i) s)

/-- What follows an instruction: the events if it completed, and the trace if it completed without an exception. -/
def complete (i : Instr) (before after : State) : State :=
  if after.excTaken then
    if completesFirst i before then
      let c := togglesBetween i after
      pmEventIf c 1 9 (pmEventIf c 1 9 (completed i before after))
    else after
  else if waits i before then after
  else { completed i before after with traceDue := traced i before }

/-- The L2 cache works: not in nap, where only the time base, the decrementer and the thermal unit do, nor in sleep, where
nothing does (R1070, R1072, R1073). -/
def l2Runs (s : State) : Bool := s.run ≠ .nap && s.run ≠ .sleep

/-- One step of a global L2 invalidation (R420). -/
def l2Progress (s : State) : State :=
  if s.caches.l2Inval = 0 || !l2Runs s then s
  else if s.caches.l2Inval = 1 then clearL2 s
  else { s with caches := { s.caches with l2Inval := s.caches.l2Inval - 1 } }

/-- What the environment laid ready for the instruction is gone. -/
def endSupply (s : State) : State := { s with supply := ⟨[], []⟩ }

/-- The end of a step in which an instruction has completed, or none has. -/
def stepMoment (before after : State) : Moment :=
  if before.seen.history.length = after.seen.history.length then .between else .after

/-- The end of a step that is not a stop: MSR[PR] toggles are counted (R1051), an interrupt condition of the
performance monitor is evaluated (R1045), and an L2 invalidation goes on (R420). -/
def endStep (before after : State) : State :=
  let after := endSupply after
  if after.run = .checkstop || after.run = .heldInReset then after
  else pmSignal false (stepMoment before after) (pmEventIf (userMode before != userMode after) 1 9 (l2Progress after))

/-- A step's outcome with its end. -/
def endOut (before : State) (o : Out) : Out :=
  match o with
  | .next s => .next (endStep before s)
  | .fault f => .fault f
  | .refused r => .refused r

/-- An executed instruction's outcome with what follows it. -/
def completeOut (i : Instr) (before : State) (o : Out) : Out :=
  match o with
  | .next s => .next (endStep before (complete i before s))
  | .fault f => .fault f
  | .refused r => .refused r

/-- A word with a reserved field set: the exceptions checked before execution come first (R465 checks 1 to 3), else no
effect is stated. -/
def takesEarly (i : Instr) (s : State) : Bool :=
  match i with
  | .mftb _ n => (userSpr n.toNat s).isNone && ((supervisorSpr n.toNat s).isNone || msrPr s)
  | _ => (isSupervisor i && msrPr s) || ((isFpu i || isFpLoadStore i) && !msrFp s)

/-- Run an instruction, and what follows it. -/
def runInstr (run : Instr → State → Out) (i : Instr) (s : State) : Out :=
  completeOut i s (run i { s with excTaken := false })

/-- The comparison with IABR before a word executes: a context-synchronising instruction right after the write of IABR meets
the value in force before that write (R962, R1141); any other word chooses (R1140). -/
def iabrChoice (w : Word) (s : State) : State := if isContextSync w && s.fetch.iabrNew then s else iabrUse s

/-- The instruction after a write of IABR has been compared. -/
def passIabr (s : State) : State := { s with fetch := { s.fetch with iabrNew := false } }

/-- The instruction's word is `w`: the breakpoint, the decoding, the meaning (R923, R465). `run` executes an
instruction. -/
def runWord (run : Instr → State → Out) (w : Word) (s : State) : Out :=
  let s := passIabr (iabrChoice w s)
  if iabrMatches s then endOut s (.next (takeIabr s))
  else match decode w with
    | .illegal => endOut s (.next (takeIllegal s))
    | .reservedField m i => if takesEarly i s then runInstr run i s else .refused (.reservedField m)
    | .instr i => runInstr run i s

/-- The next instruction, from the instruction queue or fetched; the writes R1140 lists are used anew by the fetch and again
by the instruction, and one that moves or unmaps the running code is an implicit branch (R303). -/
def nextWord (run : Instr → State → Out) (s : State) : Out :=
  let s := newUse s
  let page := runningPage s
  if implicitBranch s then .fault .implicitBranch
  else match queued s with
    | some w => runWord run w (notePage page (takeQueued w s))
    | none =>
      match fetchInstr s with
      | .fault f => .fault f
      | .exc s' => endOut s (.next s')
      | .ok w s => runWord run w (notePage page (furtherUse s))

/-- The word of the next instruction, if one can be had: from the instruction queue, else as a fetch would bring it. -/
def upcoming (s : State) : Option Word :=
  match queued s with
  | some w => some w
  | none =>
    match fetchInstr s with
    | .ok w _ => some w
    | _ => none

/-- The trace that is due; an instruction breakpoint on the next address comes first (R962), compared as before that
instruction (R1141), with MSR[IR] old or new as at a fetch (R158, R1140; DESIGN CHOICE that this comparison is a use of its
own, notes/assumptions/10.md). It is taken without fetching, also where the fetch would take an ISI (DESIGN CHOICE,
notes/assumptions/33.md: R962 puts the ISI before IABR, IABR before trace and R923 trace before the next fetch, a
circle). -/
def traceStep (s : State) : Out :=
  let s := newUse s
  let s := match upcoming s with
    | some w => iabrChoice w s
    | none => iabrUse s
  endOut s (.next (if iabrMatches s then takeIabr s else takeTrace s))

/-- Step 6 of R981: a trace that is due, or the next instruction. -/
def instrStep (run : Instr → State → Out) (s : State) : Out :=
  if s.traceDue then traceStep s else nextWord run s

/-- One step, given how an instruction runs (R981). -/
def stepWith (run : Instr → State → Out) (s : State) : Out :=
  let deferred := (movesNow s).contains .defer
  match envMoves (movesNow s) (envAdvance s) with
  | .fault f => .fault f
  | .exc s => .next s
  | .ok _ s =>
    match boundary deferred s with
    | some s' => endOut s (.next s')
    | none => instrStep run s

/-- The bytes of a word stored at a physical address. -/
def pokeWord (pa w : Word) (s : State) : State := pokeBytes (wordBytes w) pa s

end Sys2Proof.Machine
end

