-- ==== Sys2Proof/Machine/Branch.lean ====
section
/-! DEFINITION. Branches, condition-register logical instructions, traps and the system call (44_branch_flow.md). -/

namespace Sys2Proof.Machine

/-- The link: LR becomes the address after the branch (R791). -/
def linkIf (lk : Bool) (s : State) : State := if lk then { s with lr := npc s } else s

/-- The end of a branch: the pc is the target, its low two bits ignored (R792), or the next instruction. -/
def branchTo (taken : Bool) (target : Word) (s : State) : Out :=
  .next { s with pc := if taken then target &&& 0xFFFFFFFC else npc s }

/-- A displacement field as a word (R792). -/
def displacement {n : Nat} (x : BitVec n) : Word := (x ++ (0 : BitVec 2)).signExtend 32

/-- The CTR after the decrement of a `bc` or `bclr` (R791). -/
def ctrAfter (bo : Reg) (s : State) : Word := if bitAt bo 2 then s.ctr else s.ctr - 1

/-- `ctr_ok` (R791). -/
def ctrOk (bo : Reg) (s : State) : Bool := bitAt bo 2 || (ctrAfter bo s != 0) != bitAt bo 3

/-- `cond_ok` (R791). -/
def condOk (bo bi : Reg) (s : State) : Bool := bitAt bo 0 || crBit s bi == bitAt bo 1

/-- R795. -/
def execB (li : BitVec 24) (aa lk : Bool) (s : State) : Out :=
  let target := if aa then displacement li else s.pc + displacement li
  branchTo true target (linkIf lk s)

/-- R796. -/
def execBc (bo bi : Reg) (bd : BitVec 14) (aa lk : Bool) (s : State) : Out :=
  let target := if aa then displacement bd else s.pc + displacement bd
  let taken := ctrOk bo s && condOk bo bi s
  branchTo taken target (linkIf lk { s with ctr := ctrAfter bo s })

/-- R797: the target is read before LR is written. -/
def execBclr (bo bi : Reg) (lk : Bool) (s : State) : Out :=
  let taken := ctrOk bo s && condOk bo bi s
  branchTo taken s.lr (linkIf lk { s with ctr := ctrAfter bo s })

/-- R798: BO[2] = 0 is an invalid form (U11). -/
def execBcctr (bo bi : Reg) (lk : Bool) (s : State) : Out :=
  if !bitAt bo 2 then .refused (.invalidForm "bcctr")
  else branchTo (condOk bo bi s) s.ctr (linkIf lk s)

/-- A CR bit from two others. -/
def crLogic (f : Bool → Bool → Bool) (crbD crbA crbB : Reg) (s : State) : Out :=
  nextInstr (setCrBit crbD (f (crBit s crbA) (crBit s crbB)) s)

/-- R800. -/
def execCrand (crbD crbA crbB : Reg) (s : State) : Out := crLogic (fun a b => a && b) crbD crbA crbB s

/-- R801. -/
def execCror (crbD crbA crbB : Reg) (s : State) : Out := crLogic (fun a b => a || b) crbD crbA crbB s

/-- R802. -/
def execCrxor (crbD crbA crbB : Reg) (s : State) : Out := crLogic (fun a b => a != b) crbD crbA crbB s

/-- R803. -/
def execCrnand (crbD crbA crbB : Reg) (s : State) : Out := crLogic (fun a b => !(a && b)) crbD crbA crbB s

/-- R804. -/
def execCrnor (crbD crbA crbB : Reg) (s : State) : Out := crLogic (fun a b => !(a || b)) crbD crbA crbB s

/-- R805. -/
def execCreqv (crbD crbA crbB : Reg) (s : State) : Out := crLogic (fun a b => a == b) crbD crbA crbB s

/-- R806. -/
def execCrandc (crbD crbA crbB : Reg) (s : State) : Out := crLogic (fun a b => a && !b) crbD crbA crbB s

/-- R807. -/
def execCrorc (crbD crbA crbB : Reg) (s : State) : Out := crLogic (fun a b => a || !b) crbD crbA crbB s

/-- R808. -/
def execMcrf (crfD crfS : CrField) (s : State) : Out := nextInstr (setCrField crfD (crField s crfS) s)

/-- The condition of a trap (R461, R810). -/
def trapCondition (cond : Reg) (a b : Word) : Bool :=
  (bitAt cond 0 && a.slt b) || (bitAt cond 1 && b.slt a) || (bitAt cond 2 && a == b) ||
  (bitAt cond 3 && a.ult b) || (bitAt cond 4 && b.ult a)

/-- The end of a trap instruction. -/
def trapIf (c : Bool) (s : State) : Out := if c then .next (takeTrap s) else nextInstr s

/-- R810. -/
def execTw (cond rA rB : Reg) (s : State) : Out := trapIf (trapCondition cond (gprGet s rA) (gprGet s rB)) s

/-- R811. -/
def execTwi (cond rA : Reg) (simm : BitVec 16) (s : State) : Out :=
  trapIf (trapCondition cond (gprGet s rA) (sext16 simm)) s

/-- R812. -/
def execSc (s : State) : Out := .next (takeSystemCall s)

end Sys2Proof.Machine
end

