-- ==== Sys2Proof/Machine/CacheMmu.lean ====
section
/-! DEFINITION. Cache, segment register, TLB and external control instructions (46_cache_mmu_control.md). -/

namespace Sys2Proof.Machine

/-- Translate the byte a cache instruction names (R887): none in a direct-store segment, where the instruction does
nothing; a failure is a DSI. -/
def blockAccess (k : Access) (ea : Word) (s : State) : Res (Option (Word × BitVec 4)) :=
  match translate k ea (newUse s) with
  | .fault f => .fault f
  | .ok pa w s => .ok (some (pa, w)) s
  | .viol .directStore s => .ok none s
  | .viol v s => .exc (takeDsi ea (dsisrOf v k) s)

/-- End a cache instruction: `f` acts on the block, if there is one, in a transaction after a gap (R250). -/
def blockOp (k : Access) (ea : Word) (f : Word → BitVec 4 → State → State) (s : State) : Out :=
  finish (blockAccess k ea s) fun p s =>
    match p with
    | some (pa, w) => nextInstr (f pa w (gap s))
    | none => nextInstr s

/-- An address-only broadcast, if HID0[ABE] allows it (R376). -/
def broadcast (op : BusOp) (s : State) : State := if hidAbe s then logBus op s else s

/-! ## Touch (R880, R881) -/

/-- `dcbt` and `dcbtst`: fill the block of an address that translates without a search, is cacheable and unguarded; a hit
is an access to its way (R345). One that ends as a no-op leaves also the TLB's LRU bit as it was (DESIGN CHOICE,
notes/assumptions/63.md: a no-op by R880, a use of the entry by R291). -/
def touch (ea : Word) (s : State) : Out :=
  let s := newUse s
  match translateWith false .load ea s with
  | .fault f => .fault f
  | .viol _ _ => nextInstr s
  | .ok pa w s' =>
    if attrI w || attrG w || !hidDce s || hidDlock s || hidNoopti s then nextInstr s
    else match dFind s' pa with
      | some way => nextInstr (dTouch s' pa way)
      | none => nextInstr (dFill pa s').2

/-- R880. -/
def execDcbt (rA rB : Reg) (s : State) : Out := touch (eaX s rA rB) s

/-- R881. -/
def execDcbtst (rA rB : Reg) (s : State) : Out := touch (eaX s rA rB) s

/-! ## Zero (R882) -/

/-- The block of an address becomes 32 zero bytes in state M, without a read of memory. The kill carries PA[0:28] and
three zeros (R374); it is broadcast with M = 1 for a block the L1 does not own, whatever the L2 holds (R120, R376, C73;
DEDUCED, notes/assumptions/85.md), but not with L2TS (R418). -/
def zeroBlock (pa : Word) (wimg : BitVec 4) (s : State) : State :=
  let zero : DBlock := { tag := tagOf pa, modified := true, data := Vector.replicate 32 0 }
  match dFind s pa with
  | some w => dTouch (dWayPut s pa w (some zero)) pa w
  | none =>
    let x := dset s (setOf pa)
    let w := victimWay x.ways x.plru (hidDcfa s)
    let s := gap (castoutWay pa w s)
    let s := if attrM wimg && !l2Ts s then logBus (.kill (pa &&& 0xFFFFFFF8)) s else s
    dTouch (dWayPut s pa w (some zero)) pa w

/-- The alignment exception of `dcbz`: DSISR[22:26] is any value (R944, U14). -/
def dcbzAlignment (ea : Word) (rA : Reg) (s : State) : State :=
  let (r, s) := fresh 5 s
  takeAlignment ea (dsisrX 1014 r rA) s

/-- A cause of the alignment exception of `dcbz`: the data cache off, or a write-through or caching-inhibited block (R944). -/
def dcbzAligns (wimg : BitVec 4) (s : State) : Bool := !hidDce s || attrW wimg || attrI wimg

/-- `dcbz` to an address that translates: the store's protection, the breakpoint on the byte addressed (DESIGN CHOICE,
notes/assumptions/64.md: R882 names one byte, R941 each doubleword touched), the alignment exception, and only then C and
the zeros (R295). -/
def dcbzStore (ea : Word) (rA : Reg) (s : State) : Out :=
  match translateWith false .store ea s with
  | .fault f => .fault f
  | .viol v s => .next (takeDsi ea (dsisrOf v .store) s)
  | .ok _ w s =>
    if dabrMatches .store ea s then .next (takeDabr .store ea s)
    else if dcbzAligns w s then .next (dcbzAlignment ea rA s)
    else match translate .store ea s with
      | .fault f => .fault f
      | .viol v s => .next (takeDsi ea (dsisrOf v .store) s)
      | .ok pa w s => nextInstr (zeroBlock pa w s)

/-- R882, in its order (DEDUCED, notes/assumptions/24.md: R923 and R944 name another): a no-op in a direct-store segment; the
DSIs; the alignment exception; the zeros. The first translation sets R and not yet C (R295). -/
def execDcbz (rA rB : Reg) (s : State) : Out :=
  let ea := eaX s rA rB
  match translate .load ea (newUse s) with
  | .fault f => .fault f
  | .viol .directStore s => nextInstr s
  | .viol v s => .next (takeDsi ea (dsisrOf v .store) s)
  | .ok _ _ s => dcbzStore ea rA s

/-! ## Store, flush, invalidate (R883 to R885) -/

/-- The L2's part of a `dcbst` that pushed no L1 block: a modified sector is written to memory and stays valid
(R416, R426). Answers whether it was. -/
def l2Clean (pa : Word) (s : State) : Bool × State :=
  match l2Find s pa, l2Sector s pa with
  | some w, some sec =>
    if l2On s && sec.modified && !l2Locked s w then
      (true, l2SectorPut (busWriteBlock (blockOf pa) sec.data (beginPush (blockOf pa) s)) pa w
        (some { sec with modified := false }))
    else (false, s)
  | _, _ => (false, s)

/-- The L2's part of a `dcbf` that pushed no L1 block: a modified sector is written to memory; the sector becomes
invalid (R416, R426). Answers whether it was written. -/
def l2Flush (pa : Word) (s : State) : Bool × State :=
  match l2Find s pa, l2Sector s pa with
  | some w, some sec =>
    if l2On s && !l2Locked s w then
      if sec.modified then
        (true, l2SectorPut (busWriteBlock (blockOf pa) sec.data (beginPush (blockOf pa) s)) pa w none)
      else (false, l2SectorPut s pa w none)
    else (false, s)
  | _, _ => (false, s)

/-- The L2's part of a `dcbi`: the sector becomes invalid, locked or not (R416, R426). -/
def l2Kill (pa : Word) (s : State) : State :=
  match l2Find s pa with
  | some w => if l2On s then l2SectorPut s pa w none else s
  | none => s

/-- What `dcbst` does to the block of an address; a hit is an access to its way (R345). -/
def cleanBlock (pa : Word) (_wimg : BitVec 4) (s : State) : State :=
  let (room, s) := pushRoom pa s
  let below (s : State) : State :=
    let (pushed, s) := l2Clean pa s
    if pushed then s else broadcast (.clean (blockBase (blockOf pa))) s
  match dFind s pa, dBlock s pa with
  | some w, some b =>
    if b.modified then
      dTouch (dWayPut (pushByInstr room (blockOf pa) b.data s) pa w (some { b with modified := false })) pa w
    else below (dTouch s pa w)
  | _, _ => below s

/-- What `dcbf` does to the block of an address. -/
def flushBlock (pa : Word) (_wimg : BitVec 4) (s : State) : State :=
  let (room, s) := pushRoom pa s
  let below (s : State) : State :=
    let (pushed, s) := l2Flush pa s
    if pushed then s else broadcast (.flush (blockBase (blockOf pa))) s
  match dFind s pa, dBlock s pa with
  | some w, some b =>
    if b.modified then dTouch (dWayPut (pushByInstr room (blockOf pa) b.data s) pa w none) pa w
    else below (dTouch (dWayPut s pa w none) pa w)
  | _, _ => below s

/-- What `dcbi` does to the block of an address: nothing is written back. -/
def killBlock (pa : Word) (_wimg : BitVec 4) (s : State) : State :=
  let s := match dFind s pa with
    | some w => dTouch (dWayPut s pa w none) pa w
    | none => s
  broadcast (.kill (blockBase (blockOf pa))) (l2Kill pa s)

/-- R883. -/
def execDcbst (rA rB : Reg) (s : State) : Out := blockOp .load (eaX s rA rB) cleanBlock s

/-- R884. -/
def execDcbf (rA rB : Reg) (s : State) : Out := blockOp .load (eaX s rA rB) flushBlock s

/-- R885. -/
def execDcbi (rA rB : Reg) (s : State) : Out := privileged s (blockOp .store (eaX s rA rB) killBlock s)

/-- R886: the address is not translated. -/
def execIcbi (rA rB : Reg) (s : State) : Out := nextInstr (invalidateISet (eaX s rA rB) s)

/-! ## Segment registers -/

/-- Write a segment register; its old value stays in force until a use chooses (R1140). The instruction queue is flushed
(R304). -/
def srMove (n : BitVec 4) (v : Word) (s : State) : State := dropAhead (srSet (overwrite (.sr n) s) n v)

/-- R890. -/
def execMtsr (sr : BitVec 4) (rS : Reg) (s : State) : Out := privileged s (nextInstr (srMove sr (gprGet s rS) s))

/-- R891. -/
def execMtsrin (rS rB : Reg) (s : State) : Out :=
  privileged s (nextInstr (srMove (field (gprGet s rB) 0 4) (gprGet s rS) s))

/-- R892. -/
def execMfsr (rD : Reg) (sr : BitVec 4) (s : State) : Out := privileged s (nextInstr (gprSet s rD (srGet s sr)))

/-- R893. -/
def execMfsrin (rD rB : Reg) (s : State) : Out :=
  privileged s (nextInstr (gprSet s rD (srGet s (field (gprGet s rB) 0 4))))

/-! ## TLB -/

/-- R895. -/
def execTlbie (rB : Reg) (s : State) : Out := privileged s (nextInstr (tlbInvalidate (gprGet s rB) s))

/-- R896: the instruction is not passed while TLBISYNC is asserted. -/
def execTlbsync (s : State) : Out := privileged s (if s.pins.tlbisync then .next s else nextInstr s)

/-! ## External control (R905, R906) -/

/-- The address lies in a direct-store segment (no BAT maps it). -/
def inDirectStore (ea : Word) (s : State) : Bool :=
  msrDr s && (batHits s .load ea).isEmpty && bitAt (segment s ea) 0

/-- EAR[E] (R75), as in force (R1140). -/
def earEnabled (s : State) : Bool := bitAt (control s .ear) 0

/-- The resource id (R75, R905), as in force. -/
def earRid (s : State) : BitVec 4 := field (control s .ear) 28 4

/-- DSISR of the DSI for EAR[E] = 0; bit 5 may be set with it (R923 note 2, R940). -/
def earDsisr (k : Access) (ea : Word) (s : State) : Word :=
  maskBit 11 ||| (if inDirectStore ea s then maskBit 5 else 0) ||| (if k = .store then maskBit 6 else 0)

/-- The physical address of an external control access: with translation off it is any address (R905). -/
def extAddress (k : Access) (ea : Word) (s : State) : Res Word :=
  if msrDr s then
    andThen (dataAccess k ea 4 false [] s) fun t s =>
      .ok ((spanByte t ea ea s).1 &&& 0xFFFFFFF8 ||| ((if msrLe s then ea ^^^ 4 else ea) &&& 7)) s
  else
    andThen (dabrCheck k ea 4 s) fun _ s =>
      let (pa, s) := fresh 32 (gap s)
      .ok pa s

/-- The checks of an external control instruction in their order (R905), then its transfer. -/
def externalControl (k : Access) (xo : BitVec 10) (r rA : Reg) (ea : Word) (f : Word → State → State) (s : State) : Out :=
  let s := newUse s
  if !earEnabled s then .next (takeDsi ea (earDsisr k ea s) s)
  else needsWordAligned ea (dsisrX xo r rA) s
    (finish (extAddress k ea s) fun pa s =>
      let s := if isTea s pa then raiseTea s else s
      nextInstr (f pa s))

/-- R905. -/
def execEciwx (rD rA rB : Reg) (s : State) : Out :=
  externalControl .load 310 rD rA (eaX s rA rB) (fun pa s =>
    let v := Config.extIn (earRid s) pa s.freeCtr
    let s := { s with freeCtr := s.freeCtr + 1 }
    gprSet (logBus (.extRead (earRid s) pa) s) rD v) s

/-- R906. -/
def execEcowx (rS rA rB : Reg) (s : State) : Out :=
  externalControl .store 438 rS rA (eaX s rA rB) (fun pa s =>
    logBus (.extWrite (earRid s) pa (gprGet s rS)) s) s

end Sys2Proof.Machine
end

