-- ==== Sys2Proof/Machine/IntArith.lean ====
section
/-! DEFINITION. Integer arithmetic and compare instructions (40_integer_arith.md). None of them raises an exception. -/

namespace Sys2Proof.Machine

/-- An addition `x + y + c`, its carry kept when `ca`, its overflow when `oe`, its sign when `rc` (R500, R501). -/
def addInto (rD : Reg) (x y : Word) (c ca oe rc : Bool) (s : State) : Out :=
  let r := sumWord x y c
  let s := gprSet s rD r
  let s := if ca then setCa (carryOut x y c) s else s
  let s := if oe then setOv (sumOvf x y c) s else s
  nextInstr (recordIf rc r s)

/-- A result with a given overflow condition (R501). -/
def resultInto (rD : Reg) (r : Word) (ovf oe rc : Bool) (s : State) : Out :=
  let s := gprSet s rD r
  let s := if oe then setOv ovf s else s
  nextInstr (recordIf rc r s)

/-- A division without a defined quotient: any value in rD and in CR0[LT, GT, EQ] (R522, R523, U4). -/
def undefinedQuotient (rD : Reg) (oe rc : Bool) (s : State) : Out :=
  let (q, s) := fresh 32 s
  let s := gprSet s rD q
  let s := if oe then setOv true s else s
  if rc then
    let (c, s) := fresh 3 s
    nextInstr (setCompare 0 c s)
  else nextInstr s

/-- The signed 64-bit product (R518 to R520). -/
def productSigned (a b : Word) : DWord := a.signExtend 64 * b.signExtend 64

/-- The unsigned 64-bit product (R521). -/
def productUnsigned (a b : Word) : DWord := a.setWidth 64 * b.setWidth 64

/-- The signed product does not fit in 32 bits (R519). -/
def productOvf (a b : Word) : Bool := productSigned a b != (field (productSigned a b) 32 32).signExtend 64

/-! ## Add and subtract -/

/-- R502. -/
def execAddi (rD rA : Reg) (simm : BitVec 16) (s : State) : Out :=
  nextInstr (gprSet s rD (base s rA + sext16 simm))

/-- R503. -/
def execAddis (rD rA : Reg) (simm : BitVec 16) (s : State) : Out :=
  nextInstr (gprSet s rD (base s rA + high16 simm))

/-- R506. -/
def execAddic (rD rA : Reg) (simm : BitVec 16) (s : State) : Out :=
  addInto rD (gprGet s rA) (sext16 simm) false true false false s

/-- R507. -/
def execAddicRc (rD rA : Reg) (simm : BitVec 16) (s : State) : Out :=
  addInto rD (gprGet s rA) (sext16 simm) false true false true s

/-- R508. -/
def execSubfic (rD rA : Reg) (simm : BitVec 16) (s : State) : Out :=
  addInto rD (~~~ gprGet s rA) (sext16 simm) true true false false s

/-- R504. -/
def execAdd (rD rA rB : Reg) (oe rc : Bool) (s : State) : Out :=
  addInto rD (gprGet s rA) (gprGet s rB) false false oe rc s

/-- R505. -/
def execSubf (rD rA rB : Reg) (oe rc : Bool) (s : State) : Out :=
  addInto rD (~~~ gprGet s rA) (gprGet s rB) true false oe rc s

/-- R509. -/
def execAddc (rD rA rB : Reg) (oe rc : Bool) (s : State) : Out :=
  addInto rD (gprGet s rA) (gprGet s rB) false true oe rc s

/-- R510. -/
def execSubfc (rD rA rB : Reg) (oe rc : Bool) (s : State) : Out :=
  addInto rD (~~~ gprGet s rA) (gprGet s rB) true true oe rc s

/-- R511. -/
def execAdde (rD rA rB : Reg) (oe rc : Bool) (s : State) : Out :=
  addInto rD (gprGet s rA) (gprGet s rB) (xerCa s) true oe rc s

/-- R512. -/
def execSubfe (rD rA rB : Reg) (oe rc : Bool) (s : State) : Out :=
  addInto rD (~~~ gprGet s rA) (gprGet s rB) (xerCa s) true oe rc s

/-- R513. -/
def execAddme (rD rA : Reg) (oe rc : Bool) (s : State) : Out :=
  addInto rD (gprGet s rA) 0xFFFFFFFF (xerCa s) true oe rc s

/-- R514. -/
def execSubfme (rD rA : Reg) (oe rc : Bool) (s : State) : Out :=
  addInto rD (~~~ gprGet s rA) 0xFFFFFFFF (xerCa s) true oe rc s

/-- R515. -/
def execAddze (rD rA : Reg) (oe rc : Bool) (s : State) : Out :=
  addInto rD (gprGet s rA) 0 (xerCa s) true oe rc s

/-- R516. -/
def execSubfze (rD rA : Reg) (oe rc : Bool) (s : State) : Out :=
  addInto rD (~~~ gprGet s rA) 0 (xerCa s) true oe rc s

/-- R517. -/
def execNeg (rD rA : Reg) (oe rc : Bool) (s : State) : Out :=
  addInto rD (~~~ gprGet s rA) 0 true false oe rc s

/-! ## Multiply and divide -/

/-- R518. -/
def execMulli (rD rA : Reg) (simm : BitVec 16) (s : State) : Out :=
  nextInstr (gprSet s rD (field (productSigned (gprGet s rA) (sext16 simm)) 32 32))

/-- R519. -/
def execMullw (rD rA rB : Reg) (oe rc : Bool) (s : State) : Out :=
  let a := gprGet s rA
  let b := gprGet s rB
  resultInto rD (field (productSigned a b) 32 32) (productOvf a b) oe rc s

/-- R520. -/
def execMulhw (rD rA rB : Reg) (rc : Bool) (s : State) : Out :=
  resultInto rD (field (productSigned (gprGet s rA) (gprGet s rB)) 0 32) false false rc s

/-- R521. -/
def execMulhwu (rD rA rB : Reg) (rc : Bool) (s : State) : Out :=
  resultInto rD (field (productUnsigned (gprGet s rA) (gprGet s rB)) 0 32) false false rc s

/-- R522. -/
def execDivw (rD rA rB : Reg) (oe rc : Bool) (s : State) : Out :=
  let a := gprGet s rA
  let b := gprGet s rB
  if b = 0 ∨ (a = 0x80000000 ∧ b = 0xFFFFFFFF) then undefinedQuotient rD oe rc s
  else resultInto rD (a.sdiv b) false oe rc s

/-- R523. -/
def execDivwu (rD rA rB : Reg) (oe rc : Bool) (s : State) : Out :=
  let a := gprGet s rA
  let b := gprGet s rB
  if b = 0 then undefinedQuotient rD oe rc s
  else resultInto rD (a / b) false oe rc s

/-! ## Compare -/

/-- R524; L = 1 is an invalid form (U1). -/
def execCmpi (crfD : CrField) (l : Bool) (rA : Reg) (simm : BitVec 16) (s : State) : Out :=
  if l then .refused (.invalidForm "cmpi")
  else nextInstr (setCompare crfD (compareSigned (gprGet s rA) (sext16 simm)) s)

/-- R525; L = 1 is an invalid form (U1). -/
def execCmp (crfD : CrField) (l : Bool) (rA rB : Reg) (s : State) : Out :=
  if l then .refused (.invalidForm "cmp")
  else nextInstr (setCompare crfD (compareSigned (gprGet s rA) (gprGet s rB)) s)

/-- R526; L = 1 is an invalid form (U1). -/
def execCmpli (crfD : CrField) (l : Bool) (rA : Reg) (uimm : BitVec 16) (s : State) : Out :=
  if l then .refused (.invalidForm "cmpli")
  else nextInstr (setCompare crfD (compareUnsigned (gprGet s rA) (zext16 uimm)) s)

/-- R527; L = 1 is an invalid form (U1). -/
def execCmpl (crfD : CrField) (l : Bool) (rA rB : Reg) (s : State) : Out :=
  if l then .refused (.invalidForm "cmpl")
  else nextInstr (setCompare crfD (compareUnsigned (gprGet s rA) (gprGet s rB)) s)

end Sys2Proof.Machine
end

