-- ==== Sys2Proof/Machine/IntLogic.lean ====
section
/-! DEFINITION. Integer logical, rotate and shift instructions (41_integer_logical_rotate_shift.md). None of them raises
an exception. -/

namespace Sys2Proof.Machine

/-- A result into rA, recorded when `rc` (R500). -/
def logicInto (rA : Reg) (r : Word) (rc : Bool) (s : State) : Out := nextInstr (recordIf rc r (gprSet s rA r))

/-- An algebraic right shift's result and carry into rA and XER[CA] (R577, R578). -/
def shiftInto (rA : Reg) (r : Word) (ca rc : Bool) (s : State) : Out :=
  nextInstr (recordIf rc r (setCa ca (gprSet s rA r)))

/-- The number of zero bits a word begins with (R566). -/
def countLeadingZeros (x : Word) : Nat := ((List.range 32).find? fun i => bitAt x i).getD 32

/-- The carry of an algebraic right shift by `n`: a negative value from which a one was shifted out (R577, R578). -/
def sraCarry (x : Word) (n : Nat) : Bool := bitAt x 0 && (x.sshiftRight n <<< n != x)

/-! ## Logical with immediate -/

/-- R550. -/
def execAndiRc (rA rS : Reg) (uimm : BitVec 16) (s : State) : Out := logicInto rA (gprGet s rS &&& zext16 uimm) true s

/-- R551. -/
def execAndisRc (rA rS : Reg) (uimm : BitVec 16) (s : State) : Out := logicInto rA (gprGet s rS &&& high16 uimm) true s

/-- R552. -/
def execOri (rA rS : Reg) (uimm : BitVec 16) (s : State) : Out := logicInto rA (gprGet s rS ||| zext16 uimm) false s

/-- R553. -/
def execOris (rA rS : Reg) (uimm : BitVec 16) (s : State) : Out := logicInto rA (gprGet s rS ||| high16 uimm) false s

/-- R554. -/
def execXori (rA rS : Reg) (uimm : BitVec 16) (s : State) : Out := logicInto rA (gprGet s rS ^^^ zext16 uimm) false s

/-- R555. -/
def execXoris (rA rS : Reg) (uimm : BitVec 16) (s : State) : Out := logicInto rA (gprGet s rS ^^^ high16 uimm) false s

/-! ## Logical -/

/-- R556. -/
def execAnd (rA rS rB : Reg) (rc : Bool) (s : State) : Out := logicInto rA (gprGet s rS &&& gprGet s rB) rc s

/-- R557. -/
def execOr (rA rS rB : Reg) (rc : Bool) (s : State) : Out := logicInto rA (gprGet s rS ||| gprGet s rB) rc s

/-- R558. -/
def execXor (rA rS rB : Reg) (rc : Bool) (s : State) : Out := logicInto rA (gprGet s rS ^^^ gprGet s rB) rc s

/-- R559. -/
def execNand (rA rS rB : Reg) (rc : Bool) (s : State) : Out := logicInto rA (~~~ (gprGet s rS &&& gprGet s rB)) rc s

/-- R560. -/
def execNor (rA rS rB : Reg) (rc : Bool) (s : State) : Out := logicInto rA (~~~ (gprGet s rS ||| gprGet s rB)) rc s

/-- R561. -/
def execEqv (rA rS rB : Reg) (rc : Bool) (s : State) : Out := logicInto rA (~~~ (gprGet s rS ^^^ gprGet s rB)) rc s

/-- R562. -/
def execAndc (rA rS rB : Reg) (rc : Bool) (s : State) : Out := logicInto rA (gprGet s rS &&& ~~~ gprGet s rB) rc s

/-- R563. -/
def execOrc (rA rS rB : Reg) (rc : Bool) (s : State) : Out := logicInto rA (gprGet s rS ||| ~~~ gprGet s rB) rc s

/-! ## Sign extension and count -/

/-- R564. -/
def execExtsb (rA rS : Reg) (rc : Bool) (s : State) : Out :=
  logicInto rA ((field (gprGet s rS) 24 8).signExtend 32) rc s

/-- R565. -/
def execExtsh (rA rS : Reg) (rc : Bool) (s : State) : Out :=
  logicInto rA ((field (gprGet s rS) 16 16).signExtend 32) rc s

/-- R566. -/
def execCntlzw (rA rS : Reg) (rc : Bool) (s : State) : Out :=
  logicInto rA (BitVec.ofNat 32 (countLeadingZeros (gprGet s rS))) rc s

/-! ## Rotate -/

/-- R570. -/
def execRlwinm (rA rS sh mb me : Reg) (rc : Bool) (s : State) : Out :=
  logicInto rA (rotl32 (gprGet s rS) sh &&& maskMbMe mb me) rc s

/-- R571. -/
def execRlwnm (rA rS rB mb me : Reg) (rc : Bool) (s : State) : Out :=
  logicInto rA (rotl32 (gprGet s rS) (field (gprGet s rB) 27 5) &&& maskMbMe mb me) rc s

/-- R572. -/
def execRlwimi (rA rS sh mb me : Reg) (rc : Bool) (s : State) : Out :=
  logicInto rA (merge (maskMbMe mb me) (gprGet s rA) (rotl32 (gprGet s rS) sh)) rc s

/-! ## Shift -/

/-- R575: a shift by 32 to 63 gives 0. -/
def execSlw (rA rS rB : Reg) (rc : Bool) (s : State) : Out :=
  logicInto rA (gprGet s rS <<< shiftAmount (gprGet s rB)) rc s

/-- R576: a shift by 32 to 63 gives 0. -/
def execSrw (rA rS rB : Reg) (rc : Bool) (s : State) : Out :=
  logicInto rA (gprGet s rS >>> shiftAmount (gprGet s rB)) rc s

/-- R577. -/
def execSrawi (rA rS sh : Reg) (rc : Bool) (s : State) : Out :=
  let x := gprGet s rS
  shiftInto rA (x.sshiftRight sh.toNat) (sraCarry x sh.toNat) rc s

/-- R578. -/
def execSraw (rA rS rB : Reg) (rc : Bool) (s : State) : Out :=
  let x := gprGet s rS
  let n := shiftAmount (gprGet s rB)
  shiftInto rA (x.sshiftRight n) (sraCarry x n) rc s

end Sys2Proof.Machine
end

