-- ==== Sys2Proof/Machine/LoadStore.lean ====
section
/-! DEFINITION. Loads and stores (43_load_store.md): integer, byte-reversed, multiple, string, floating-point, and the
reservation pair. Registers are updated only after the access has raised nothing (R680). -/

namespace Sys2Proof.Machine

/-! ## Shared shapes -/

/-- A load of `n` bytes: what the bytes do to the registers, then CR0 where bit 31 is set (R680, R682). -/
def loadOp (ea : Word) (n : Nat) (rc : Bool) (f : List Byte → State → State) (s : State) : Out :=
  finish (dataLoad ea n s) fun bs s => nextInstr (recordAny rc (f bs s))

/-- A store of bytes, then the base update, then CR0 where bit 31 is set (R680, R682). -/
def storeOp (ea : Word) (bs : List Byte) (rc : Bool) (f : State → State) (s : State) : Out :=
  finish (dataStore ea bs s) fun _ s => nextInstr (recordAny rc (f s))

/-- An integer register receives a loaded value. -/
def intoGpr (rD : Reg) (conv : List Byte → Word) (bs : List Byte) (s : State) : State := gprSet s rD (conv bs)

/-- The same with the base updated (R681). -/
def intoGprU (rD rA : Reg) (ea : Word) (conv : List Byte → Word) (bs : List Byte) (s : State) : State :=
  gprSet (gprSet s rD (conv bs)) rA ea

/-- A floating-point register receives a loaded value. -/
def intoFpr (frD : Reg) (conv : List Byte → DWord) (bs : List Byte) (s : State) : State := fprSet s frD (conv bs)

/-- The same with the base updated (R681). -/
def intoFprU (frD rA : Reg) (ea : Word) (conv : List Byte → DWord) (bs : List Byte) (s : State) : State :=
  gprSet (fprSet s frD (conv bs)) rA ea

/-- The base update of a store (R681). -/
def updateBase (rA : Reg) (ea : Word) (s : State) : State := gprSet s rA ea

/-- A byte, halfword or word with zeros in front. -/
def zeroed (bs : List Byte) : Word := bytesVal 32 bs

/-- A halfword with copies of its sign in front. -/
def algebraic (bs : List Byte) : Word := (bytesVal 16 bs).signExtend 32

/-- A halfword or word with its bytes reversed. -/
def reversed (bs : List Byte) : Word := bytesVal 32 bs.reverse

/-- A single as the double it stands for (R747). -/
def asSingle (bs : List Byte) : DWord := toDouble (bytesVal 32 bs)

/-- A double. -/
def asDouble (bs : List Byte) : DWord := bytesVal 64 bs

/-- The low byte of a register. -/
def byteOf (x : Word) : List Byte := [field x 24 8]

/-- The low halfword of a register. -/
def halfOf (x : Word) : List Byte := halfBytes (field x 16 16)

/-- An update form of an integer load is invalid with rA = 0 or rA = rD (R681, U11). -/
def updateLoadForm (mnemonic : String) (rD rA : Reg) (k : Out) : Out :=
  if rA = 0 ∨ rA = rD then .refused (.invalidForm mnemonic) else k

/-- Any other update form is invalid with rA = 0 (R681, U11). -/
def updateForm (mnemonic : String) (rA : Reg) (k : Out) : Out :=
  if rA = 0 then .refused (.invalidForm mnemonic) else k

/-- A floating-point load: the FP check, the alignment check, the access (R740). -/
def fpLoadOp (ea dsisr : Word) (n : Nat) (rc : Bool) (f : List Byte → State → State) (s : State) : Out :=
  needsFp s (needsWordAligned ea dsisr s (loadOp ea n rc f s))

/-- The store of a register nothing has written since the hard reset is refused (R745, U13), unless the access takes an
exception; what a first portion has then moved is any value. -/
def unsetStore (mnemonic : String) (ea : Word) (conv : DWord → List Byte) (s : State) : Out :=
  let (x, s) := fresh 64 s
  finish (dataStore ea (conv x) s) fun _ _ => .refused (.uninitialisedFpr mnemonic)

/-- A floating-point store: the FP check, the alignment check, the access (R740, R745). -/
def fpStoreOp (mnemonic : String) (ea dsisr : Word) (frS : Reg) (conv : DWord → List Byte) (rc : Bool) (f : State → State)
    (s : State) : Out :=
  needsFp s (needsWordAligned ea dsisr s (
    if fprReady s frS then storeOp ea (conv (fprGet s frS)) rc f s else unsetStore mnemonic ea conv s))

/-- A single's bytes (R752). -/
def singleBytes (x : DWord) : List Byte := wordBytes (toSingle x)

/-- The low word's bytes, for `stfiwx` (R768). -/
def lowWordBytes (x : DWord) : List Byte := wordBytes (field x 32 32)

/-! ## Integer loads -/

/-- R690. -/
def execLbz (rD : Reg) (d : BitVec 16) (rA : Reg) (s : State) : Out :=
  loadOp (eaD s rA d) 1 false (intoGpr rD zeroed) s

/-- R691. -/
def execLbzx (rD rA rB : Reg) (rc : Bool) (s : State) : Out :=
  loadOp (eaX s rA rB) 1 rc (intoGpr rD zeroed) s

/-- R692. -/
def execLbzu (rD : Reg) (d : BitVec 16) (rA : Reg) (s : State) : Out :=
  let ea := eaDU s rA d
  updateLoadForm "lbzu" rD rA (loadOp ea 1 false (intoGprU rD rA ea zeroed) s)

/-- R693. -/
def execLbzux (rD rA rB : Reg) (rc : Bool) (s : State) : Out :=
  let ea := eaXU s rA rB
  updateLoadForm "lbzux" rD rA (loadOp ea 1 rc (intoGprU rD rA ea zeroed) s)

/-- R694. -/
def execLhz (rD : Reg) (d : BitVec 16) (rA : Reg) (s : State) : Out :=
  loadOp (eaD s rA d) 2 false (intoGpr rD zeroed) s

/-- R695. -/
def execLhzx (rD rA rB : Reg) (rc : Bool) (s : State) : Out :=
  loadOp (eaX s rA rB) 2 rc (intoGpr rD zeroed) s

/-- R696. -/
def execLhzu (rD : Reg) (d : BitVec 16) (rA : Reg) (s : State) : Out :=
  let ea := eaDU s rA d
  updateLoadForm "lhzu" rD rA (loadOp ea 2 false (intoGprU rD rA ea zeroed) s)

/-- R697. -/
def execLhzux (rD rA rB : Reg) (rc : Bool) (s : State) : Out :=
  let ea := eaXU s rA rB
  updateLoadForm "lhzux" rD rA (loadOp ea 2 rc (intoGprU rD rA ea zeroed) s)

/-- R698. -/
def execLha (rD : Reg) (d : BitVec 16) (rA : Reg) (s : State) : Out :=
  loadOp (eaD s rA d) 2 false (intoGpr rD algebraic) s

/-- R699. -/
def execLhax (rD rA rB : Reg) (rc : Bool) (s : State) : Out :=
  loadOp (eaX s rA rB) 2 rc (intoGpr rD algebraic) s

/-- R700. -/
def execLhau (rD : Reg) (d : BitVec 16) (rA : Reg) (s : State) : Out :=
  let ea := eaDU s rA d
  updateLoadForm "lhau" rD rA (loadOp ea 2 false (intoGprU rD rA ea algebraic) s)

/-- R701. -/
def execLhaux (rD rA rB : Reg) (rc : Bool) (s : State) : Out :=
  let ea := eaXU s rA rB
  updateLoadForm "lhaux" rD rA (loadOp ea 2 rc (intoGprU rD rA ea algebraic) s)

/-- R702. -/
def execLwz (rD : Reg) (d : BitVec 16) (rA : Reg) (s : State) : Out :=
  loadOp (eaD s rA d) 4 false (intoGpr rD zeroed) s

/-- R703. -/
def execLwzx (rD rA rB : Reg) (rc : Bool) (s : State) : Out :=
  loadOp (eaX s rA rB) 4 rc (intoGpr rD zeroed) s

/-- R704. -/
def execLwzu (rD : Reg) (d : BitVec 16) (rA : Reg) (s : State) : Out :=
  let ea := eaDU s rA d
  updateLoadForm "lwzu" rD rA (loadOp ea 4 false (intoGprU rD rA ea zeroed) s)

/-- R705. -/
def execLwzux (rD rA rB : Reg) (rc : Bool) (s : State) : Out :=
  let ea := eaXU s rA rB
  updateLoadForm "lwzux" rD rA (loadOp ea 4 rc (intoGprU rD rA ea zeroed) s)

/-! ## Integer stores -/

/-- R710. -/
def execStb (rS : Reg) (d : BitVec 16) (rA : Reg) (s : State) : Out :=
  storeOp (eaD s rA d) (byteOf (gprGet s rS)) false id s

/-- R711. -/
def execStbx (rS rA rB : Reg) (rc : Bool) (s : State) : Out :=
  storeOp (eaX s rA rB) (byteOf (gprGet s rS)) rc id s

/-- R712: the old value of rS is stored even if rS = rA. -/
def execStbu (rS : Reg) (d : BitVec 16) (rA : Reg) (s : State) : Out :=
  let ea := eaDU s rA d
  updateForm "stbu" rA (storeOp ea (byteOf (gprGet s rS)) false (updateBase rA ea) s)

/-- R713. -/
def execStbux (rS rA rB : Reg) (rc : Bool) (s : State) : Out :=
  let ea := eaXU s rA rB
  updateForm "stbux" rA (storeOp ea (byteOf (gprGet s rS)) rc (updateBase rA ea) s)

/-- R714. -/
def execSth (rS : Reg) (d : BitVec 16) (rA : Reg) (s : State) : Out :=
  storeOp (eaD s rA d) (halfOf (gprGet s rS)) false id s

/-- R715. -/
def execSthx (rS rA rB : Reg) (rc : Bool) (s : State) : Out :=
  storeOp (eaX s rA rB) (halfOf (gprGet s rS)) rc id s

/-- R716: the old value of rS is stored even if rS = rA. -/
def execSthu (rS : Reg) (d : BitVec 16) (rA : Reg) (s : State) : Out :=
  let ea := eaDU s rA d
  updateForm "sthu" rA (storeOp ea (halfOf (gprGet s rS)) false (updateBase rA ea) s)

/-- R717. -/
def execSthux (rS rA rB : Reg) (rc : Bool) (s : State) : Out :=
  let ea := eaXU s rA rB
  updateForm "sthux" rA (storeOp ea (halfOf (gprGet s rS)) rc (updateBase rA ea) s)

/-- R718. -/
def execStw (rS : Reg) (d : BitVec 16) (rA : Reg) (s : State) : Out :=
  storeOp (eaD s rA d) (wordBytes (gprGet s rS)) false id s

/-- R719. -/
def execStwx (rS rA rB : Reg) (rc : Bool) (s : State) : Out :=
  storeOp (eaX s rA rB) (wordBytes (gprGet s rS)) rc id s

/-- R720: the old value of rS is stored even if rS = rA. -/
def execStwu (rS : Reg) (d : BitVec 16) (rA : Reg) (s : State) : Out :=
  let ea := eaDU s rA d
  updateForm "stwu" rA (storeOp ea (wordBytes (gprGet s rS)) false (updateBase rA ea) s)

/-- R721. -/
def execStwux (rS rA rB : Reg) (rc : Bool) (s : State) : Out :=
  let ea := eaXU s rA rB
  updateForm "stwux" rA (storeOp ea (wordBytes (gprGet s rS)) rc (updateBase rA ea) s)

/-! ## Byte-reversed (R213) -/

/-- R725. -/
def execLhbrx (rD rA rB : Reg) (rc : Bool) (s : State) : Out :=
  loadOp (eaX s rA rB) 2 rc (intoGpr rD reversed) s

/-- R726. -/
def execLwbrx (rD rA rB : Reg) (rc : Bool) (s : State) : Out :=
  loadOp (eaX s rA rB) 4 rc (intoGpr rD reversed) s

/-- R727. -/
def execSthbrx (rS rA rB : Reg) (rc : Bool) (s : State) : Out :=
  storeOp (eaX s rA rB) (halfOf (gprGet s rS)).reverse rc id s

/-- R728. -/
def execStwbrx (rS rA rB : Reg) (rc : Bool) (s : State) : Out :=
  storeOp (eaX s rA rB) (wordBytes (gprGet s rS)).reverse rc id s

/-! ## Multiple -/

/-- The registers from `r` to r31. -/
def regsFrom (r : Reg) : List Reg := (List.range (32 - r.toNat)).map fun i => r + BitVec.ofNat 5 i

/-- Load successive words into a list of registers. -/
def loadWords : Word → List Reg → State → Res Unit
  | _, [], s => .ok () s
  | ea, r :: rs, s => andThen (dataLoad ea 4 s) fun bs s => loadWords (ea + 4) rs (gprSet s r (zeroed bs))

/-- The checks of a load or store multiple: big-endian mode and word alignment (R730). -/
def multipleCheck (ea dsisr : Word) (s : State) (k : Out) : Out :=
  if msrLe s then .next (takeAlignment ea dsisr s) else needsWordAligned ea dsisr s k

/-- The form of `lmw` whose base is among the registers loaded (R730, U11). -/
def lmwInvalid (rD rA : Reg) : Bool := if rA = 0 then rD == 0 else rD ≤ rA

/-- R730. -/
def execLmw (rD : Reg) (d : BitVec 16) (rA : Reg) (s : State) : Out :=
  let ea := eaD s rA d
  if lmwInvalid rD rA then .refused (.invalidForm "lmw")
  else multipleCheck ea (dsisrD 46 rD rA) s
    (finish (abandon s.gpr (loadWords ea (regsFrom rD) s)) fun _ s => nextInstr s)

/-- R731. -/
def execStmw (rS : Reg) (d : BitVec 16) (rA : Reg) (s : State) : Out :=
  let ea := eaD s rA d
  multipleCheck ea (dsisrD 47 rS rA) s
    (finish (storePieces ea ((regsFrom rS).map fun r => wordBytes (gprGet s r)) s) fun _ s => nextInstr s)

/-! ## Strings -/

/-- The byte count of an immediate string instruction: 0 stands for 32 (R732). -/
def nbCount (nb : Reg) : Nat := if nb = 0 then 32 else nb.toNat

/-- A string operation that must take the alignment exception (section 6 of 43_load_store.md). -/
def stringMisaligned (ea : Word) (n : Nat) : Bool :=
  n != 0 &&
  (if wordAligned ea then field ea 0 4 != field (lastEa ea n) 0 4 else pageOf ea != pageOf (lastEa ea n))

/-- The checks of a string instruction, in their order (section 6, D58). -/
def stringCheck (ea dsisr : Word) (n : Nat) (s : State) (k : Out) : Out :=
  if msrLe s then .next (takeAlignment ea dsisr s)
  else if stringMisaligned ea n then .next (takeAlignment ea dsisr s)
  else k

/-- The registers of an `n`-byte string from `r` on, wrapping from r31 to r0. -/
def stringRegs (r : Reg) (n : Nat) : List Reg := (List.range ((n + 3) / 4)).map fun i => r + BitVec.ofNat 5 i

/-- The sizes of the transfers of an `n`-byte string: words, and a part of a word at its end (R380). -/
def stringSizes (n : Nat) : List Nat := (List.range ((n + 3) / 4)).map fun i => min 4 (n - 4 * i)

/-- Up to four bytes as the high bytes of a word, the others 0. -/
def highBytes (bs : List Byte) : Word := bytesVal 32 (bs ++ List.replicate (4 - bs.length) 0)

/-- `StringLoad`: four bytes into each register from `r` on, wrapping from r31 to r0; the last one's low bytes are cleared. -/
def stringLoad : Reg → List Nat → Word → State → Res Unit
  | _, [], _, s => .ok () s
  | r, k :: ks, ea, s =>
    andThen (dataLoad ea k s) fun bs s => stringLoad (r + 1) ks (ea + BitVec.ofNat 32 k) (gprSet s r (highBytes bs))

/-- The bytes of a string to store, four of each register from `r` on, in the transfers of `stringSizes`. -/
def stringBytes (s : State) (r : Reg) (n : Nat) : List (List Byte) :=
  (List.range ((n + 3) / 4)).map fun i => (wordBytes (gprGet s (r + BitVec.ofNat 5 i))).take (n - 4 * i)

/-- A string load. -/
def stringLoadOp (ea dsisr : Word) (n : Nat) (rD : Reg) (rc : Bool) (s : State) : Out :=
  stringCheck ea dsisr n s
    (finish (abandon s.gpr (stringLoad rD (stringSizes n) ea s)) fun _ s => nextInstr (recordAny rc s))

/-- A string store. -/
def stringStoreOp (ea dsisr : Word) (n : Nat) (rS : Reg) (rc : Bool) (s : State) : Out :=
  stringCheck ea dsisr n s
    (finish (storePieces ea (stringBytes s rS n) s) fun _ s => nextInstr (recordAny rc s))

/-- R732: rA among the registers loaded is an invalid form (U11). -/
def execLswi (rD rA nb : Reg) (rc : Bool) (s : State) : Out :=
  let n := nbCount nb
  if rA ≠ 0 ∧ rA ∈ stringRegs rD n then .refused (.invalidForm "lswi")
  else stringLoadOp (base s rA) (dsisrX 597 rD rA) n rD rc s

/-- The invalid forms of `lswx`: rD = rA, rD = rB, or rA or rB among the registers loaded (R733, U11). -/
def lswxInvalid (rD rA rB : Reg) (n : Nat) : Bool :=
  rD == rA || rD == rB || (stringRegs rD n).contains rA || (stringRegs rD n).contains rB

/-- R733: a count of 0 makes no access and leaves any value in rD (U12). -/
def execLswx (rD rA rB : Reg) (rc : Bool) (s : State) : Out :=
  let n := xerCount s
  let ea := eaX s rA rB
  if lswxInvalid rD rA rB n then .refused (.invalidForm "lswx")
  else if n = 0 then
    stringCheck ea (dsisrX 533 rD rA) 0 s (
      let (v, s) := fresh 32 s
      nextInstr (recordAny rc (gprSet s rD v)))
  else stringLoadOp ea (dsisrX 533 rD rA) n rD rc s

/-- R734. -/
def execStswi (rS rA nb : Reg) (rc : Bool) (s : State) : Out :=
  stringStoreOp (base s rA) (dsisrX 725 rS rA) (nbCount nb) rS rc s

/-- R735. -/
def execStswx (rS rA rB : Reg) (rc : Bool) (s : State) : Out :=
  stringStoreOp (eaX s rA rB) (dsisrX 661 rS rA) (xerCount s) rS rc s

/-! ## Floating-point loads and stores -/

/-- R748. -/
def execLfs (frD : Reg) (d : BitVec 16) (rA : Reg) (s : State) : Out :=
  fpLoadOp (eaD s rA d) (dsisrD 48 frD rA) 4 false (intoFpr frD asSingle) s

/-- R749. -/
def execLfsx (frD rA rB : Reg) (rc : Bool) (s : State) : Out :=
  fpLoadOp (eaX s rA rB) (dsisrX 535 frD rA) 4 rc (intoFpr frD asSingle) s

/-- R750. -/
def execLfsu (frD : Reg) (d : BitVec 16) (rA : Reg) (s : State) : Out :=
  let ea := eaDU s rA d
  needsFp s (updateForm "lfsu" rA (fpLoadOp ea (dsisrD 49 frD rA) 4 false (intoFprU frD rA ea asSingle) s))

/-- R751. -/
def execLfsux (frD rA rB : Reg) (rc : Bool) (s : State) : Out :=
  let ea := eaXU s rA rB
  needsFp s (updateForm "lfsux" rA (fpLoadOp ea (dsisrX 567 frD rA) 4 rc (intoFprU frD rA ea asSingle) s))

/-- R753. -/
def execLfd (frD : Reg) (d : BitVec 16) (rA : Reg) (s : State) : Out :=
  fpLoadOp (eaD s rA d) (dsisrD 50 frD rA) 8 false (intoFpr frD asDouble) s

/-- R754. -/
def execLfdx (frD rA rB : Reg) (rc : Bool) (s : State) : Out :=
  fpLoadOp (eaX s rA rB) (dsisrX 599 frD rA) 8 rc (intoFpr frD asDouble) s

/-- R755. -/
def execLfdu (frD : Reg) (d : BitVec 16) (rA : Reg) (s : State) : Out :=
  let ea := eaDU s rA d
  needsFp s (updateForm "lfdu" rA (fpLoadOp ea (dsisrD 51 frD rA) 8 false (intoFprU frD rA ea asDouble) s))

/-- R756. -/
def execLfdux (frD rA rB : Reg) (rc : Bool) (s : State) : Out :=
  let ea := eaXU s rA rB
  needsFp s (updateForm "lfdux" rA (fpLoadOp ea (dsisrX 631 frD rA) 8 rc (intoFprU frD rA ea asDouble) s))

/-- R760. -/
def execStfs (frS : Reg) (d : BitVec 16) (rA : Reg) (s : State) : Out :=
  fpStoreOp "stfs" (eaD s rA d) (dsisrD 52 frS rA) frS singleBytes false id s

/-- R761. -/
def execStfsx (frS rA rB : Reg) (rc : Bool) (s : State) : Out :=
  fpStoreOp "stfsx" (eaX s rA rB) (dsisrX 663 frS rA) frS singleBytes rc id s

/-- R762. -/
def execStfsu (frS : Reg) (d : BitVec 16) (rA : Reg) (s : State) : Out :=
  let ea := eaDU s rA d
  needsFp s (updateForm "stfsu" rA (fpStoreOp "stfsu" ea (dsisrD 53 frS rA) frS singleBytes false (updateBase rA ea) s))

/-- R763. -/
def execStfsux (frS rA rB : Reg) (rc : Bool) (s : State) : Out :=
  let ea := eaXU s rA rB
  needsFp s (updateForm "stfsux" rA (fpStoreOp "stfsux" ea (dsisrX 695 frS rA) frS singleBytes rc (updateBase rA ea) s))

/-- R764. -/
def execStfd (frS : Reg) (d : BitVec 16) (rA : Reg) (s : State) : Out :=
  fpStoreOp "stfd" (eaD s rA d) (dsisrD 54 frS rA) frS dwordBytes false id s

/-- R765. -/
def execStfdx (frS rA rB : Reg) (rc : Bool) (s : State) : Out :=
  fpStoreOp "stfdx" (eaX s rA rB) (dsisrX 727 frS rA) frS dwordBytes rc id s

/-- R766. -/
def execStfdu (frS : Reg) (d : BitVec 16) (rA : Reg) (s : State) : Out :=
  let ea := eaDU s rA d
  needsFp s (updateForm "stfdu" rA (fpStoreOp "stfdu" ea (dsisrD 55 frS rA) frS dwordBytes false (updateBase rA ea) s))

/-- R767. -/
def execStfdux (frS rA rB : Reg) (rc : Bool) (s : State) : Out :=
  let ea := eaXU s rA rB
  needsFp s (updateForm "stfdux" rA (fpStoreOp "stfdux" ea (dsisrX 759 frS rA) frS dwordBytes rc (updateBase rA ea) s))

/-- R768. -/
def execStfiwx (frS rA rB : Reg) (rc : Bool) (s : State) : Out :=
  fpStoreOp "stfiwx" (eaX s rA rB) (dsisrX 983 frS rA) frS lowWordBytes rc id s

/-! ## The reservation (R235 to R239) -/

/-- Set the reservation on the block of a physical address (R236). -/
def reserve (pa : Word) (s : State) : State := { s with resv := { held := true, block := blockOf pa } }

/-- Clear the reservation (R237). -/
def unreserve (s : State) : State := { s with resv := { s.resv with held := false } }

/-- R770. -/
def execLwarx (rD rA rB : Reg) (rc : Bool) (s : State) : Out :=
  let ea := eaX s rA rB
  needsWordAligned ea (dsisrX 20 rD rA) s
    (finish (dataAccess .load ea 4 false [] (newUse s)) fun t s =>
      let s := reserve (spanByte t ea ea s).1 s
      let (bs, s) := readList t ea (byteEas ea 4) s
      nextInstr (recordAny rc (gprSet s rD (zeroed (inOrder s bs)))))

/-- Write the bytes of a successful `stwcx.`; where they go has been decided for the word (R367, R415). -/
def condStoreList (way : Option (Fin 2)) (t : Span) (ea : Word) : Word → List Byte → State → State
  | _, [], s => s
  | a, b :: bs, s =>
    let p := spanByte t ea a s
    condStoreList way t ea (a + 1) bs (condStoreByte way p.1 p.2 b s)

/-- CR0 after a `stwcx.`: EQ says whether it stored; any value with bit 31 = 0 (R237, R771, U3). -/
def condRecord (rc stored : Bool) (s : State) : State :=
  if rc then setCrField 0 ((0 : BitVec 2) ++ ofBit stored ++ ofBit (xerSo s)) s else recordAny true s

/-- The end of a `stwcx.`: the reservation is gone; whether it stored is noted for the performance monitor (R237, R1053). -/
def condEnd (rc stored : Bool) (s : State) : Out :=
  nextInstr (condRecord rc stored (unreserve { s with seen := { s.seen with stored := stored } }))

/-- The store of a `stwcx.` whose reservation is held: what it hits decides where it goes, before anything moves; a modified
block is pushed, once, and if another master takes the reservation in the gap after that nothing is stored (R367, R415,
R238). -/
def condStore (t : Span) (ea : Word) (rS : Reg) (rc : Bool) (s : State) : Out :=
  let p := spanByte t ea ea s
  let way := condStoreWay p.1 p.2 s
  let s := condPush way p.1 p.2 s
  if s.resv.held then
    condEnd rc true (condStoreList way t ea ea (inOrder s (wordBytes (gprGet s rS))) (beginStore s))
  else condEnd rc false s

/-- R771: the store happens when the reservation is held, whatever its address; it is lost in any case. Another master may
cancel it until the store's own transaction (R238, R250). -/
def execStwcxRc (rS rA rB : Reg) (rc : Bool) (s : State) : Out :=
  let ea := eaX s rA rB
  needsWordAligned ea (dsisrX 150 rS rA) s
    (finish (translateSpan .store ea 4 false [] (newUse s)) fun t s =>
      let s := gap s
      if s.resv.held then finish (dabrCheck .store ea 4 (furtherUse s)) fun _ s => condStore t ea rS rc s
      else condEnd rc false s)

end Sys2Proof.Machine
end

