-- ==== Sys2Proof/Machine/Dispatch.lean ====
section
/-! DEFINITION. The dispatcher: one arm per constructor, each the instruction's own meaning. -/

namespace Sys2Proof.Machine

def exec (i : Instr) (s : State) : Host.Outcome State Fault Refusal :=
  match i with
  -- Integer arithmetic and compare (40_integer_arith.md)
  | .addi rD rA simm => Sys2Proof.Machine.execAddi rD rA simm s
  | .addis rD rA simm => Sys2Proof.Machine.execAddis rD rA simm s
  | .addic rD rA simm => Sys2Proof.Machine.execAddic rD rA simm s
  | .addicRc rD rA simm => Sys2Proof.Machine.execAddicRc rD rA simm s
  | .subfic rD rA simm => Sys2Proof.Machine.execSubfic rD rA simm s
  | .mulli rD rA simm => Sys2Proof.Machine.execMulli rD rA simm s
  | .add rD rA rB oe rc => Sys2Proof.Machine.execAdd rD rA rB oe rc s
  | .subf rD rA rB oe rc => Sys2Proof.Machine.execSubf rD rA rB oe rc s
  | .addc rD rA rB oe rc => Sys2Proof.Machine.execAddc rD rA rB oe rc s
  | .subfc rD rA rB oe rc => Sys2Proof.Machine.execSubfc rD rA rB oe rc s
  | .adde rD rA rB oe rc => Sys2Proof.Machine.execAdde rD rA rB oe rc s
  | .subfe rD rA rB oe rc => Sys2Proof.Machine.execSubfe rD rA rB oe rc s
  | .addme rD rA oe rc => Sys2Proof.Machine.execAddme rD rA oe rc s
  | .subfme rD rA oe rc => Sys2Proof.Machine.execSubfme rD rA oe rc s
  | .addze rD rA oe rc => Sys2Proof.Machine.execAddze rD rA oe rc s
  | .subfze rD rA oe rc => Sys2Proof.Machine.execSubfze rD rA oe rc s
  | .neg rD rA oe rc => Sys2Proof.Machine.execNeg rD rA oe rc s
  | .mullw rD rA rB oe rc => Sys2Proof.Machine.execMullw rD rA rB oe rc s
  | .mulhw rD rA rB rc => Sys2Proof.Machine.execMulhw rD rA rB rc s
  | .mulhwu rD rA rB rc => Sys2Proof.Machine.execMulhwu rD rA rB rc s
  | .divw rD rA rB oe rc => Sys2Proof.Machine.execDivw rD rA rB oe rc s
  | .divwu rD rA rB oe rc => Sys2Proof.Machine.execDivwu rD rA rB oe rc s
  | .cmpi crfD l rA simm => Sys2Proof.Machine.execCmpi crfD l rA simm s
  | .cmp crfD l rA rB => Sys2Proof.Machine.execCmp crfD l rA rB s
  | .cmpli crfD l rA uimm => Sys2Proof.Machine.execCmpli crfD l rA uimm s
  | .cmpl crfD l rA rB => Sys2Proof.Machine.execCmpl crfD l rA rB s
  -- Integer logical, rotate and shift (41_integer_logical_rotate_shift.md)
  | .andiRc rA rS uimm => Sys2Proof.Machine.execAndiRc rA rS uimm s
  | .andisRc rA rS uimm => Sys2Proof.Machine.execAndisRc rA rS uimm s
  | .ori rA rS uimm => Sys2Proof.Machine.execOri rA rS uimm s
  | .oris rA rS uimm => Sys2Proof.Machine.execOris rA rS uimm s
  | .xori rA rS uimm => Sys2Proof.Machine.execXori rA rS uimm s
  | .xoris rA rS uimm => Sys2Proof.Machine.execXoris rA rS uimm s
  | .and rA rS rB rc => Sys2Proof.Machine.execAnd rA rS rB rc s
  | .or rA rS rB rc => Sys2Proof.Machine.execOr rA rS rB rc s
  | .xor rA rS rB rc => Sys2Proof.Machine.execXor rA rS rB rc s
  | .nand rA rS rB rc => Sys2Proof.Machine.execNand rA rS rB rc s
  | .nor rA rS rB rc => Sys2Proof.Machine.execNor rA rS rB rc s
  | .eqv rA rS rB rc => Sys2Proof.Machine.execEqv rA rS rB rc s
  | .andc rA rS rB rc => Sys2Proof.Machine.execAndc rA rS rB rc s
  | .orc rA rS rB rc => Sys2Proof.Machine.execOrc rA rS rB rc s
  | .extsb rA rS rc => Sys2Proof.Machine.execExtsb rA rS rc s
  | .extsh rA rS rc => Sys2Proof.Machine.execExtsh rA rS rc s
  | .cntlzw rA rS rc => Sys2Proof.Machine.execCntlzw rA rS rc s
  | .rlwinm rA rS sh mb me rc => Sys2Proof.Machine.execRlwinm rA rS sh mb me rc s
  | .rlwnm rA rS rB mb me rc => Sys2Proof.Machine.execRlwnm rA rS rB mb me rc s
  | .rlwimi rA rS sh mb me rc => Sys2Proof.Machine.execRlwimi rA rS sh mb me rc s
  | .slw rA rS rB rc => Sys2Proof.Machine.execSlw rA rS rB rc s
  | .srw rA rS rB rc => Sys2Proof.Machine.execSrw rA rS rB rc s
  | .srawi rA rS sh rc => Sys2Proof.Machine.execSrawi rA rS sh rc s
  | .sraw rA rS rB rc => Sys2Proof.Machine.execSraw rA rS rB rc s
  -- Floating point (42_float.md)
  | .fadd frD frA frB rc => Sys2Proof.Machine.execFadd frD frA frB rc s
  | .fadds frD frA frB rc => Sys2Proof.Machine.execFadds frD frA frB rc s
  | .fsub frD frA frB rc => Sys2Proof.Machine.execFsub frD frA frB rc s
  | .fsubs frD frA frB rc => Sys2Proof.Machine.execFsubs frD frA frB rc s
  | .fmul frD frA frC rc => Sys2Proof.Machine.execFmul frD frA frC rc s
  | .fmuls frD frA frC rc => Sys2Proof.Machine.execFmuls frD frA frC rc s
  | .fdiv frD frA frB rc => Sys2Proof.Machine.execFdiv frD frA frB rc s
  | .fdivs frD frA frB rc => Sys2Proof.Machine.execFdivs frD frA frB rc s
  | .fres frD frB rc => Sys2Proof.Machine.execFres frD frB rc s
  | .frsqrte frD frB rc => Sys2Proof.Machine.execFrsqrte frD frB rc s
  | .fsel frD frA frC frB rc => Sys2Proof.Machine.execFsel frD frA frC frB rc s
  | .fmadd frD frA frC frB rc => Sys2Proof.Machine.execFmadd frD frA frC frB rc s
  | .fmadds frD frA frC frB rc => Sys2Proof.Machine.execFmadds frD frA frC frB rc s
  | .fmsub frD frA frC frB rc => Sys2Proof.Machine.execFmsub frD frA frC frB rc s
  | .fmsubs frD frA frC frB rc => Sys2Proof.Machine.execFmsubs frD frA frC frB rc s
  | .fnmadd frD frA frC frB rc => Sys2Proof.Machine.execFnmadd frD frA frC frB rc s
  | .fnmadds frD frA frC frB rc => Sys2Proof.Machine.execFnmadds frD frA frC frB rc s
  | .fnmsub frD frA frC frB rc => Sys2Proof.Machine.execFnmsub frD frA frC frB rc s
  | .fnmsubs frD frA frC frB rc => Sys2Proof.Machine.execFnmsubs frD frA frC frB rc s
  | .frsp frD frB rc => Sys2Proof.Machine.execFrsp frD frB rc s
  | .fctiw frD frB rc => Sys2Proof.Machine.execFctiw frD frB rc s
  | .fctiwz frD frB rc => Sys2Proof.Machine.execFctiwz frD frB rc s
  | .fcmpu crfD frA frB rc => Sys2Proof.Machine.execFcmpu crfD frA frB rc s
  | .fcmpo crfD frA frB rc => Sys2Proof.Machine.execFcmpo crfD frA frB rc s
  | .mffs frD rc => Sys2Proof.Machine.execMffs frD rc s
  | .mcrfs crfD crfS => Sys2Proof.Machine.execMcrfs crfD crfS s
  | .mtfsfi crfD imm rc => Sys2Proof.Machine.execMtfsfi crfD imm rc s
  | .mtfsf fm frB rc => Sys2Proof.Machine.execMtfsf fm frB rc s
  | .mtfsb0 crbD rc => Sys2Proof.Machine.execMtfsb0 crbD rc s
  | .mtfsb1 crbD rc => Sys2Proof.Machine.execMtfsb1 crbD rc s
  | .fmr frD frB rc => Sys2Proof.Machine.execFmr frD frB rc s
  | .fneg frD frB rc => Sys2Proof.Machine.execFneg frD frB rc s
  | .fabs frD frB rc => Sys2Proof.Machine.execFabs frD frB rc s
  | .fnabs frD frB rc => Sys2Proof.Machine.execFnabs frD frB rc s
  -- Loads and stores (43_load_store.md)
  | .lbz rD d rA => Sys2Proof.Machine.execLbz rD d rA s
  | .lbzx rD rA rB rc => Sys2Proof.Machine.execLbzx rD rA rB rc s
  | .lbzu rD d rA => Sys2Proof.Machine.execLbzu rD d rA s
  | .lbzux rD rA rB rc => Sys2Proof.Machine.execLbzux rD rA rB rc s
  | .lhz rD d rA => Sys2Proof.Machine.execLhz rD d rA s
  | .lhzx rD rA rB rc => Sys2Proof.Machine.execLhzx rD rA rB rc s
  | .lhzu rD d rA => Sys2Proof.Machine.execLhzu rD d rA s
  | .lhzux rD rA rB rc => Sys2Proof.Machine.execLhzux rD rA rB rc s
  | .lha rD d rA => Sys2Proof.Machine.execLha rD d rA s
  | .lhax rD rA rB rc => Sys2Proof.Machine.execLhax rD rA rB rc s
  | .lhau rD d rA => Sys2Proof.Machine.execLhau rD d rA s
  | .lhaux rD rA rB rc => Sys2Proof.Machine.execLhaux rD rA rB rc s
  | .lwz rD d rA => Sys2Proof.Machine.execLwz rD d rA s
  | .lwzx rD rA rB rc => Sys2Proof.Machine.execLwzx rD rA rB rc s
  | .lwzu rD d rA => Sys2Proof.Machine.execLwzu rD d rA s
  | .lwzux rD rA rB rc => Sys2Proof.Machine.execLwzux rD rA rB rc s
  | .stb rS d rA => Sys2Proof.Machine.execStb rS d rA s
  | .stbx rS rA rB rc => Sys2Proof.Machine.execStbx rS rA rB rc s
  | .stbu rS d rA => Sys2Proof.Machine.execStbu rS d rA s
  | .stbux rS rA rB rc => Sys2Proof.Machine.execStbux rS rA rB rc s
  | .sth rS d rA => Sys2Proof.Machine.execSth rS d rA s
  | .sthx rS rA rB rc => Sys2Proof.Machine.execSthx rS rA rB rc s
  | .sthu rS d rA => Sys2Proof.Machine.execSthu rS d rA s
  | .sthux rS rA rB rc => Sys2Proof.Machine.execSthux rS rA rB rc s
  | .stw rS d rA => Sys2Proof.Machine.execStw rS d rA s
  | .stwx rS rA rB rc => Sys2Proof.Machine.execStwx rS rA rB rc s
  | .stwu rS d rA => Sys2Proof.Machine.execStwu rS d rA s
  | .stwux rS rA rB rc => Sys2Proof.Machine.execStwux rS rA rB rc s
  | .lhbrx rD rA rB rc => Sys2Proof.Machine.execLhbrx rD rA rB rc s
  | .lwbrx rD rA rB rc => Sys2Proof.Machine.execLwbrx rD rA rB rc s
  | .sthbrx rS rA rB rc => Sys2Proof.Machine.execSthbrx rS rA rB rc s
  | .stwbrx rS rA rB rc => Sys2Proof.Machine.execStwbrx rS rA rB rc s
  | .lmw rD d rA => Sys2Proof.Machine.execLmw rD d rA s
  | .stmw rS d rA => Sys2Proof.Machine.execStmw rS d rA s
  | .lswi rD rA nb rc => Sys2Proof.Machine.execLswi rD rA nb rc s
  | .lswx rD rA rB rc => Sys2Proof.Machine.execLswx rD rA rB rc s
  | .stswi rS rA nb rc => Sys2Proof.Machine.execStswi rS rA nb rc s
  | .stswx rS rA rB rc => Sys2Proof.Machine.execStswx rS rA rB rc s
  | .lfs frD d rA => Sys2Proof.Machine.execLfs frD d rA s
  | .lfsx frD rA rB rc => Sys2Proof.Machine.execLfsx frD rA rB rc s
  | .lfsu frD d rA => Sys2Proof.Machine.execLfsu frD d rA s
  | .lfsux frD rA rB rc => Sys2Proof.Machine.execLfsux frD rA rB rc s
  | .lfd frD d rA => Sys2Proof.Machine.execLfd frD d rA s
  | .lfdx frD rA rB rc => Sys2Proof.Machine.execLfdx frD rA rB rc s
  | .lfdu frD d rA => Sys2Proof.Machine.execLfdu frD d rA s
  | .lfdux frD rA rB rc => Sys2Proof.Machine.execLfdux frD rA rB rc s
  | .stfs frS d rA => Sys2Proof.Machine.execStfs frS d rA s
  | .stfsx frS rA rB rc => Sys2Proof.Machine.execStfsx frS rA rB rc s
  | .stfsu frS d rA => Sys2Proof.Machine.execStfsu frS d rA s
  | .stfsux frS rA rB rc => Sys2Proof.Machine.execStfsux frS rA rB rc s
  | .stfd frS d rA => Sys2Proof.Machine.execStfd frS d rA s
  | .stfdx frS rA rB rc => Sys2Proof.Machine.execStfdx frS rA rB rc s
  | .stfdu frS d rA => Sys2Proof.Machine.execStfdu frS d rA s
  | .stfdux frS rA rB rc => Sys2Proof.Machine.execStfdux frS rA rB rc s
  | .stfiwx frS rA rB rc => Sys2Proof.Machine.execStfiwx frS rA rB rc s
  | .lwarx rD rA rB rc => Sys2Proof.Machine.execLwarx rD rA rB rc s
  | .stwcxRc rS rA rB rc => Sys2Proof.Machine.execStwcxRc rS rA rB rc s
  -- Branches, condition-register logical, traps and sc (44_branch_flow.md)
  | .b li aa lk => Sys2Proof.Machine.execB li aa lk s
  | .bc bo bi bd aa lk => Sys2Proof.Machine.execBc bo bi bd aa lk s
  | .bclr bo bi lk => Sys2Proof.Machine.execBclr bo bi lk s
  | .bcctr bo bi lk => Sys2Proof.Machine.execBcctr bo bi lk s
  | .crand crbD crbA crbB => Sys2Proof.Machine.execCrand crbD crbA crbB s
  | .cror crbD crbA crbB => Sys2Proof.Machine.execCror crbD crbA crbB s
  | .crxor crbD crbA crbB => Sys2Proof.Machine.execCrxor crbD crbA crbB s
  | .crnand crbD crbA crbB => Sys2Proof.Machine.execCrnand crbD crbA crbB s
  | .crnor crbD crbA crbB => Sys2Proof.Machine.execCrnor crbD crbA crbB s
  | .creqv crbD crbA crbB => Sys2Proof.Machine.execCreqv crbD crbA crbB s
  | .crandc crbD crbA crbB => Sys2Proof.Machine.execCrandc crbD crbA crbB s
  | .crorc crbD crbA crbB => Sys2Proof.Machine.execCrorc crbD crbA crbB s
  | .mcrf crfD crfS => Sys2Proof.Machine.execMcrf crfD crfS s
  | .tw cond rA rB => Sys2Proof.Machine.execTw cond rA rB s
  | .twi cond rA simm => Sys2Proof.Machine.execTwi cond rA simm s
  | .sc => Sys2Proof.Machine.execSc s
  -- Processor control and synchronisation (45_processor_control_sync.md)
  | .mtmsr rS => Sys2Proof.Machine.execMtmsr rS s
  | .mfmsr rD => Sys2Proof.Machine.execMfmsr rD s
  | .rfi => Sys2Proof.Machine.execRfi s
  | .mtspr spr rS rc => Sys2Proof.Machine.execMtspr spr rS rc s
  | .mfspr rD spr rc => Sys2Proof.Machine.execMfspr rD spr rc s
  | .mftb rD tbr => Sys2Proof.Machine.execMftb rD tbr s
  | .mtcrf crm rS => Sys2Proof.Machine.execMtcrf crm rS s
  | .mfcr rD => Sys2Proof.Machine.execMfcr rD s
  | .mcrxr crfD => Sys2Proof.Machine.execMcrxr crfD s
  | .sync rc => Sys2Proof.Machine.execSync rc s
  | .eieio => Sys2Proof.Machine.execEieio s
  | .isync => Sys2Proof.Machine.execIsync s
  -- Cache, segment, TLB and external control (46_cache_mmu_control.md)
  | .dcbt rA rB => Sys2Proof.Machine.execDcbt rA rB s
  | .dcbtst rA rB => Sys2Proof.Machine.execDcbtst rA rB s
  | .dcbz rA rB => Sys2Proof.Machine.execDcbz rA rB s
  | .dcbst rA rB => Sys2Proof.Machine.execDcbst rA rB s
  | .dcbf rA rB => Sys2Proof.Machine.execDcbf rA rB s
  | .dcbi rA rB => Sys2Proof.Machine.execDcbi rA rB s
  | .icbi rA rB => Sys2Proof.Machine.execIcbi rA rB s
  | .mtsr sr rS => Sys2Proof.Machine.execMtsr sr rS s
  | .mtsrin rS rB => Sys2Proof.Machine.execMtsrin rS rB s
  | .mfsr rD sr => Sys2Proof.Machine.execMfsr rD sr s
  | .mfsrin rD rB => Sys2Proof.Machine.execMfsrin rD rB s
  | .tlbie rB => Sys2Proof.Machine.execTlbie rB s
  | .tlbsync => Sys2Proof.Machine.execTlbsync s
  | .eciwx rD rA rB => Sys2Proof.Machine.execEciwx rD rA rB s
  | .ecowx rS rA rB => Sys2Proof.Machine.execEcowx rS rA rB s

end Sys2Proof.Machine
end

