-- ==== Sys2Proof/Machine/Step.lean ====
section
/-! DEFINITION. One step of the machine, and the placing of an instruction where the next step fetches. -/

namespace Sys2Proof.Machine

/-- One instruction boundary and what follows it: the environment's moves, then an asynchronous exception, or a trace,
or one instruction (R981). -/
def step (s : State) : Host.Outcome State Fault Refusal := stepWith exec s

/-- The instruction word `w` stored in memory where the next step fetches it. -/
def State.withFetchWord (s : State) (_nbits w : Nat) : State := pokeWord (fetchTarget s) (BitVec.ofNat 32 w) s

end Sys2Proof.Machine
end

