-- ==== Sys2Proof/Safety.lean ====
section
/-! DEFINITION. The words statements are made in: what it is for an outcome to go on or to stop, the invariant of the
machine, and the conditions under which an instruction's own effect takes place. -/

namespace Sys2Proof.Machine

/-! ## Outcomes -/

/-- The instruction (or the step) goes on with a next state that has a property. -/
def Goes (o : Out) (P : State → Prop) : Prop := ∃ t, o = .next t ∧ P t

/-- Every next state has a property: nothing is said of a stop. -/
def Keeps (o : Out) (P : State → Prop) : Prop := ∀ t, o = .next t → P t

/-- The instruction is refused: an invalid form or a reserved field (R445, R454). -/
def Refuses (o : Out) : Prop := ∃ r, o = .refused r

/-! ## The invariant -/

/-- Memory has its canonical form. -/
def MemoryCanonical (s : State) : Prop := memWf s.mem = true

/-- The pc is a word address (R47, R204). -/
def PcAligned (s : State) : Prop := field s.pc 30 2 = 0

/-- The MSR bits that hold nothing are 0 (R62, D4). -/
def MsrLegal (s : State) : Prop := s.msr &&& ~~~ msrMask = 0

/-- The reserved bits of XER are 0 (R44). -/
def XerLegal (s : State) : Prop := s.xer &&& ~~~ xerMask = 0

/-- FPSCR bit 20 is 0, and VX and FEX are what the other bits make them (R43, R602). -/
def FpscrLegal (s : State) : Prop := fpSummary s.fpscr = s.fpscr

/-- All of it. -/
structure Invariant (s : State) : Prop where
  memory : MemoryCanonical s
  pc : PcAligned s
  msr : MsrLegal s
  xer : XerLegal s
  fpscr : FpscrLegal s

/-! ## Conditions -/

/-- No write that R1140 lists waits for a context synchronisation: every use meets the value last written. -/
structure Settled (s : State) : Prop where
  stale : s.ctx.stale = []
  inForce : s.ctx.inForce = []

/-- The environment has laid no transaction of another master into the instruction (R250). -/
def Alone (s : State) : Prop := s.supply.gaps = []

/-- Data accesses go straight to memory: translation off, big-endian, both caches of the data side off, no data address
breakpoint enabled, no block a device's or answered with TEA (R203, R263, R210, R368, R413, R941), no write under way
(R1140) and no other master at work (R250). -/
structure PlainData (s : State) : Prop where
  settled : Settled s
  alone : Alone s
  real : msrDr s = false
  big : msrLe s = false
  l1 : hidDce s = false
  l2 : l2On s = false
  test : l2Ts s = false
  dabr : field s.sup.dabr 30 2 = 0
  tea : s.tea = []
  devices : s.devices = []

/-- Instructions are fetched straight from memory: instruction translation off, big-endian, the instruction cache and the
L2 off, no block a device's or answered with TEA (R204, R377, R386), no write under way (R1140), no other master at work
(R250), nothing fetched ahead and no write in the queues (R97, R245), and the code runs where it ran (R303). -/
structure PlainFetch (s : State) : Prop where
  settled : Settled s
  alone : Alone s
  real : msrIr s = false
  big : msrLe s = false
  l1 : hidIce s = false
  l2 : l2On s = false
  tea : s.tea = []
  devices : s.devices = []
  ahead : s.fetch.queue = []
  stores : replacedBytes s.storeQueue = []
  place : ∀ r, s.fetch.page = some r → r.here = field r.ea 0 20 ∧ ∀ q, r.next = some q → q = field (r.ea + 4) 0 20

/-- Floating-point instructions may run, and enabled floating-point exceptions are not taken (R950, R63). -/
structure FpRuns (s : State) : Prop where
  fp : msrFp s = true
  quiet : msrFe s = false

/-- A table search reads and writes memory directly: both caches of the data side off, no block a device's or answered with
TEA, no other master at work (R288, R250). -/
structure PlainSearch (s : State) : Prop where
  settled : Settled s
  alone : Alone s
  l1 : hidDce s = false
  l2 : l2On s = false
  test : l2Ts s = false
  tea : s.tea = []
  devices : s.devices = []

/-- Nothing but the next instruction is due: no move of the environment, no asynchronous condition, no trace, no
instruction breakpoint (R981, R962). -/
structure Undisturbed (s : State) : Prop where
  env : movesNow s = []
  async : boundary false (envAdvance s) = none
  trace : s.traceDue = false
  iabr : bitAt s.hid.iabr 30 = false

/-! ## What an instruction writes -/

/-- Every byte of memory outside a range of `n` bytes from an address is unchanged (R200). -/
def MemoryOutside (s t : State) (a : Word) (n : Nat) : Prop :=
  ∀ x : Word, (∀ k, k < n → x ≠ a + BitVec.ofNat 32 k) → peek t x = peek s x

/-- The `n` bytes of memory from an address on. -/
def bytesAt (s : State) (a : Word) : Nat → List Byte
  | 0 => []
  | n + 1 => peek s a :: bytesAt s (a + 1) n

/-- The value of bytes of which the first is the most significant (R210). -/
def valueBig : List Byte → Nat
  | [] => 0
  | b :: bs => b.toNat * 256 ^ bs.length + valueBig bs

/-- The general registers after: those listed hold the values listed, all others are unchanged. -/
def Gprs (s t : State) (l : List (Reg × Word)) : Prop :=
  ∀ r, gprGet t r = (l.lookup r).getD (gprGet s r)

/-- The floating-point registers after. -/
def Fprs (s t : State) (l : List (Reg × DWord)) : Prop :=
  ∀ r, fprGet t r = (l.lookup r).getD (fprGet s r)

/-- The condition register after: one field holds a value, the others are unchanged. -/
def CrFieldIs (s t : State) (n : CrField) (v : BitVec 4) : Prop :=
  ∀ m, crField t m = if m = n then v else crField s m

/-- Every field of the condition register but one is unchanged. -/
def CrOutside (s t : State) (n : CrField) : Prop := ∀ m, m ≠ n → crField t m = crField s m

/-- LT, GT and EQ of a comparison, and a summary overflow bit (R42). -/
def orderField (lt gt so : Bool) : BitVec 4 := ofBit lt ++ ofBit gt ++ ofBit (!lt && !gt) ++ ofBit so

/-- CR0 is recorded from a result if `rc`, else CR is unchanged (R500). -/
def Recorded (s t : State) (rc : Bool) (r : Word) : Prop :=
  if rc then CrFieldIs s t 0 (orderField (decide (r.toInt < 0)) (decide (0 < r.toInt)) (xerSo t)) else t.cr = s.cr

/-- The flags of XER after; its other bits are unchanged (R44, R501). -/
structure XerFlags (s t : State) (so ov ca : Bool) : Prop where
  so : xerSo t = so
  ov : xerOv t = ov
  ca : xerCa t = ca
  rest : field t.xer 3 29 = field s.xer 3 29

/-- An exact integer is a signed 32-bit number. -/
def fitsWord (n : Int) : Bool := decide (-2 ^ 31 ≤ n ∧ n < 2 ^ 31)

/-- The result of an integer instruction: the value in its register, the XER flags, CR0, and nothing else but the pc. -/
structure IntOutcome (s t : State) (rD : Reg) (v : Word) (oe ovf ca rc : Bool) : Prop where
  value : Gprs s t [(rD, v)]
  flags : XerFlags s t (xerSo s || (oe && ovf)) (if oe then ovf else xerOv s) ca
  record : Recorded s t rc v
  frame : t = { s with gpr := t.gpr, xer := t.xer, cr := t.cr, pc := s.pc + 4 }

/-- The result of an integer load: the registers listed, and nothing else but the pc; with bit 31 set CR0 is free
(R682, U3). -/
structure LoadOutcome (s t : State) (l : List (Reg × Word)) (rc : Bool) : Prop where
  value : Gprs s t l
  plain : rc = false → t.cr = s.cr ∧ t.freeCtr = s.freeCtr
  crOutside : CrOutside s t 0
  frame : t = { s with gpr := t.gpr, cr := t.cr, freeCtr := t.freeCtr, pc := s.pc + 4 }

/-- What a store does to the queue of writes that may not be done: three stores stay in it at most, and every push (R94). -/
structure Enqueued (q q' : List Queued) : Prop where
  stores : (storesIn q').length ≤ 3
  pushes : pushesIn q' = pushesIn q

/-- The result of a store of `n` bytes at `ea`: their value, every other byte of memory unchanged, the base register
where it is updated, and nothing else but the store queue (R94) and the pc. -/
structure StoreOutcome (s t : State) (ea : Word) (n v : Nat) (l : List (Reg × Word)) (rc : Bool) : Prop where
  stored : valueBig (bytesAt t ea n) = v
  outside : MemoryOutside s t ea n
  base : Gprs s t l
  plain : rc = false → t.cr = s.cr ∧ t.freeCtr = s.freeCtr
  crOutside : CrOutside s t 0
  queue : Enqueued s.storeQueue t.storeQueue ∨ t.storeQueue = s.storeQueue
  frame : t = { s with
    mem := t.mem, gpr := t.gpr, cr := t.cr, freeCtr := t.freeCtr, storeQueue := t.storeQueue, pc := s.pc + 4 }

/-- `t` is `s` but for the memory side: caches, memory, the machine check latch, the TLBs, the record of the bus, the store
queue, what the environment has supplied, and the count of free values; and, where other masters act in the gaps, the
reservation and L2CR (its SHERR bit); and, while a write waits for a context synchronisation, the choice in force. -/
structure SameCpu (s t : State) : Prop where
  frame : t = { s with
    caches := t.caches, mem := t.mem, latch := t.latch, freeCtr := t.freeCtr, busLog := t.busLog
    storeQueue := t.storeQueue, supply := t.supply, resv := t.resv
    hid := { s.hid with l2cr := t.hid.l2cr }
    mmu := { s.mmu with itlb := t.mmu.itlb, dtlb := t.mmu.dtlb }
    ctx := { s.ctx with inForce := t.ctx.inForce } }
  alone : Alone s → Alone t ∧ t.resv = s.resv ∧ t.hid = s.hid
  settled : s.ctx.stale = [] → t.ctx = s.ctx

/-- The result of a floating-point load: the value in its register, which is then initialised (R745), the base register
where it is updated, and nothing else but the pc. -/
structure FpLoadOutcome (s t : State) (frD : Reg) (v : DWord) (l : List (Reg × Word)) (rc : Bool) : Prop where
  value : Fprs s t [(frD, v)]
  ready : ∀ r, fprReady t r = (r == frD || fprReady s r)
  base : Gprs s t l
  plain : rc = false → t.cr = s.cr ∧ t.freeCtr = s.freeCtr
  crOutside : CrOutside s t 0
  frame : t = { s with
    fpr := t.fpr, fprInit := t.fprInit, gpr := t.gpr, cr := t.cr, freeCtr := t.freeCtr, pc := s.pc + 4 }

/-- What taking an exception does (R930, R927): the vector, the address saved, the SRR1 information bits; `s` is the state
whose DAR and DSISR are already those of the exception. -/
structure Entered (s t : State) (vec a info : Word) : Prop where
  srr0 : t.sup.srr0 = a &&& 0xFFFFFFFC
  srr1 : t.sup.srr1 = (s.msr &&& 0x87C0FFFF) ||| info
  msr : t.msr = (s.msr &&& 0x00011040) ||| boolWord (msrIle s)
  pc : t.pc = (if msrIp s then 0xFFF00000 else 0) + vec
  frame : t = { s with
    sup := { s.sup with srr0 := t.sup.srr0, srr1 := t.sup.srr1 }
    msr := t.msr, pc := t.pc, excTaken := true, traceDue := false, powAsked := false
    storeQueue := pushesIn s.storeQueue
    caches := { s.caches with leaving := [] }, ctx := ⟨[], []⟩, fetch := noFetch }

/-- The end of an instruction that writes the FPSCR (R602, R948): the next state has the property; with FE0 or FE1 set and
an enabled exception (FEX) in that state, the floating-point enabled program exception is taken from it, with SRR0 the
instruction's address. -/
def FpEnds (s : State) (o : Out) (P : State → Prop) : Prop :=
  (msrFe s = false → Goes o P) ∧
  (msrFe s = true → ∃ u, P u ∧ if bitAt u.fpscr 1 then Goes o (fun t => Entered u t 0x700 s.pc 0x00100000) else o = .next u)

/-- The result of a floating-point move: the value in its register, CR1 from FPSCR[0:3] with `rc` (R603), and nothing
else but the pc: the FPSCR is unchanged. -/
structure FpMoveOutcome (s t : State) (frD : Reg) (v : DWord) (rc : Bool) : Prop where
  value : Fprs s t [(frD, v)]
  ready : ∀ r, fprReady t r = (r == frD || fprReady s r)
  record : if rc then CrFieldIs s t 1 (field s.fpscr 0 4) else t.cr = s.cr
  frame : t = { s with fpr := t.fpr, fprInit := t.fprInit, cr := t.cr, pc := s.pc + 4 }

/-- The bytes of a string lie where the string instructions take no alignment exception: a word-aligned string in one
256-Mbyte segment, any other in one page (43_load_store.md section 6). -/
def StringFits (ea : Word) (n : Nat) : Prop :=
  n ≠ 0 →
    let last := ea + BitVec.ofNat 32 (n - 1)
    if ea.toNat % 4 = 0 then ea.toNat / 2 ^ 28 = last.toNat / 2 ^ 28 else ea.toNat / 2 ^ 12 = last.toNat / 2 ^ 12

/-- The bits of a rotation mask (R462): `mb` through `me`, wrapping round when `mb` is above `me`. -/
def inMask (mb me : Reg) (i : Nat) : Bool :=
  if mb.toNat ≤ me.toNat then decide (mb.toNat ≤ i ∧ i ≤ me.toNat) else decide (mb.toNat ≤ i ∨ i ≤ me.toNat)

/-- The value of a floating-point pattern that is no NaN, times 2^1074; an infinity is above every finite value
(R600). -/
def scaledValue (x : DWord) : Int :=
  let e := (field x 1 11).toNat
  let m := (field x 12 52).toNat + (if e = 0 then 0 else 2 ^ 52)
  (if bitAt x 0 then -1 else 1) * ((m * 2 ^ (max e 1 - 1) : Nat) : Int)

/-! ## Floating-point values -/

/-- The pattern is a NaN (R600). -/
def isNan (x : DWord) : Prop := field x 1 11 = 2047 ∧ field x 12 52 ≠ 0

/-- The pattern is a signalling NaN (R600). -/
def isSnan (x : DWord) : Prop := isNan x ∧ bitAt x 12 = false

/-- The pattern is a finite number (R600). -/
def isFinite (x : DWord) : Prop := field x 1 11 ≠ 2047

/-- The pattern is the double of some single (R600, R747). -/
def isSingle (x : DWord) : Prop := ∃ w : Word, x = toDouble w

/-- `r` is the greatest finite pattern (of a set) not above `n / d`, `d` positive; values times 2^1074. -/
def RoundsDown (among : DWord → Prop) (n d : Int) (r : Int) : Prop :=
  d * r ≤ n ∧ ∀ y, isFinite y → among y → d * scaledValue y ≤ n → scaledValue y ≤ r

/-- `r` is the least finite pattern (of a set) not below `n / d`. -/
def RoundsUp (among : DWord → Prop) (n d : Int) (r : Int) : Prop :=
  n ≤ d * r ∧ ∀ y, isFinite y → among y → n ≤ d * scaledValue y → r ≤ scaledValue y

/-- No finite pattern (of a set) is nearer to `n / d` than `x`, and if another one is as near, `x` is the even one
(R604). -/
def RoundsNear (among even : DWord → Prop) (n d : Int) (x : DWord) : Prop :=
  ∀ y, isFinite y → among y →
    (d * scaledValue x - n).natAbs ≤ (d * scaledValue y - n).natAbs ∧
    (scaledValue y ≠ scaledValue x → (d * scaledValue x - n).natAbs = (d * scaledValue y - n).natAbs → even x)

/-- The least significant fraction bit of a double is 0. -/
def evenDouble (x : DWord) : Prop := bitAt x 63 = false

/-- The double of a single whose least significant fraction bit is 0. -/
def evenSingle (x : DWord) : Prop := ∃ w : Word, x = toDouble w ∧ bitAt w 31 = false

/-- `x` is `n / d`, `d` positive, rounded in a mode (R604): to nearest (ties to even), toward zero, up, down. -/
def RoundsTo (among even : DWord → Prop) (rn : BitVec 2) (n d : Int) (x : DWord) : Prop :=
  match rn.toNat with
  | 0 => RoundsNear among even n d x
  | 1 => if 0 ≤ n then RoundsDown among n d (scaledValue x) else RoundsUp among n d (scaledValue x)
  | 2 => RoundsUp among n d (scaledValue x)
  | _ => RoundsDown among n d (scaledValue x)

/-- The sign of a result that is a zero (R609): that of the exact value, or `exact` where that is zero itself. -/
def ZeroSign (n : Int) (exact : Bool) (x : DWord) : Prop :=
  scaledValue x = 0 → bitAt x 0 = if n = 0 then exact else decide (n < 0)

/-- The sign of an exact zero sum of terms of these signs (R609). -/
def zeroSum (rn : BitVec 2) (x y : Bool) : Bool := if x = y then x else rn = 3

/-- A format of results (R600, R604), values times 2^1074: its patterns, and those with an even last bit; the same of its
precision alone, which a result adjusted for an enabled exception keeps; the least normalised number; the power of two above
every number, and the distance of the greatest number from it; the exponent adjustment. -/
structure FpFormat where
  among : DWord → Prop
  even : DWord → Prop
  precise : DWord → Prop
  preciseEven : DWord → Prop
  least : Nat
  bound : Nat
  step : Nat
  adjust : Nat

/-- Doubles. -/
def doubleFormat : FpFormat := ⟨fun _ => True, evenDouble, fun _ => True, evenDouble, 2 ^ 52, 2 ^ 2098, 2 ^ 2045, 1536⟩

/-- Singles; of their precision are the doubles whose last 29 bits are 0. -/
def singleFormat : FpFormat :=
  ⟨isSingle, evenSingle, fun x => field x 35 29 = 0, fun x => bitAt x 34 = false, 2 ^ 948, 2 ^ 1202, 2 ^ 1178, 192⟩

/-- An inexact `n / d` becomes greater in magnitude in a directed mode. -/
def awayFromZero (rn : BitVec 2) (n : Int) : Bool := (rn = 2 && decide (0 < n)) || (rn = 3 && decide (n < 0))

/-- `n / d` is tiny: below the least normalised number, before rounding (R604). -/
def FpFormat.tiny (f : FpFormat) (n d : Int) : Bool := decide (n ≠ 0 ∧ (n.natAbs : Int) < d * f.least)

/-- `n / d` rounded to the format's precision, whatever the exponent, lies above every number of the format (R604). -/
def FpFormat.over (f : FpFormat) (rn : BitVec 2) (n d : Int) : Bool :=
  if rn = 0 then decide (2 * d * f.bound ≤ 2 * (n.natAbs : Int) + d * f.step)
  else if awayFromZero rn n then decide (d * (f.bound - f.step : Nat) < (n.natAbs : Int))
  else decide (d * f.bound ≤ (n.natAbs : Int))

/-- An underflow with UE = 1: the exact result is adjusted (R604). -/
def FpFormat.underflows (f : FpFormat) (p : Word) (n d : Int) : Bool := bitAt p 26 && f.tiny n d

/-- An overflow with OE = 1: the rounded result is adjusted (R604). -/
def FpFormat.overflows (f : FpFormat) (p : Word) (n d : Int) : Bool := bitAt p 25 && f.over (field p 30 2) n d

/-- An overflow with OE = 0. -/
def FpFormat.lost (f : FpFormat) (p : Word) (n d : Int) : Bool := !bitAt p 25 && f.over (field p 30 2) n d

/-- The numerator of the value that is rounded: of a tiny one, adjusted upward. -/
def FpFormat.num (f : FpFormat) (p : Word) (n d : Int) : Int :=
  if f.underflows p n d then n * ((2 ^ f.adjust : Nat) : Int) else n

/-- Its denominator: of one that overflows, adjusted downward. -/
def FpFormat.den (f : FpFormat) (p : Word) (n d : Int) : Int :=
  if f.overflows p n d then d * ((2 ^ f.adjust : Nat) : Int) else d

/-- `x` is a finite pattern of a set, and `n / d` rounded in that set (R604). -/
def IsRounded (among even : DWord → Prop) (rn : BitVec 2) (n d : Int) (x : DWord) : Prop :=
  isFinite x ∧ among x ∧ RoundsTo among even rn n d x

/-- The class of a number as FPRF tells it; denormalised is below the format's least normalised number (R608). -/
def classOf (least : Nat) (x : DWord) : BitVec 5 :=
  if field x 1 11 = 2047 then (if bitAt x 0 then 0b01001 else 0b00101)
  else if scaledValue x = 0 then (if bitAt x 0 then 0b10010 else 0b00010)
  else if (scaledValue x).natAbs < least then (if bitAt x 0 then 0b11000 else 0b10100)
  else if bitAt x 0 then 0b01000 else 0b00100

/-- An FPSCR bit has been set, and was 0 before. -/
def newlySet (s t : State) (k : Nat) : Bool := bitAt t.fpscr k && !bitAt s.fpscr k

/-- What an arithmetic instruction makes of the exact result `n / d` (R602, R604, R606, R608): `x` is the result, `r` the same
with the sign it is written with. -/
structure FpRounded (f : FpFormat) (s t : State) (n d : Int) (zero : Bool) (x r : DWord) : Prop where
  /-- An enabled overflow or underflow: the adjusted value, rounded to the precision. -/
  adjusted : f.underflows s.fpscr n d = true ∨ f.overflows s.fpscr n d = true →
    IsRounded f.precise f.preciseEven (field s.fpscr 30 2) (f.num s.fpscr n d) (f.den s.fpscr n d) x
  /-- A disabled overflow: an infinity, or the greatest number. -/
  lost : f.lost s.fpscr n d = true →
    bitAt x 0 = decide (n < 0) ∧
    if field s.fpscr 30 2 = (0 : BitVec 2) ∨ awayFromZero (field s.fpscr 30 2) n = true then field x 1 63 = 0x7FF0000000000000
    else isFinite x ∧ (scaledValue x).natAbs = f.bound - f.step
  /-- Else: the value rounded in the format, and with NI = 1 a zero in place of a denormalised one. -/
  rounded : f.over (field s.fpscr 30 2) n d = false → f.underflows s.fpscr n d = false → isFinite x ∧
    ∃ y, IsRounded f.among f.even (field s.fpscr 30 2) n d y ∧
      scaledValue x = if bitAt s.fpscr 29 && f.tiny n d && decide ((scaledValue y).natAbs < f.least) then 0 else scaledValue y
  zeroSign : ZeroSign n zero x
  fi : if f.lost s.fpscr n d then bitAt t.fpscr 14 = true
    else (bitAt t.fpscr 14 = false ↔ f.den s.fpscr n d * scaledValue x = f.num s.fpscr n d)
  /-- FR: the magnitude was increased; any value for a disabled overflow (U7). -/
  fr : f.lost s.fpscr n d = false →
    (bitAt t.fpscr 13 = true ↔ ((f.num s.fpscr n d).natAbs : Int) < f.den s.fpscr n d * (scaledValue x).natAbs)
  fprf : field t.fpscr 15 5 = classOf f.least r
  ox : bitAt t.fpscr 3 = (bitAt s.fpscr 3 || f.over (field s.fpscr 30 2) n d)
  ux : bitAt t.fpscr 4 = (bitAt s.fpscr 4 || (f.tiny n d && (bitAt s.fpscr 26 || bitAt t.fpscr 14)))
  xx : bitAt t.fpscr 6 = (bitAt s.fpscr 6 || bitAt t.fpscr 14)
  others : ∀ k ∈ [5, 7, 8, 9, 10, 11, 12, 21, 22, 23], bitAt t.fpscr k = bitAt s.fpscr k
  fx : bitAt t.fpscr 0 = (bitAt s.fpscr 0 || newlySet s t 3 || newlySet s t 4 || newlySet s t 6)

/-- The double-precision instructions, and the conversions and `frsqrte`, that write a register and the FPSCR. -/
def fpDoubleInstrs (frD frA frB frC : Reg) (rc : Bool) : List Instr :=
  [.fadd frD frA frB rc, .fsub frD frA frB rc, .fmul frD frA frC rc, .fdiv frD frA frB rc, .fmadd frD frA frC frB rc,
   .fmsub frD frA frC frB rc, .fnmadd frD frA frC frB rc, .fnmsub frD frA frC frB rc, .frsp frD frB rc,
   .fctiw frD frB rc, .fctiwz frD frB rc, .frsqrte frD frB rc]

/-- The single-precision instructions, and `fres`. -/
def fpSingleInstrs (frD frA frB frC : Reg) (rc : Bool) : List Instr :=
  [.fadds frD frA frB rc, .fsubs frD frA frB rc, .fmuls frD frA frC rc, .fdivs frD frA frB rc, .fmadds frD frA frC frB rc,
   .fmsubs frD frA frC frB rc, .fnmadds frD frA frC frB rc, .fnmsubs frD frA frC frB rc, .fres frD frB rc]

/-- The result of a floating-point instruction that writes a register and the FPSCR: no other register, no control bit
of the FPSCR, no CR field but CR1 (with `rc`), and nothing else but the pc (R602, R603). -/
structure FpResultFrame (s t : State) (frD : Reg) (rc : Bool) : Prop where
  others : ∀ r, r ≠ frD → fprGet t r = fprGet s r
  ready : ∀ r, r ≠ frD → fprReady t r = fprReady s r
  written : fprReady t frD = true ∨ (t.fpr = s.fpr ∧ t.fprInit = s.fprInit)
  control : field t.fpscr 24 8 = field s.fpscr 24 8
  summary : FpscrLegal t
  cr : rc = false → t.cr = s.cr
  crOutside : CrOutside s t 1
  frame : t = { s with fpr := t.fpr, fprInit := t.fprInit, fpscr := t.fpscr, cr := t.cr, freeCtr := t.freeCtr, pc := s.pc + 4 }

/-- The DSISR an alignment exception leaves, from the word of the instruction (R944). -/
def alignmentDsisr (w : Word) : Word :=
  if field w 0 6 = 31 then
    (0 : BitVec 15) ++ field w 29 2 ++ field w 25 1 ++ field w 21 4 ++ field w 6 10
  else (0 : BitVec 17) ++ field w 5 1 ++ field w 1 4 ++ field w 6 10

/-- The state with DAR and DSISR loaded. -/
def withDar (s : State) (dar dsisr : Word) : State := { s with sup := { s.sup with dar := dar, dsisr := dsisr } }

/-! ## Old or new (R1140) -/

/-- The window once a control whose value was `old` has been overwritten: the old value is in force until a use chooses. -/
def opened (c : Control) (old : Word) (x : Context) : Context := ⟨(c, old) :: x.stale, (c, old) :: x.inForce⟩

/-! ## Translation (21_mmu.md) -/

/-- A BAT pair matches an effective address (R268). -/
def batMatch (user : Bool) (b : BatPair) (ea : Word) : Bool :=
  decide (field b.upper 0 4 = (field ea 0 4 : BitVec 4)) &&
  ((List.range 11).all fun i => bitAt b.upper (19 + i) || bitAt b.upper (4 + i) == bitAt ea (4 + i)) &&
  bitAt b.upper (if user then 31 else 30)

/-- Page protection forbids the access (R283). -/
def pageDenies (k : Access) (key : Bool) (pp : BitVec 2) : Bool :=
  if k = .store then pp == 3 || (key && pp != 2) else key && pp == 0

/-- The TLBs of a side (R290). -/
def tlbOf (s : State) (k : Access) : Vector TlbSet 64 := if k = .fetch then s.mmu.itlb else s.mmu.dtlb

/-- A way of the set EA[14:19] holds the page of an address (R290). -/
def TlbHolds (s : State) (k : Access) (vsid : BitVec 24) (ea : Word) (w : Fin 2) (e : TlbEntry) : Prop :=
  (tlbOf s k)[(field ea 14 6 : BitVec 6).toFin].ways[w] = some e ∧ e.vsid = vsid ∧ e.page = field ea 4 10

/-- One TLB entry has been used or loaded: it is in its way, the other way is the least recently used one, every other set
and the other side's TLB are unchanged (R291). -/
structure TlbUsed (s t : State) (k : Access) (ea : Word) (w : Fin 2) (e : TlbEntry) : Prop where
  side : ∀ j : Fin 64, (tlbOf t k)[j] =
    if j = (field ea 14 6 : BitVec 6).toFin then ⟨(tlbOf s k)[j].ways.set w (some e), if w = 0 then 1 else 0⟩
    else (tlbOf s k)[j]
  other : if k = .fetch then t.mmu.dtlb = s.mmu.dtlb else t.mmu.itlb = s.mmu.itlb

/-- The address of the PTE group of a hash value (R285, R286). -/
def pteGroup (sdr1 : Word) (hash : Nat) : Nat :=
  (sdr1.toNat / 2 ^ 16 ||| (hash / 2 ^ 10 &&& sdr1.toNat % 2 ^ 9)) * 2 ^ 16 + hash % 2 ^ 10 * 2 ^ 6

/-- The sixteen PTEs a table search looks at, in order, with the hash bit each must have (R286, R287). -/
def pteCandidates (sdr1 : Word) (vsid : BitVec 24) (ea : Word) : List (Word × Nat) :=
  let hash := (vsid.toNat % 2 ^ 19) ^^^ (ea.toNat / 2 ^ 12 % 2 ^ 16)
  (List.range 8).map (fun i => (BitVec.ofNat 32 (pteGroup sdr1 hash + 8 * i), 0)) ++
  (List.range 8).map (fun i => (BitVec.ofNat 32 (pteGroup sdr1 (2 ^ 19 - 1 - hash) + 8 * i), 1))

/-- The address of the first matching PTE (R287). -/
def pteFound (s : State) (vsid : BitVec 24) (ea : Word) : Option Word :=
  ((pteCandidates s.mmu.sdr1 vsid ea).find? fun c =>
    valueBig (bytesAt s c.1 4) == 2 ^ 31 + vsid.toNat * 2 ^ 7 + c.2 * 2 ^ 6 + ea.toNat / 2 ^ 22 % 2 ^ 6).map (·.1)

/-- The TLB entry of a PTE whose second word is `w1` (R286, R290). -/
def pteEntry (vsid : BitVec 24) (ea w1 : Word) : TlbEntry :=
  { vsid := vsid, page := field ea 4 10, rpn := field w1 0 20, changed := bitAt w1 24, wimg := field w1 25 4,
    pp := field w1 30 2 }

/-- The R bit of a PTE, and the C bit if asked, have been set in memory; no other byte has changed (R294). -/
def PteMarked (s t : State) (pte : Word) (changed : Bool) : Prop :=
  ∀ x : Word, peek t x =
    if x = pte + 6 then peek s x ||| 0x01 else if x = pte + 7 ∧ changed = true then peek s x ||| 0x80 else peek s x

/-- What a translation answers for a page whose entry is `e`: the protection check, the guarded check for a fetch, else the
address and the attributes (R262, R283, R290). -/
def PageAnswer (k : Access) (ea : Word) (key : Bool) (e : TlbEntry) (x : Xlat) (t : State) : Prop :=
  x =
    if pageDenies k key e.pp then .viol .protection t
    else if k = .fetch ∧ bitAt e.wimg 3 = true then .viol .guarded t
    else .ok (e.rpn ++ field ea 20 12) e.wimg t

end Sys2Proof.Machine
end

