-- ==== Sys2Proof/WellFormed.lean ====
section
/-! DEFINITION. Which instructions are in a form the spec gives a meaning to. The others are the invalid forms of R454,
R524 to R527 (cmp with L = 1), R681 (update forms), R730 (`lmw`), R732 and R733 (strings) and R798 (`bcctr`): the spec
refuses them (U1, U11). The forms of `lswx` that are invalid only for some values of XER[25:31] are checked when it
executes. -/

namespace Sys2Proof

/-- An integer load with update has a base register that is not r0 and not the destination (R681). -/
def loadUpdateForm (rD rA : Reg) : Bool := rA != 0 && rA != rD

/-- The base of `lmw` is not among the registers it loads; with rA = 0 the destination must not be r0 (R730). -/
def lmwForm (rD rA : Reg) : Bool := if rA = 0 then rD != 0 else rA.toNat < rD.toNat

/-- The base of `lswi` is not among the registers it loads, counted round from r31 to r0 (R732). -/
def lswiForm (rD rA nb : Reg) : Bool :=
  let n := if nb = 0 then 32 else nb.toNat
  rA == 0 || decide ((n + 3) / 4 ≤ (rA - rD).toNat)

/-- The instruction is in a valid form. -/
def wellFormed (i : Instr) : Bool :=
  match i with
  | .cmpi _ l _ _ => !l
  | .cmp _ l _ _ => !l
  | .cmpli _ l _ _ => !l
  | .cmpl _ l _ _ => !l
  | .lbzu rD _ rA => loadUpdateForm rD rA
  | .lhzu rD _ rA => loadUpdateForm rD rA
  | .lhau rD _ rA => loadUpdateForm rD rA
  | .lwzu rD _ rA => loadUpdateForm rD rA
  | .lbzux rD rA _ _ => loadUpdateForm rD rA
  | .lhzux rD rA _ _ => loadUpdateForm rD rA
  | .lhaux rD rA _ _ => loadUpdateForm rD rA
  | .lwzux rD rA _ _ => loadUpdateForm rD rA
  | .stbu _ _ rA => rA != 0
  | .sthu _ _ rA => rA != 0
  | .stwu _ _ rA => rA != 0
  | .lfsu _ _ rA => rA != 0
  | .lfdu _ _ rA => rA != 0
  | .stfsu _ _ rA => rA != 0
  | .stfdu _ _ rA => rA != 0
  | .stbux _ rA _ _ => rA != 0
  | .sthux _ rA _ _ => rA != 0
  | .stwux _ rA _ _ => rA != 0
  | .lfsux _ rA _ _ => rA != 0
  | .lfdux _ rA _ _ => rA != 0
  | .stfsux _ rA _ _ => rA != 0
  | .stfdux _ rA _ _ => rA != 0
  | .lmw rD _ rA => lmwForm rD rA
  | .lswi rD rA nb _ => lswiForm rD rA nb
  | .lswx rD rA rB _ => rD != rA && rD != rB
  | .bcctr bo _ _ => bitAt bo 2
  | _ => true

end Sys2Proof
end

