-- ==== Sys2Proof/Certificates/Slice0/Obligations.lean ====
section
/-! DEFINITION. The statements for the provers. `Goes o P`: the outcome is a next state with the property `P`. -/

open Sys2Proof Sys2Proof.Machine

/-! ## Integer instructions -/

/-- R502 to R505, R517: `addi`, `addis`, `add`, `subf`, `neg` give the exact sum modulo 2^32; OV (with OE) says that it is no signed
32-bit number; CA is untouched. -/
def Obligations.AddSubtractResults : Prop :=
  ∀ (s : State) (rD rA rB : Reg) (simm : BitVec 16) (oe rc : Bool),
    let sum (i : Instr) (n : Int) (oe rc : Bool) : Prop := Goes (exec i s) fun t =>
      IntOutcome s t rD (BitVec.ofInt 32 n) oe (!fitsWord n) (xerCa s) rc
    sum (.addi rD rA simm) ((base s rA).toInt + simm.toInt) false false ∧
    sum (.addis rD rA simm) ((base s rA).toInt + simm.toInt * 65536) false false ∧
    sum (.add rD rA rB oe rc) ((gprGet s rA).toInt + (gprGet s rB).toInt) oe rc ∧
    sum (.subf rD rA rB oe rc) ((gprGet s rB).toInt - (gprGet s rA).toInt) oe rc ∧
    sum (.neg rD rA oe rc) (-(gprGet s rA).toInt) oe rc

/-- R506 to R516: the additions and subtractions that write CA: the exact signed sum `n` gives rD and OV, the exact unsigned
sum `u` of the same addends gives CA. A subtraction adds the complement. -/
def Obligations.CarryingResults : Prop :=
  ∀ (s : State) (rD rA rB : Reg) (simm : BitVec 16) (oe rc : Bool),
    let sum (i : Instr) (n : Int) (u : Nat) (oe rc : Bool) : Prop := Goes (exec i s) fun t =>
      IntOutcome s t rD (BitVec.ofInt 32 n) oe (!fitsWord n) (decide (2 ^ 32 ≤ u)) rc
    let a := gprGet s rA
    let b := gprGet s rB
    let c : Nat := if xerCa s then 1 else 0
    let imm := simm.signExtend 32
    sum (.addic rD rA simm) (a.toInt + simm.toInt) (a.toNat + imm.toNat) false false ∧
    sum (.addicRc rD rA simm) (a.toInt + simm.toInt) (a.toNat + imm.toNat) false true ∧
    sum (.subfic rD rA simm) (simm.toInt - a.toInt) ((2 ^ 32 - 1 - a.toNat) + imm.toNat + 1) false false ∧
    sum (.addc rD rA rB oe rc) (a.toInt + b.toInt) (a.toNat + b.toNat) oe rc ∧
    sum (.subfc rD rA rB oe rc) (b.toInt - a.toInt) ((2 ^ 32 - 1 - a.toNat) + b.toNat + 1) oe rc ∧
    sum (.adde rD rA rB oe rc) (a.toInt + b.toInt + c) (a.toNat + b.toNat + c) oe rc ∧
    sum (.subfe rD rA rB oe rc) (b.toInt - a.toInt - 1 + c) ((2 ^ 32 - 1 - a.toNat) + b.toNat + c) oe rc ∧
    sum (.addme rD rA oe rc) (a.toInt - 1 + c) (a.toNat + (2 ^ 32 - 1) + c) oe rc ∧
    sum (.subfme rD rA oe rc) (-a.toInt - 2 + c) ((2 ^ 32 - 1 - a.toNat) + (2 ^ 32 - 1) + c) oe rc ∧
    sum (.addze rD rA oe rc) (a.toInt + c) (a.toNat + c) oe rc ∧
    sum (.subfze rD rA oe rc) (-a.toInt - 1 + c) ((2 ^ 32 - 1 - a.toNat) + c) oe rc

/-- R518 to R521: the low and the high halves of the exact products; OV of `mullw` says that the product is no signed
32-bit number. -/
def Obligations.MultiplyResults : Prop :=
  ∀ (s : State) (rD rA rB : Reg) (simm : BitVec 16) (oe rc : Bool),
    let is (i : Instr) (v : Word) (oe ovf rc : Bool) : Prop := Goes (exec i s) fun t =>
      IntOutcome s t rD v oe ovf (xerCa s) rc
    let p := (gprGet s rA).toInt * (gprGet s rB).toInt
    is (.mulli rD rA simm) (BitVec.ofInt 32 ((gprGet s rA).toInt * simm.toInt)) false false false ∧
    is (.mullw rD rA rB oe rc) (BitVec.ofInt 32 p) oe (!fitsWord p) rc ∧
    is (.mulhw rD rA rB rc) (BitVec.ofInt 32 (p / 2 ^ 32)) false false rc ∧
    is (.mulhwu rD rA rB rc) (BitVec.ofNat 32 ((gprGet s rA).toNat * (gprGet s rB).toNat / 2 ^ 32)) false false rc

/-- R522, R523, U4: where a quotient is defined, the exact quotient rounded towards 0, OV (with OE) clear; where none is, the
instruction still completes: rD and CR0[LT, GT, EQ] are any value (nothing is said of them), OV and SO are set with OE,
and nothing else changes. -/
def Obligations.DivideResults : Prop :=
  (∀ (s : State) (rD rA rB : Reg) (oe rc : Bool),
      let is (i : Instr) (v : Word) : Prop := Goes (exec i s) fun t => IntOutcome s t rD v oe false (xerCa s) rc
      let a := gprGet s rA
      let b := gprGet s rB
      (b ≠ 0 → ¬ (a.toInt = -2 ^ 31 ∧ b.toInt = -1) →
        is (.divw rD rA rB oe rc) (BitVec.ofInt 32 (Int.tdiv a.toInt b.toInt))) ∧
      (b ≠ 0 → is (.divwu rD rA rB oe rc) (BitVec.ofNat 32 (a.toNat / b.toNat)))) ∧
  (∀ (s : State) (rD rA rB : Reg) (oe rc : Bool),
      let is (i : Instr) : Prop := Goes (exec i s) fun t =>
        XerFlags s t (xerSo s || oe) (if oe then true else xerOv s) (xerCa s) ∧
        (∀ r, r ≠ rD → gprGet t r = gprGet s r) ∧ CrOutside s t 0 ∧ (rc = false → t.cr = s.cr) ∧
        (rc = true → bitAt (crField t 0) 3 = xerSo t) ∧
        t = { s with gpr := t.gpr, xer := t.xer, cr := t.cr, freeCtr := t.freeCtr, pc := s.pc + 4 }
      (gprGet s rB = 0 → is (.divw rD rA rB oe rc) ∧ is (.divwu rD rA rB oe rc)) ∧
      ((gprGet s rA).toInt = -2 ^ 31 → (gprGet s rB).toInt = -1 → is (.divw rD rA rB oe rc)))

/-- R524 to R527: the comparisons write one CR field: the order of the two operands and XER[SO]. With L = 1 they are
refused (U1). -/
def Obligations.CompareResults : Prop :=
  ∀ (s : State) (crfD : CrField) (rA rB : Reg) (imm : BitVec 16),
    let is (i : Instr) (x y : Int) : Prop := Goes (exec i s) fun t =>
      CrFieldIs s t crfD (orderField (decide (x < y)) (decide (y < x)) (xerSo s)) ∧
      t = { s with cr := t.cr, pc := s.pc + 4 }
    is (.cmpi crfD false rA imm) (gprGet s rA).toInt imm.toInt ∧
    is (.cmp crfD false rA rB) (gprGet s rA).toInt (gprGet s rB).toInt ∧
    is (.cmpli crfD false rA imm) (gprGet s rA).toNat imm.toNat ∧
    is (.cmpl crfD false rA rB) (gprGet s rA).toNat (gprGet s rB).toNat ∧
    Refuses (exec (.cmpi crfD true rA imm) s) ∧ Refuses (exec (.cmp crfD true rA rB) s) ∧
    Refuses (exec (.cmpli crfD true rA imm) s) ∧ Refuses (exec (.cmpl crfD true rA rB) s)

/-- R550 to R566: the logical instructions, bit by bit (the immediate ones of the `.` spelling record, the others do not), sign
extension of the low byte or halfword, and the number of leading zeros. -/
def Obligations.LogicalResults : Prop :=
  (∀ (s : State) (rA rS rB : Reg) (uimm : BitVec 16) (rc : Bool),
      let is (i : Instr) (rc : Bool) (y : Word) (f : Bool → Bool → Bool) : Prop := Goes (exec i s) fun t =>
        (∀ k, k < 32 → bitAt (gprGet t rA) k = f (bitAt (gprGet s rS) k) (bitAt y k)) ∧
        IntOutcome s t rA (gprGet t rA) false false (xerCa s) rc
      let low := BitVec.ofNat 32 uimm.toNat
      let high := BitVec.ofNat 32 (uimm.toNat * 65536)
      let b := gprGet s rB
      is (.andiRc rA rS uimm) true low (fun x y => x && y) ∧ is (.andisRc rA rS uimm) true high (fun x y => x && y) ∧
      is (.ori rA rS uimm) false low (fun x y => x || y) ∧ is (.oris rA rS uimm) false high (fun x y => x || y) ∧
      is (.xori rA rS uimm) false low (fun x y => x != y) ∧ is (.xoris rA rS uimm) false high (fun x y => x != y) ∧
      is (.and rA rS rB rc) rc b (fun x y => x && y) ∧ is (.or rA rS rB rc) rc b (fun x y => x || y) ∧
      is (.xor rA rS rB rc) rc b (fun x y => x != y) ∧ is (.nand rA rS rB rc) rc b (fun x y => !(x && y)) ∧
      is (.nor rA rS rB rc) rc b (fun x y => !(x || y)) ∧ is (.eqv rA rS rB rc) rc b (fun x y => x == y) ∧
      is (.andc rA rS rB rc) rc b (fun x y => x && !y) ∧ is (.orc rA rS rB rc) rc b (fun x y => x || !y)) ∧
  (∀ (s : State) (rA rS : Reg) (rc : Bool),
      let is (i : Instr) (v : Word) : Prop := Goes (exec i s) fun t => IntOutcome s t rA v false false (xerCa s) rc
      is (.extsb rA rS rc) (BitVec.ofInt 32 (((gprGet s rS).toNat : Int).bmod (2 ^ 8))) ∧
      is (.extsh rA rS rc) (BitVec.ofInt 32 (((gprGet s rS).toNat : Int).bmod (2 ^ 16))) ∧
      ∃ n, n ≤ 32 ∧ is (.cntlzw rA rS rc) (BitVec.ofNat 32 n) ∧ (∀ k, k < n → bitAt (gprGet s rS) k = false) ∧
        (n < 32 → bitAt (gprGet s rS) n = true))

/-- R570 to R572, R462, R463: the rotates, bit by bit: a bit under the mask is the rotated one; another is 0, or the old
bit of rA for `rlwimi`. -/
def Obligations.RotateResults : Prop :=
  ∀ (s : State) (rA rS rB sh mb me : Reg) (rc : Bool),
    let is (i : Instr) (n : Nat) (old : Word) : Prop := Goes (exec i s) fun t =>
      (∀ k, k < 32 → bitAt (gprGet t rA) k =
        if inMask mb me k then bitAt (gprGet s rS) ((k + n) % 32) else bitAt old k) ∧
      IntOutcome s t rA (gprGet t rA) false false (xerCa s) rc
    is (.rlwinm rA rS sh mb me rc) sh.toNat 0 ∧
    is (.rlwnm rA rS rB mb me rc) ((gprGet s rB).toNat % 32) 0 ∧
    is (.rlwimi rA rS sh mb me rc) sh.toNat (gprGet s rA)

/-- R575 to R578: the shifts by n, from six bits of rB (or the five-bit SH): times 2^n modulo 2^32, or the floor of the
division by 2^n; CA of the algebraic ones says that the value is negative and the division not exact. -/
def Obligations.ShiftResults : Prop :=
  ∀ (s : State) (rA rS rB sh : Reg) (rc : Bool),
    let is (i : Instr) (v : Word) (ca : Bool) : Prop := Goes (exec i s) fun t => IntOutcome s t rA v false false ca rc
    let x := gprGet s rS
    let n := (gprGet s rB).toNat % 64
    is (.slw rA rS rB rc) (BitVec.ofNat 32 (x.toNat * 2 ^ n)) (xerCa s) ∧
    is (.srw rA rS rB rc) (BitVec.ofNat 32 (x.toNat / 2 ^ n)) (xerCa s) ∧
    is (.sraw rA rS rB rc) (BitVec.ofInt 32 (x.toInt / 2 ^ n)) (decide (x.toInt < 0 ∧ x.toInt % 2 ^ n ≠ 0)) ∧
    is (.srawi rA rS sh rc) (BitVec.ofInt 32 (x.toInt / 2 ^ sh.toNat))
      (decide (x.toInt < 0 ∧ x.toInt % 2 ^ sh.toNat ≠ 0))

/-! ## Loads and stores -/

/-- R201: the effective addresses of the four addressing forms are exact sums modulo 2^32; rA = 0 stands for 0 only where the
base is not updated. -/
def Obligations.EffectiveAddresses : Prop :=
  ∀ (s : State) (rA rB : Reg) (d : BitVec 16),
    eaD s rA d = BitVec.ofInt 32 ((if rA = 0 then 0 else (gprGet s rA).toInt) + d.toInt) ∧
    eaX s rA rB = BitVec.ofNat 32 ((if rA = 0 then 0 else (gprGet s rA).toNat) + (gprGet s rB).toNat) ∧
    eaDU s rA d = BitVec.ofInt 32 ((gprGet s rA).toInt + d.toInt) ∧
    eaXU s rA rB = BitVec.ofNat 32 ((gprGet s rA).toNat + (gprGet s rB).toNat)

/-- R690 to R705, R725, R726: the integer loads without update, of data that go straight to memory: rD receives the bytes at
the effective address, most significant first, with zeros or copies of the sign in front, or in reversed order. -/
def Obligations.IntegerLoadResults : Prop :=
  ∀ (s : State) (rD rA rB : Reg) (d : BitVec 16) (rc : Bool), PlainData s →
    let is (i : Instr) (v : Word) (rc : Bool) : Prop := Goes (exec i s) fun t => LoadOutcome s t [(rD, v)] rc
    let zero (ea : Word) (n : Nat) : Word := BitVec.ofNat 32 (valueBig (bytesAt s ea n))
    let signed (ea : Word) : Word := BitVec.ofInt 32 (Int.bmod (valueBig (bytesAt s ea 2)) (2 ^ 16))
    let back (ea : Word) (n : Nat) : Word := BitVec.ofNat 32 (valueBig (bytesAt s ea n).reverse)
    is (.lbz rD d rA) (zero (eaD s rA d) 1) false ∧ is (.lbzx rD rA rB rc) (zero (eaX s rA rB) 1) rc ∧
    is (.lhz rD d rA) (zero (eaD s rA d) 2) false ∧ is (.lhzx rD rA rB rc) (zero (eaX s rA rB) 2) rc ∧
    is (.lha rD d rA) (signed (eaD s rA d)) false ∧ is (.lhax rD rA rB rc) (signed (eaX s rA rB)) rc ∧
    is (.lwz rD d rA) (zero (eaD s rA d) 4) false ∧ is (.lwzx rD rA rB rc) (zero (eaX s rA rB) 4) rc ∧
    is (.lhbrx rD rA rB rc) (back (eaX s rA rB) 2) rc ∧ is (.lwbrx rD rA rB rc) (back (eaX s rA rB) 4) rc

/-- R681, R690 to R705: the integer loads with update: rD receives the value, rA the effective address; with rA = 0 or
rA = rD they are refused (U11). -/
def Obligations.IntegerLoadUpdateResults : Prop :=
  ∀ (s : State) (rD rA rB : Reg) (d : BitVec 16) (rc : Bool), PlainData s →
    let is (i : Instr) (ea v : Word) (rc : Bool) : Prop :=
      if rA = 0 ∨ rA = rD then Refuses (exec i s)
      else Goes (exec i s) fun t => LoadOutcome s t [(rD, v), (rA, ea)] rc
    let zero (ea : Word) (n : Nat) : Word := BitVec.ofNat 32 (valueBig (bytesAt s ea n))
    let signed (ea : Word) : Word := BitVec.ofInt 32 (Int.bmod (valueBig (bytesAt s ea 2)) (2 ^ 16))
    let da := eaDU s rA d
    let xa := eaXU s rA rB
    is (.lbzu rD d rA) da (zero da 1) false ∧ is (.lbzux rD rA rB rc) xa (zero xa 1) rc ∧
    is (.lhzu rD d rA) da (zero da 2) false ∧ is (.lhzux rD rA rB rc) xa (zero xa 2) rc ∧
    is (.lhau rD d rA) da (signed da) false ∧ is (.lhaux rD rA rB rc) xa (signed xa) rc ∧
    is (.lwzu rD d rA) da (zero da 4) false ∧ is (.lwzux rD rA rB rc) xa (zero xa 4) rc

/-- R710 to R719, R727, R728: the integer stores without update: the low byte, halfword or word of rS, or its bytes in
reversed order, is at the effective address, and no other byte of memory changes. -/
def Obligations.IntegerStoreResults : Prop :=
  ∀ (s : State) (rS rA rB : Reg) (d : BitVec 16) (rc : Bool), PlainData s → MemoryCanonical s →
    let is (i : Instr) (ea : Word) (n v : Nat) (rc : Bool) : Prop := Goes (exec i s) fun t => StoreOutcome s t ea n v [] rc
    let x := (gprGet s rS).toNat
    let da := eaD s rA d
    let xa := eaX s rA rB
    is (.stb rS d rA) da 1 (x % 256) false ∧ is (.stbx rS rA rB rc) xa 1 (x % 256) rc ∧
    is (.sth rS d rA) da 2 (x % 65536) false ∧ is (.sthx rS rA rB rc) xa 2 (x % 65536) rc ∧
    is (.stw rS d rA) da 4 x false ∧ is (.stwx rS rA rB rc) xa 4 x rc ∧
    is (.sthbrx rS rA rB rc) xa 2 (x % 256 * 256 + x / 256 % 256) rc ∧
    is (.stwbrx rS rA rB rc) xa 4
      (x % 256 * 2 ^ 24 + x / 2 ^ 8 % 256 * 2 ^ 16 + x / 2 ^ 16 % 256 * 2 ^ 8 + x / 2 ^ 24) rc

/-- R681, R712 to R721: the integer stores with update: the old value of rS is stored and rA receives the effective
address; with rA = 0 they are refused (U11). -/
def Obligations.IntegerStoreUpdateResults : Prop :=
  ∀ (s : State) (rS rA rB : Reg) (d : BitVec 16) (rc : Bool), PlainData s → MemoryCanonical s →
    let is (i : Instr) (ea : Word) (n v : Nat) (rc : Bool) : Prop :=
      if rA = 0 then Refuses (exec i s) else Goes (exec i s) fun t => StoreOutcome s t ea n v [(rA, ea)] rc
    let x := (gprGet s rS).toNat
    let da := eaDU s rA d
    let xa := eaXU s rA rB
    is (.stbu rS d rA) da 1 (x % 256) false ∧ is (.stbux rS rA rB rc) xa 1 (x % 256) rc ∧
    is (.sthu rS d rA) da 2 (x % 65536) false ∧ is (.sthux rS rA rB rc) xa 2 (x % 65536) rc ∧
    is (.stwu rS d rA) da 4 x false ∧ is (.stwux rS rA rB rc) xa 4 x rc

/-- R730, R731: `lmw` from a word-aligned address loads r(D) to r31 from successive words and changes nothing else; a base among
the registers loaded (with rA = 0: rD = 0) is refused (U11). `stmw` to a word-aligned address stores r(S) to r31 in
successive words and changes nothing else but the store queue. -/
def Obligations.MultipleResults : Prop :=
  (∀ (s : State) (rD rA : Reg) (d : BitVec 16), PlainData s →
      let ea := eaD s rA d
      let invalid : Prop := if rA = 0 then rD = 0 else rD ≤ rA
      (invalid → Refuses (exec (.lmw rD d rA) s)) ∧
      (¬ invalid → ea.toNat % 4 = 0 →
        Goes (exec (.lmw rD d rA) s) fun t =>
          (∀ r, gprGet t r =
            if rD ≤ r then BitVec.ofNat 32 (valueBig (bytesAt s (ea + BitVec.ofNat 32 (4 * (r.toNat - rD.toNat))) 4))
            else gprGet s r) ∧
          t = { s with gpr := t.gpr, pc := s.pc + 4 })) ∧
  (∀ (s : State) (rS rA : Reg) (d : BitVec 16), PlainData s → MemoryCanonical s →
      let ea := eaD s rA d
      ea.toNat % 4 = 0 →
        Goes (exec (.stmw rS d rA) s) fun t =>
          (∀ r, rS ≤ r →
            BitVec.ofNat 32 (valueBig (bytesAt t (ea + BitVec.ofNat 32 (4 * (r.toNat - rS.toNat))) 4)) = gprGet s r) ∧
          MemoryOutside s t ea (4 * (32 - rS.toNat)) ∧
          t = { s with mem := t.mem, storeQueue := t.storeQueue, pc := s.pc + 4 })

/-- R732, R733: a string load of n bytes puts them into successive registers, from rD on and from r31 round to r0, four to a
register, the unused low bytes of the last one 0; the registers that hold the address may not be among them (U11).
`lswx` of no bytes makes no access: rD is any value (U12: nothing is said of it), and nothing else changes. -/
def Obligations.StringLoadResults : Prop :=
  (∀ (s : State) (rD rA rB nb : Reg) (rc : Bool), PlainData s →
      let filled (r : Reg) (n : Nat) : Prop := (r - rD).toNat < (n + 3) / 4
      let is (i : Instr) (ea : Word) (n : Nat) : Prop := StringFits ea n →
        Goes (exec i s) fun t =>
          (∀ r, filled r n → ∀ j, j < 4 →
            let k := 4 * (r - rD).toNat + j
            field (gprGet t r) (8 * j) 8 = if k < n then peek s (ea + BitVec.ofNat 32 k) else 0) ∧
          (∀ r, ¬ filled r n → gprGet t r = gprGet s r) ∧
          LoadOutcome s t ((List.range 32).map fun r => (BitVec.ofNat 5 r, gprGet t (BitVec.ofNat 5 r))) rc
      let n := if nb = 0 then 32 else nb.toNat
      let m := (field s.xer 25 7).toNat
      (if rA ≠ 0 ∧ filled rA n then Refuses (exec (.lswi rD rA nb rc) s) else is (.lswi rD rA nb rc) (base s rA) n) ∧
      (if rD = rA ∨ rD = rB ∨ filled rA m ∨ filled rB m then Refuses (exec (.lswx rD rA rB rc) s)
       else 0 < m → is (.lswx rD rA rB rc) (eaX s rA rB) m)) ∧
  (∀ (s : State) (rD rA rB : Reg) (rc : Bool), msrLe s = false → field s.xer 25 7 = 0 → rD ≠ rA → rD ≠ rB →
      Goes (exec (.lswx rD rA rB rc) s) fun t =>
        (∀ r, r ≠ rD → gprGet t r = gprGet s r) ∧ CrOutside s t 0 ∧ (rc = false → t.cr = s.cr) ∧
        t = { s with gpr := t.gpr, cr := t.cr, freeCtr := t.freeCtr, pc := s.pc + 4 })

/-- R734, R735: a string store of n bytes stores the bytes of successive registers, from rS on and from r31 round to r0. -/
def Obligations.StringStoreResults : Prop :=
  ∀ (s : State) (rS rA rB nb : Reg) (rc : Bool), PlainData s → MemoryCanonical s →
    let is (i : Instr) (ea : Word) (n : Nat) : Prop := StringFits ea n →
      Goes (exec i s) fun t =>
        (∀ k, k < n → peek t (ea + BitVec.ofNat 32 k) =
          field (gprGet s (rS + BitVec.ofNat 5 (k / 4))) (8 * (k % 4)) 8) ∧
        StoreOutcome s t ea n (valueBig (bytesAt t ea n)) [] rc
    is (.stswi rS rA nb rc) (base s rA) (if nb = 0 then 32 else nb.toNat) ∧
    is (.stswx rS rA rB rc) (eaX s rA rB) (field s.xer 25 7).toNat

/-- R740, R748 to R756: the floating-point loads from word-aligned addresses: frD receives the double, or the double a single
stands for (R747); with update rA receives the effective address, and rA = 0 is refused (U11). -/
def Obligations.FloatLoadResults : Prop :=
  ∀ (s : State) (frD rA rB : Reg) (d : BitVec 16) (rc : Bool), PlainData s → msrFp s = true →
    let loads (i : Instr) (ea : Word) (v : DWord) (l : List (Reg × Word)) (rc : Bool) : Prop := ea.toNat % 4 = 0 →
      Goes (exec i s) fun t => FpLoadOutcome s t frD v l rc
    let is (i u : Instr) (ea ua : Word) (v : Word → DWord) (rc : Bool) : Prop :=
      loads i ea (v ea) [] rc ∧ if rA = 0 then Refuses (exec u s) else loads u ua (v ua) [(rA, ua)] rc
    let single (ea : Word) : DWord := toDouble (BitVec.ofNat 32 (valueBig (bytesAt s ea 4)))
    let double (ea : Word) : DWord := BitVec.ofNat 64 (valueBig (bytesAt s ea 8))
    is (.lfs frD d rA) (.lfsu frD d rA) (eaD s rA d) (eaDU s rA d) single false ∧
    is (.lfsx frD rA rB rc) (.lfsux frD rA rB rc) (eaX s rA rB) (eaXU s rA rB) single rc ∧
    is (.lfd frD d rA) (.lfdu frD d rA) (eaD s rA d) (eaDU s rA d) double false ∧
    is (.lfdx frD rA rB rc) (.lfdux frD rA rB rc) (eaX s rA rB) (eaXU s rA rB) double rc

/-- R740, R745, R760 to R768: the floating-point stores to word-aligned addresses: the double, the single (R752) or the low
word of an initialised frS. The store of a register that nothing has written since the hard reset is refused (R745, U13). -/
def Obligations.FloatStoreResults : Prop :=
  ∀ (s : State) (frS rA rB : Reg) (d : BitVec 16) (rc : Bool), PlainData s → MemoryCanonical s → msrFp s = true →
    let stores (m : String) (i : Instr) (ea : Word) (n v : Nat) (l : List (Reg × Word)) (rc : Bool) : Prop :=
      ea.toNat % 4 = 0 →
        if fprReady s frS then Goes (exec i s) fun t => StoreOutcome s t ea n v l rc
        else exec i s = .refused (.uninitialisedFpr m)
    let is (m mu : String) (i u : Instr) (ea ua : Word) (n v : Nat) (rc : Bool) : Prop :=
      stores m i ea n v [] rc ∧ if rA = 0 then Refuses (exec u s) else stores mu u ua n v [(rA, ua)] rc
    let x := fprGet s frS
    let y := (toSingle x).toNat
    is "stfs" "stfsu" (.stfs frS d rA) (.stfsu frS d rA) (eaD s rA d) (eaDU s rA d) 4 y false ∧
    is "stfsx" "stfsux" (.stfsx frS rA rB rc) (.stfsux frS rA rB rc) (eaX s rA rB) (eaXU s rA rB) 4 y rc ∧
    is "stfd" "stfdu" (.stfd frS d rA) (.stfdu frS d rA) (eaD s rA d) (eaDU s rA d) 8 x.toNat false ∧
    is "stfdx" "stfdux" (.stfdx frS rA rB rc) (.stfdux frS rA rB rc) (eaX s rA rB) (eaXU s rA rB) 8 x.toNat rc ∧
    stores "stfiwx" (.stfiwx frS rA rB rc) (eaX s rA rB) 4 (x.toNat % 2 ^ 32) [] rc

/-- R747, R752: the two format conversions: a single loaded and stored again is unchanged, whatever its pattern, and the double
a single stands for has its value: the singles' scale is 2^149, the doubles' 2^1074 (NaNs have no value). -/
def Obligations.SingleFormats : Prop :=
  ∀ w : Word, toSingle (toDouble w) = w ∧
    (fpIsNan (toDouble w) ↔ field w 1 8 = 255 ∧ field w 9 23 ≠ 0) ∧
    (field w 1 8 ≠ 255 →
      let e := (field w 1 8).toNat
      let m := (field w 9 23).toNat + (if e = 0 then 0 else 2 ^ 23)
      scaledValue (toDouble w) = (if bitAt w 0 then -1 else 1) * ((m * 2 ^ (max e 1 - 1) * 2 ^ 925 : Nat) : Int))

/-- R236, R237, R770, R771: `lwarx` of a word-aligned word loads it and reserves its 32-byte block. `stwcx.` to a word-aligned
word stores it if a reservation is held, wherever its block is, and else nothing; CR0 is 00, whether it stored, and
XER[SO] (with bit 31 = 0 any value, U3); the reservation is gone. Whether it stored is noted for the performance monitor
(R1053, a field of the model). -/
def Obligations.ReservationResults : Prop :=
  (∀ (s : State) (rD rA rB : Reg) (rc : Bool), PlainData s →
      let ea := eaX s rA rB
      ea.toNat % 4 = 0 →
        Goes (exec (.lwarx rD rA rB rc) s) fun t =>
          Gprs s t [(rD, BitVec.ofNat 32 (valueBig (bytesAt s ea 4)))] ∧
          t.resv.held = true ∧ t.resv.block.toNat = ea.toNat / 32 ∧
          (rc = false → t.cr = s.cr ∧ t.freeCtr = s.freeCtr) ∧ CrOutside s t 0 ∧
          t = { s with gpr := t.gpr, resv := t.resv, cr := t.cr, freeCtr := t.freeCtr, pc := s.pc + 4 }) ∧
  (∀ (s : State) (rS rA rB : Reg) (rc : Bool), PlainData s → MemoryCanonical s →
      let ea := eaX s rA rB
      ea.toNat % 4 = 0 →
        Goes (exec (.stwcxRc rS rA rB rc) s) fun t =>
          (if s.resv.held then valueBig (bytesAt t ea 4) = (gprGet s rS).toNat ∧ MemoryOutside s t ea 4 else t.mem = s.mem) ∧
          (if rc then CrFieldIs s t 0 ((0 : BitVec 2) ++ ofBit s.resv.held ++ ofBit (xerSo s)) ∧ t.freeCtr = s.freeCtr
           else CrOutside s t 0) ∧
          t = { s with
            mem := t.mem, resv := { s.resv with held := false }, cr := t.cr, freeCtr := t.freeCtr
            storeQueue := t.storeQueue, seen := { s.seen with stored := s.resv.held }, pc := s.pc + 4 })

/-! ## Branches, traps, the system call -/

/-- R790 to R792, R795 to R798: at a word-aligned pc (an invariant of the machine) every branch completes: where the pc
goes, the link, the count register. `bcctr` with BO[2] = 0 is refused (U11). -/
def Obligations.BranchResults : Prop :=
  ∀ (s : State) (li : BitVec 24) (bo bi : Reg) (bd : BitVec 14) (aa lk : Bool), PcAligned s →
    let link : Word := if lk then s.pc + 4 else s.lr
    let ctr : Word := if bitAt bo 2 then s.ctr else s.ctr - 1
    let ctrOk : Prop := bitAt bo 2 = true ∨ (if bitAt bo 3 then ctr = 0 else ctr ≠ 0)
    let condOk : Prop := bitAt bo 0 = true ∨ bitAt s.cr bi.toNat = bitAt bo 1
    let goes (i : Instr) (ctr : Word) (taken : Prop) (target : Word) : Prop :=
      (taken → exec i s = .next { s with ctr := ctr, lr := link, pc := target }) ∧
      (¬ taken → exec i s = .next { s with ctr := ctr, lr := link, pc := s.pc + 4 })
    let relative (x : Int) : Word := BitVec.ofInt 32 ((if aa then 0 else s.pc.toInt) + 4 * x)
    let aligned (x : Word) : Word := BitVec.ofNat 32 (x.toNat / 4 * 4)
    goes (.b li aa lk) s.ctr True (relative li.toInt) ∧
    goes (.bc bo bi bd aa lk) ctr (ctrOk ∧ condOk) (relative bd.toInt) ∧
    goes (.bclr bo bi lk) ctr (ctrOk ∧ condOk) (aligned s.lr) ∧
    (if bitAt bo 2 then goes (.bcctr bo bi lk) s.ctr condOk (aligned s.ctr) else Refuses (exec (.bcctr bo bi lk) s))

/-- R800 to R808: the condition register instructions write one bit, or one field, and nothing else. -/
def Obligations.ConditionRegisterResults : Prop :=
  ∀ (s : State) (d a b : Reg) (crfD crfS : CrField),
    let is (i : Instr) (f : Bool → Bool → Bool) : Prop := Goes (exec i s) fun t =>
      (∀ k, k < 32 →
        bitAt t.cr k = if k = d.toNat then f (bitAt s.cr a.toNat) (bitAt s.cr b.toNat) else bitAt s.cr k) ∧
      t = { s with cr := t.cr, pc := s.pc + 4 }
    is (.crand d a b) (fun x y => x && y) ∧ is (.cror d a b) (fun x y => x || y) ∧
    is (.crxor d a b) (fun x y => x != y) ∧ is (.crnand d a b) (fun x y => !(x && y)) ∧
    is (.crnor d a b) (fun x y => !(x || y)) ∧ is (.creqv d a b) (fun x y => x == y) ∧
    is (.crandc d a b) (fun x y => x && !y) ∧ is (.crorc d a b) (fun x y => x || !y) ∧
    Goes (exec (.mcrf crfD crfS) s) fun t =>
      CrFieldIs s t crfD (crField s crfS) ∧ t = { s with cr := t.cr, pc := s.pc + 4 }

/-- R461, R810 to R812, R949, R952: a trap instruction takes the trap program exception if one of the selected conditions holds,
and else does nothing; `sc` takes the system call exception with SRR0 the address after it. -/
def Obligations.TrapAndSystemCallResults : Prop :=
  (∀ (s : State) (cond rA rB : Reg) (simm : BitVec 16),
      let is (i : Instr) (a b : Word) : Prop :=
        let met : Prop := (bitAt cond 0 = true ∧ a.toInt < b.toInt) ∨ (bitAt cond 1 = true ∧ b.toInt < a.toInt) ∨
          (bitAt cond 2 = true ∧ a = b) ∨ (bitAt cond 3 = true ∧ a.toNat < b.toNat) ∨
          (bitAt cond 4 = true ∧ b.toNat < a.toNat)
        (¬ met → exec i s = .next { s with pc := s.pc + 4 }) ∧
        (met → Goes (exec i s) fun t => Entered s t 0x700 s.pc 0x00020000)
      is (.tw cond rA rB) (gprGet s rA) (gprGet s rB) ∧
      is (.twi cond rA simm) (gprGet s rA) (BitVec.ofInt 32 simm.toInt)) ∧
  (∀ s : State, Goes (exec .sc s) fun t => Entered s t 0xC00 (s.pc + 4) 0)

/-! ## Processor control -/

/-- R304, R830, R831, R890 to R893, R1070, R1140, D4: in supervisor mode the segment register moves read and write one segment
register (a write drops what was fetched ahead), `mfmsr` reads the MSR, and `mtmsr` writes its defined bits; what was overwritten stays in force until a use
chooses between old and new; POW changed from 0 to 1 with a mode bit of HID0 set asks for a power-saving mode. Model
choices: an enabled floating-point exception this sets free is taken at once, with SRR0 the next address
(notes/assumptions/32.md); a change of LE goes on, with either byte order (12.md); POW with several mode bits set goes
on (13.md; D30 refuses it). -/
def Obligations.MsrAndSegmentMoves : Prop :=
  ∀ (s : State) (rD rS rB : Reg) (n : BitVec 4), msrPr s = false →
    let writes (i : Instr) (n : BitVec 4) : Prop := Goes (exec i s) fun t =>
      (∀ m, srGet t m = if m = n then gprGet s rS else srGet s m) ∧
      t = { s with
        mmu := { s.mmu with sr := t.mmu.sr }, ctx := opened (.sr n) (srGet s n) s.ctx
        fetch := { s.fetch with queue := [] }, pc := s.pc + 4 }
    let reads (i : Instr) (n : BitVec 4) : Prop := Goes (exec i s) fun t =>
      Gprs s t [(rD, srGet s n)] ∧ t = { s with gpr := t.gpr, pc := s.pc + 4 }
    let top : BitVec 4 := field (gprGet s rB) 0 4
    (writes (.mtsr n rS) n ∧ writes (.mtsrin rS rB) top ∧ reads (.mfsr rD n) n ∧ reads (.mfsrin rD rB) top) ∧
    let v := gprGet s rS &&& 0x87C5FF7F
    let t := { s with
      msr := v, pc := s.pc + 4, ctx := opened .order s.msr (opened .msr s.msr s.ctx)
      powAsked := bitAt v 13 && (s.powAsked || (!bitAt s.msr 13 && field (hid0Now s) 8 3 != 0)) }
    (Goes (exec (.mfmsr rD) s) fun t => Gprs s t [(rD, s.msr)] ∧ t = { s with gpr := t.gpr, pc := s.pc + 4 }) ∧
    if bitAt s.fpscr 1 = true ∧ (bitAt v 20 = true ∨ bitAt v 23 = true) then
      Goes (exec (.mtmsr rS) s) fun u => Entered t u 0x700 (s.pc + 4) 0x00100000
    else exec (.mtmsr rS) s = .next t

/-- R832, R931, D61: in supervisor mode `rfi` takes the MSR bits 0, 5 to 9, 16 to 23 and 25 to 31 from SRR1 and the pc
from SRR0, ends every old-or-new window (R1140), drops what was fetched ahead (R97), and no `icbi` before it may still be
not done (R229). Model choice
(notes/assumptions/32.md): an enabled floating-point exception this sets free is taken at once. -/
def Obligations.ReturnFromInterruptResult : Prop :=
  ∀ s : State, msrPr s = false →
    let m := (s.msr &&& 0x783F0080) ||| (s.sup.srr1 &&& 0x87C0FF7F)
    let t := { s with
      msr := m, pc := BitVec.ofNat 32 (s.sup.srr0.toNat / 4 * 4), caches := { s.caches with leaving := [] }
      ctx := ⟨[], []⟩, fetch := noFetch }
    if bitAt s.fpscr 1 = true ∧ (bitAt m 20 = true ∨ bitAt m 23 = true) then
      Goes (exec .rfi s) fun u => Entered t u 0x700 t.pc 0x00100000
    else exec .rfi s = .next t

/-- R80, R81, R83, R836, R837: what `mfspr` (and `mftb`) reads, by number: the registers of either level, and in supervisor mode
the others; with bit 31 set CR0 is any value (U3). Model choice (notes/assumptions/50.md, DEDUCED): USDA (943) and SDA (959),
registers that do not exist, read as 0, as D6 decides; the sources say nothing of such reads. -/
def Obligations.SpecialRegisterReads : Prop :=
  ∀ (s : State) (rD : Reg) (rc : Bool),
    let is (n : BitVec 10) (v : Word) : Prop :=
      (Goes (exec (.mfspr rD n rc) s) fun t => LoadOutcome s t [(rD, v)] rc) ∧
      (Goes (exec (.mftb rD n) s) fun t => LoadOutcome s t [(rD, v)] false)
    let bat (n : BitVec 10) (p : BatPair) : Prop := is n p.upper ∧ is (n + 1) p.lower
    (is 1 s.xer ∧ is 8 s.lr ∧ is 9 s.ctr ∧ is 268 s.tim.tbl ∧ is 269 s.tim.tbu ∧ is 936 s.perf.mmcr0 ∧ is 937 s.perf.pmc1 ∧
      is 938 s.perf.pmc2 ∧ is 939 s.perf.sia ∧ is 940 s.perf.mmcr1 ∧ is 941 s.perf.pmc3 ∧ is 942 s.perf.pmc4 ∧ is 943 0) ∧
    (msrPr s = false →
      is 18 s.sup.dsisr ∧ is 19 s.sup.dar ∧ is 22 s.tim.dec ∧ is 25 s.mmu.sdr1 ∧ is 26 s.sup.srr0 ∧ is 27 s.sup.srr1 ∧
      is 272 s.sup.sprg0 ∧ is 273 s.sup.sprg1 ∧ is 274 s.sup.sprg2 ∧ is 275 s.sup.sprg3 ∧ is 282 s.sup.ear ∧
      is 287 ((0x7000 : BitVec 16) ++ Config.pvrRev) ∧
      is 952 s.perf.mmcr0 ∧ is 953 s.perf.pmc1 ∧ is 954 s.perf.pmc2 ∧ is 955 s.perf.sia ∧ is 956 s.perf.mmcr1 ∧
      is 957 s.perf.pmc3 ∧ is 958 s.perf.pmc4 ∧ is 959 0 ∧
      is 1008 s.hid.hid0 ∧ is 1009 (Config.pllCfg ++ Config.pllRng ++ field s.hid.hid1 7 25) ∧ is 1010 s.hid.iabr ∧
      is 1013 s.sup.dabr ∧ is 1016 s.hid.hid2 ∧
      is 1017 (setBit s.hid.l2cr 31 (decide (s.caches.l2Inval ≠ 0))) ∧ is 1019 s.hid.ictc ∧
      is 1020 s.therm.thrm1 ∧ is 1021 s.therm.thrm2 ∧ is 1022 s.therm.thrm3 ∧
      bat 528 s.mmu.ibat[0] ∧ bat 530 s.mmu.ibat[1] ∧ bat 532 s.mmu.ibat[2] ∧ bat 534 s.mmu.ibat[3] ∧
      bat 536 s.mmu.dbat[0] ∧ bat 538 s.mmu.dbat[1] ∧ bat 540 s.mmu.dbat[2] ∧ bat 542 s.mmu.dbat[3] ∧
      bat 560 s.mmu.ibat[4] ∧ bat 562 s.mmu.ibat[5] ∧ bat 564 s.mmu.ibat[6] ∧ bat 566 s.mmu.ibat[7] ∧
      bat 568 s.mmu.dbat[4] ∧ bat 570 s.mmu.dbat[5] ∧ bat 572 s.mmu.dbat[6] ∧ bat 574 s.mmu.dbat[7])

/-- R13, R80, R81, R83, R304, R835: the writes of `mtspr` that store the value, but for the reserved bits, in one register and do
nothing else; with bit 31 set CR0 is any value (U3). The old values of the BAT registers, SDR1, EAR, DABR and IABR stay in
force until a use chooses (R1140, R1141); a write of an IBAT register drops what was fetched ahead. The decrementer's condition is raised by a change of its bit 0 from 0 to 1
(R1026). Model choice (notes/assumptions/8.md): HID2 is stored whole. -/
def Obligations.SpecialRegisterWrites : Prop :=
  ∀ (s : State) (rS : Reg) (rc : Bool),
    let v := gprGet s rS
    let is (n : BitVec 10) (u : State) : Prop := Goes (exec (.mtspr n rS rc) s) fun t =>
      (rc = false → t.cr = s.cr ∧ t.freeCtr = s.freeCtr) ∧ CrOutside s t 0 ∧
      t = { u with cr := t.cr, freeCtr := t.freeCtr, pc := s.pc + 4 }
    let sup (n : BitVec 10) (r : SupRegs) : Prop := is n { s with sup := r }
    let hid (n : BitVec 10) (r : HidRegs) : Prop := is n { s with hid := r }
    let ibat (n : BitVec 10) (k : Fin 8) : Prop :=
      is n { s with
        mmu := { s.mmu with ibat := s.mmu.ibat.set k { s.mmu.ibat[k] with upper := v } }
        ctx := opened (.bat false k false) s.mmu.ibat[k].upper s.ctx, fetch := { s.fetch with queue := [] } } ∧
      is (n + 1) { s with
        mmu := { s.mmu with ibat := s.mmu.ibat.set k { s.mmu.ibat[k] with lower := v } }
        ctx := opened (.bat false k true) s.mmu.ibat[k].lower s.ctx, fetch := { s.fetch with queue := [] } }
    let dbat (n : BitVec 10) (k : Fin 8) : Prop :=
      is n { s with
        mmu := { s.mmu with dbat := s.mmu.dbat.set k { s.mmu.dbat[k] with upper := v } }
        ctx := opened (.bat true k false) s.mmu.dbat[k].upper s.ctx } ∧
      is (n + 1) { s with
        mmu := { s.mmu with dbat := s.mmu.dbat.set k { s.mmu.dbat[k] with lower := v } }
        ctx := opened (.bat true k true) s.mmu.dbat[k].lower s.ctx }
    (is 1 { s with xer := v &&& 0xE000FF7F } ∧ is 8 { s with lr := v } ∧ is 9 { s with ctr := v }) ∧
    (msrPr s = false →
      sup 18 { s.sup with dsisr := v } ∧ sup 19 { s.sup with dar := v } ∧ sup 26 { s.sup with srr0 := v } ∧
      sup 27 { s.sup with srr1 := v } ∧ sup 272 { s.sup with sprg0 := v } ∧ sup 273 { s.sup with sprg1 := v } ∧
      sup 274 { s.sup with sprg2 := v } ∧ sup 275 { s.sup with sprg3 := v } ∧
      is 282 { s with sup := { s.sup with ear := v &&& 0x8000000F }, ctx := opened .ear s.sup.ear s.ctx } ∧
      is 1013 { s with sup := { s.sup with dabr := v }, ctx := opened .dabr s.sup.dabr s.ctx } ∧
      is 1010 { s with
        hid := { s.hid with iabr := v }, ctx := opened .iabr s.hid.iabr s.ctx, fetch := { s.fetch with iabrNew := true } } ∧
      hid 1016 { s.hid with hid2 := v } ∧ hid 1019 { s.hid with ictc := v &&& 0x000001FF } ∧
      is 22 { s with tim := { s.tim with
        dec := v, pending := s.tim.pending || (!bitAt s.tim.dec 0 && bitAt v 0) } } ∧
      is 25 { s with mmu := { s.mmu with sdr1 := v &&& 0xFFFF01FF }, ctx := opened .sdr1 s.mmu.sdr1 s.ctx } ∧
      is 285 { s with tim := { s.tim with tbu := v } } ∧
      is 287 s ∧ is 943 s ∧ is 959 s ∧ is 955 { s with perf := { s.perf with sia := v } } ∧
      is 956 { s with perf := { s.perf with mmcr1 := v &&& 0xFFC00000 } } ∧
      ibat 528 0 ∧ ibat 530 1 ∧ ibat 532 2 ∧ ibat 534 3 ∧ dbat 536 0 ∧ dbat 538 1 ∧ dbat 540 2 ∧ dbat 542 3 ∧
      ibat 560 4 ∧ ibat 562 5 ∧ ibat 564 6 ∧ ibat 566 7 ∧ dbat 568 4 ∧ dbat 570 5 ∧ dbat 572 6 ∧ dbat 574 7)

/-- R13, R120, R150, R170, R178, R180, R351, R420, R1096: the writes of HID0, HID1, L2CR and the thermal registers: a flash
invalidation bit empties its cache and stays 1 only while the cache is off (D41); L2CR stores its fields, its reserved
bits read 0, and L2I starts an invalidation (with L2E or HID0[DPM] set it stops, R420); TIN stays, TIV is cleared, and
the comparisons start again with THRM1. R160, R164, R166, R1020, R1045: the writes of
the performance monitor's counters and control register and of TBL store the value; what they may do besides is count
TBL's transition event and thaw the counters. Model choices: HID0's reserved bits are stored, and every value of HID1 goes on
(notes/assumptions/14.md; R1081 refuses some); which bits of L2CR are fields, and L2IP (15.md); L2I set by a write
that clears L2E goes on (65.md; R420 refuses L2I while L2E = 1); L2E set without an earlier invalidation goes on (9.md;
R421 refuses it); the MMCR0 write clears freeze and trigger (39.md, D63); a pending thermal request stays (40.md, D35). -/
def Obligations.ControlRegisterWrites : Prop :=
  (∀ (s : State) (rS : Reg), msrPr s = false →
      let v := gprGet s rS
      let is (n : BitVec 10) (P : State → Prop) : Prop := Goes (exec (.mtspr n rS false) s) P
      let keeps (a b : Word) (m : Word) : Prop := a &&& m = b &&& m
      (is 1008 fun t =>
        (∀ k, k < 32 → bitAt t.hid.hid0 k =
          (bitAt v k && !(k = 20 && bitAt v 16) && !(k = 21 && bitAt v 17))) ∧
        t.caches = { s.caches with
          icache := if bitAt v 20 then emptyIcache else s.caches.icache
          dcache := if bitAt v 21 then emptyDcache else s.caches.dcache } ∧
        t = { s with
          hid := { s.hid with hid0 := t.hid.hid0 }, caches := t.caches, ctx := opened .hid0 s.hid.hid0 s.ctx
          pc := s.pc + 4 }) ∧
      (is 1009 fun t =>
        keeps t.hid.hid1 v 0x00F3FEFE ∧ keeps t.hid.hid1 s.hid.hid1 0xFF0C0101 ∧
        t = { s with hid := { s.hid with hid1 := t.hid.hid1 }, pc := s.pc + 4 }) ∧
      (¬ (bitAt v 10 = true ∧ (bitAt v 0 = true ∨ bitAt (hid0Now s) 11 = true)) →
        is 1017 fun t =>
          t.hid.l2cr = v &&& 0xC06C0F00 ∧ (if bitAt v 10 then t.caches.l2Inval ≠ 0 else t.caches = s.caches) ∧
          t = { s with
            hid := { s.hid with l2cr := t.hid.l2cr }, caches := { s.caches with l2Inval := t.caches.l2Inval }
            pc := s.pc + 4 }) ∧
      (bitAt v 10 = true → bitAt v 0 = true ∨ bitAt (hid0Now s) 11 = true →
        exec (.mtspr 1017 rS false) s = .fault .l2InvalidateMisuse) ∧
      (is 1020 fun t =>
        keeps t.therm.thrm1 v 0x3F800007 ∧ keeps t.therm.thrm1 s.therm.thrm1 0x80000000 ∧ keeps t.therm.thrm1 0 0x407FFFF8 ∧
        t = { s with therm := { s.therm with thrm1 := t.therm.thrm1, halt1 := false, second := false }, pc := s.pc + 4 }) ∧
      (is 1021 fun t =>
        keeps t.therm.thrm2 v 0x3F800007 ∧ keeps t.therm.thrm2 s.therm.thrm2 0x80000000 ∧ keeps t.therm.thrm2 0 0x407FFFF8 ∧
        t = { s with therm := { s.therm with thrm2 := t.therm.thrm2, halt2 := false, second := false }, pc := s.pc + 4 }) ∧
      (is 1022 fun t =>
        t.therm.thrm3 = v &&& 0x00003FFF ∧ t.therm.thrm1 = s.therm.thrm1 &&& 0xBFFFFFFF ∧
        t.therm.thrm2 = s.therm.thrm2 &&& 0xBFFFFFFF ∧ t.therm.halt1 = false ∧ t.therm.halt2 = false ∧
        t.therm.second = false ∧
        t = { s with
          therm := { t.therm with pending := s.therm.pending }, pc := s.pc + 4 })) ∧
  (∀ (s : State) (rS : Reg), msrPr s = false → bitAt s.perf.mmcr0 5 = false →
      let v := gprGet s rS
      let is (n : BitVec 10) (P : State → Prop) : Prop := Goes (exec (.mtspr n rS false) s) fun t =>
        P t ∧ t = { s with perf := t.perf, tim := t.tim, pc := s.pc + 4 }
      (is 953 fun t => t.perf = { s.perf with pmc1 := v } ∧ t.tim = s.tim) ∧
      (is 954 fun t => t.perf = { s.perf with pmc2 := v } ∧ t.tim = s.tim) ∧
      (is 957 fun t => t.perf = { s.perf with pmc3 := v } ∧ t.tim = s.tim) ∧
      (is 958 fun t => t.perf = { s.perf with pmc4 := v } ∧ t.tim = s.tim) ∧
      (bitAt v 5 = false →
        is 952 fun t => t.perf = { s.perf with mmcr0 := v, frozen := false, trig := false } ∧ t.tim = s.tim) ∧
      (is 284 fun t => t.tim = { s.tim with tbl := v }))

/-- R81, R83, R946, D6: at either level a number that names no register for the instruction takes the illegal-instruction
exception; USDA and SDA, which this chip has not, are no registers a user writes, and SDA none a user reads. -/
def Obligations.SpecialRegisterTraps : Prop :=
  ∀ (s : State) (n : BitVec 10) (r : Reg) (rc : Bool),
    let illegal (i : Instr) : Prop := Goes (exec i s) fun t => Entered s t 0x700 s.pc 0x00080000
    let priv (i : Instr) : Prop := Goes (exec i s) fun t => Entered s t 0x700 s.pc 0x00040000
    let both : List Nat := [18, 19, 22, 25, 26, 27, 272, 273, 274, 275, 282, 287, 952, 953, 954, 955, 956, 957, 958, 959,
      1008, 1009, 1010, 1013, 1016, 1017, 1019, 1020, 1021, 1022]
    let sup : Prop := n.toNat ∈ both ∨ (528 ≤ n.toNat ∧ n.toNat ≤ 543) ∨ (560 ≤ n.toNat ∧ n.toNat ≤ 575)
    let userReads : List Nat := [1, 8, 9, 268, 269, 936, 937, 938, 939, 940, 941, 942, 943]
    (¬ sup → n.toNat ∉ userReads → illegal (.mfspr r n rc) ∧ illegal (.mftb r n)) ∧
    (¬ sup → n.toNat ∉ [1, 8, 9, 284, 285, 943] → illegal (.mtspr n r rc)) ∧
    (msrPr s = true → n = 943 → illegal (.mtspr n r rc)) ∧
    (msrPr s = true → n = 959 → priv (.mfspr r n rc) ∧ priv (.mftb r n) ∧ priv (.mtspr n r rc))

/-- R947: in user mode a supervisor instruction, and a move to or from a supervisor register, take the privileged-instruction
exception and do nothing else. -/
def Obligations.PrivilegedInstructionResults : Prop :=
  ∀ (s : State) (a b : Reg) (n : BitVec 4) (spr : BitVec 10) (rc : Bool), msrPr s = true →
    let priv (i : Instr) : Prop := Goes (exec i s) fun t => Entered s t 0x700 s.pc 0x00040000
    let both : List Nat := [18, 19, 22, 25, 26, 27, 272, 273, 274, 275, 282, 287, 952, 953, 954, 955, 956, 957, 958,
      1008, 1009, 1010, 1013, 1016, 1017, 1019, 1020, 1021, 1022]
    let sup : Prop := spr.toNat ∈ both ∨ (528 ≤ spr.toNat ∧ spr.toNat ≤ 543) ∨ (560 ≤ spr.toNat ∧ spr.toNat ≤ 575)
    (∀ i ∈ [Instr.mtmsr a, .mfmsr a, .rfi, .mtsr n a, .mtsrin a b, .mfsr a n, .mfsrin a b, .tlbie a, .tlbsync, .dcbi a b],
      priv i) ∧
    (sup → priv (.mfspr a spr rc) ∧ priv (.mftb a spr) ∧ priv (.mtspr spr a rc)) ∧
    (spr = 284 ∨ spr = 285 → priv (.mtspr spr a rc))

/-- R840 to R842: `mtcrf` writes the fields its mask selects, `mfcr` reads the register, `mcrxr` moves XER[0:3] to a field and
clears them. -/
def Obligations.ConditionRegisterMoves : Prop :=
  ∀ (s : State) (crm : BitVec 8) (rD rS : Reg) (crfD : CrField),
    (Goes (exec (.mtcrf crm rS) s) fun t =>
      (∀ n, crField t n = if bitAt crm n.toNat then field (gprGet s rS) (4 * n.toNat) 4 else crField s n) ∧
      t = { s with cr := t.cr, pc := s.pc + 4 }) ∧
    (Goes (exec (.mfcr rD) s) fun t => Gprs s t [(rD, s.cr)] ∧ t = { s with gpr := t.gpr, pc := s.pc + 4 }) ∧
    (Goes (exec (.mcrxr crfD) s) fun t =>
      CrFieldIs s t crfD (field s.xer 0 4) ∧ field t.xer 0 4 = 0 ∧ field t.xer 4 28 = field s.xer 4 28 ∧
      t = { s with cr := t.cr, xer := t.xer, pc := s.pc + 4 })

/-- R845 to R847, R376, R226, R229, R97, R1140, R1141: the synchronising instructions: with HID0[ABE] `sync` and `eieio` are
broadcast; `sync` waits for every store, push, castout and `icbi` that may not be done; `isync` waits for every `icbi`, ends
every old-or-new window and drops what was fetched ahead; nothing else changes (with bit 31 set on `sync`, CR0 is any value,
U3). Inside a window a use finds each bit of a control old or new, and a control
other than the MSR and HID0 old or new as a whole, while the registers themselves read as written (the window as the model
keeps it: notes/assumptions/10.md; IABR: 11.md; the byte order: 12.md). -/
def Obligations.SynchronisationResults : Prop :=
  (∀ (s : State) (rc : Bool),
    let log (op : BusOp) : List BusOp := if bitAt (hid0Now s) 28 then op :: s.busLog else s.busLog
    (Goes (exec (.sync rc) s) fun t =>
      (rc = false → t.cr = s.cr ∧ t.freeCtr = s.freeCtr) ∧ CrOutside s t 0 ∧
      t = { s with
        busLog := log .sync, storeQueue := [], caches := { s.caches with leaving := [] }, cr := t.cr, freeCtr := t.freeCtr
        pc := s.pc + 4 }) ∧
    exec .eieio s = .next { s with busLog := log .eieio, pc := s.pc + 4 } ∧
    exec .isync s = .next { s with
      caches := { s.caches with leaving := [] }, ctx := ⟨[], []⟩, fetch := { s.fetch with queue := [] }, pc := s.pc + 4 }) ∧
  (∀ (s : State) (c : Control), s.ctx.stale ≠ [] → c ≠ .iabr →
    let v := Machine.control (newUse s) c
    (∀ k, k < 32 → bitAt v k = bitAt (held s c) k ∨ ∃ old, (c, old) ∈ s.ctx.stale ∧ bitAt v k = bitAt old k) ∧
    (c ≠ .msr → c ≠ .hid0 → v = held s c ∨ (c, v) ∈ s.ctx.stale) ∧ held (newUse s) c = held s c)

/-! ## Floating point -/

/-- R602, R603, R610 to R632: with MSR[FP] = 1 every arithmetic, conversion and estimate
instruction completes: it writes frD and the status bits of the FPSCR, whose summary bits then hold; with `.` CR1 is
FPSCR[0:3] (for the single-precision ones that is any value if an operand is no single, U5); nothing else changes. R948:
with FE0 or FE1 set the effect is the same, and with FEX then set the program exception follows. -/
def Obligations.FloatArithmeticCompletes : Prop :=
  ∀ (s : State) (frD frA frB frC : Reg) (rc : Bool), msrFp s = true →
    (∀ i ∈ fpDoubleInstrs frD frA frB frC rc, FpEnds s (exec i s) fun t => FpResultFrame s t frD rc ∧
      (rc = true → crField t 1 = field t.fpscr 0 4)) ∧
    (∀ i ∈ fpSingleInstrs frD frA frB frC rc, FpEnds s (exec i s) fun t => FpResultFrame s t frD rc ∧
      (isSingle (fprGet s frA) → isSingle (fprGet s frB) → isSingle (fprGet s frC) →
        rc = true → crField t 1 = field t.fpscr 0 4))

/-- R602, R604, R606, R608, R609 to R617, R621 to R628, R630: the arithmetic instructions on finite operands, and for the
single-precision ones on singles, for every setting of the FPSCR. The exact result is rounded once, in the mode FPSCR[RN]
says (to nearest: ties to even), among the doubles, or for the single-precision instructions and `frsp` among the singles; an
overflow gives an infinity or the greatest number, an enabled overflow or underflow the result with its exponent adjusted,
and with NI = 1 (and UE = 0) a denormalised operand counts as zero and a denormalised result is one. A zero has the sign of the
exact result, or where that is zero itself the sign R609 gives. FI says that the result is not exact, FR that its magnitude
is increased (any value for a disabled overflow, U7), FPRF its class; OX, UX and XX are set as R604 says and else kept, FX
with a bit newly set, and no other exception bit changes. `fnmadd` and `fnmsub` negate after rounding. That NI has no effect
on an operand with UE = 1 is D51's sentence taken whole (notes/assumptions/67.md). -/
def Obligations.FloatRounding : Prop :=
  ∀ (s : State) (frD frA frB frC : Reg) (rc : Bool), msrFp s = true →
    isFinite (fprGet s frA) → isFinite (fprGet s frB) → isFinite (fprGet s frC) →
    let rn : BitVec 2 := field s.fpscr 30 2
    let gives (f : FpFormat) (i : Instr) (n d : Int) (zero negate : Bool) : Prop :=
      FpEnds s (exec i s) fun t =>
        let r := fprGet t frD
        FpRounded f s t n d zero (if negate then r ^^^ 0x8000000000000000 else r) r
    let value (x : DWord) : Int :=
      if bitAt s.fpscr 29 && !bitAt s.fpscr 26 && decide ((scaledValue x).natAbs < 2 ^ 52) then 0 else scaledValue x
    let a := value (fprGet s frA)
    let b := value (fprGet s frB)
    let c := value (fprGet s frC)
    let sa := bitAt (fprGet s frA) 0
    let sb := bitAt (fprGet s frB) 0
    let sc := bitAt (fprGet s frC) 0
    let u : Int := 2 ^ 1074
    let wide := gives doubleFormat
    let narrow := gives singleFormat
    (wide (.fadd frD frA frB rc) (a + b) 1 (zeroSum rn sa sb) false ∧
      wide (.fsub frD frA frB rc) (a - b) 1 (zeroSum rn sa !sb) false ∧
      wide (.fmul frD frA frC rc) (a * c) u (sa != sc) false ∧
      (b ≠ 0 → wide (.fdiv frD frA frB rc) (a * u * b.sign) b.natAbs (sa != sb) false) ∧
      wide (.fmadd frD frA frC frB rc) (a * c + b * u) u (zeroSum rn (sa != sc) sb) false ∧
      wide (.fmsub frD frA frC frB rc) (a * c - b * u) u (zeroSum rn (sa != sc) !sb) false ∧
      wide (.fnmadd frD frA frC frB rc) (a * c + b * u) u (zeroSum rn (sa != sc) sb) true ∧
      wide (.fnmsub frD frA frC frB rc) (a * c - b * u) u (zeroSum rn (sa != sc) !sb) true) ∧
    narrow (.frsp frD frB rc) b 1 sb false ∧
    (isSingle (fprGet s frA) → isSingle (fprGet s frB) → isSingle (fprGet s frC) →
      narrow (.fadds frD frA frB rc) (a + b) 1 (zeroSum rn sa sb) false ∧
      narrow (.fsubs frD frA frB rc) (a - b) 1 (zeroSum rn sa !sb) false ∧
      narrow (.fmuls frD frA frC rc) (a * c) u (sa != sc) false ∧
      (b ≠ 0 → narrow (.fdivs frD frA frB rc) (a * u * b.sign) b.natAbs (sa != sb) false) ∧
      narrow (.fmadds frD frA frC frB rc) (a * c + b * u) u (zeroSum rn (sa != sc) sb) false ∧
      narrow (.fmsubs frD frA frC frB rc) (a * c - b * u) u (zeroSum rn (sa != sc) !sb) false ∧
      narrow (.fnmadds frD frA frC frB rc) (a * c + b * u) u (zeroSum rn (sa != sc) sb) true ∧
      narrow (.fnmsubs frD frA frC frB rc) (a * c - b * u) u (zeroSum rn (sa != sc) !sb) true)

/-- R605, R607, R609: of the double-precision instructions, and of the single-precision ones given singles. An operand that
is a NaN: with the invalid-operation exception disabled frD receives the first NaN of frA, frB, frC made quiet, and FPRF
its class; a signalling one sets VXSNAN, and with the exception enabled frD is unchanged. The invalid operations on
numbers and the division by zero: with the exception disabled frD receives the default NaN, or the infinity of the
quotient's sign; enabled, it is unchanged; the cause bit is set, FR and FI are 0. -/
def Obligations.FloatSpecialResults : Prop :=
  ∀ (s : State) (frD frA frB frC : Reg) (rc single : Bool), msrFp s = true →
    let a := fprGet s frA
    let b := fprGet s frB
    let c := fprGet s frC
    (single = true → isSingle a ∧ isSingle b ∧ isSingle c) →
    let form (double narrow : Instr) : Instr := if single then narrow else double
    let add := form (.fadd frD frA frB rc) (.fadds frD frA frB rc)
    let sub := form (.fsub frD frA frB rc) (.fsubs frD frA frB rc)
    let mul := form (.fmul frD frA frC rc) (.fmuls frD frA frC rc)
    let div := form (.fdiv frD frA frB rc) (.fdivs frD frA frB rc)
    let madd := form (.fmadd frD frA frC frB rc) (.fmadds frD frA frC frB rc)
    let msub := form (.fmsub frD frA frC frB rc) (.fmsubs frD frA frC frB rc)
    let nmadd := form (.fnmadd frD frA frC frB rc) (.fnmadds frD frA frC frB rc)
    let nmsub := form (.fnmsub frD frA frC frB rc) (.fnmsubs frD frA frC frB rc)
    let nan (i : Instr) (operands : List DWord) : Prop := ∀ before x after, operands = before ++ x :: after →
      (∀ y ∈ before, ¬ isNan y) → isNan x →
        FpEnds s (exec i s) fun t =>
          (bitAt s.fpscr 24 = false → fprGet t frD = x ||| 0x0008000000000000 ∧ field t.fpscr 13 7 = 0b0010001) ∧
          ((∃ y ∈ operands, isSnan y) → bitAt t.fpscr 7 = true ∧ (bitAt s.fpscr 24 = true → t.fpr = s.fpr))
    (nan add [a, b] ∧ nan sub [a, b] ∧ nan mul [a, c] ∧ nan div [a, b] ∧ nan madd [a, b, c] ∧ nan msub [a, b, c] ∧
      nan nmadd [a, b, c] ∧ nan nmsub [a, b, c]) ∧
    (bitAt s.fpscr 29 = false →
      let inf (x : DWord) : Prop := field x 1 63 = 0x7FF0000000000000
      let zero (x : DWord) : Prop := field x 1 63 = 0
      let sign (x : DWord) : Bool := bitAt x 0
      let is (i : Instr) (cause enable : Nat) (v : DWord) : Prop := FpEnds s (exec i s) fun t =>
        bitAt t.fpscr cause = true ∧ field t.fpscr 13 2 = 0 ∧
        if bitAt s.fpscr enable then t.fpr = s.fpr else fprGet t frD = v
      let nan : DWord := 0x7FF8000000000000
      let timesZero : Prop := (inf a ∧ zero c) ∨ (zero a ∧ inf c)
      let productInf : Prop := (inf a ∧ ¬ isNan c ∧ ¬ zero c) ∨ (inf c ∧ ¬ isNan a ∧ ¬ zero a)
      (inf a → inf b → sign a ≠ sign b → is add 8 24 nan) ∧ (inf a → inf b → sign a = sign b → is sub 8 24 nan) ∧
      (inf a → inf b → is div 9 24 nan) ∧ (zero a → zero b → is div 10 24 nan) ∧ (timesZero → is mul 11 24 nan) ∧
      (timesZero → ¬ isNan b → ∀ i ∈ [madd, msub, nmadd, nmsub], is i 11 24 nan) ∧
      (productInf → inf b → (sign a != sign c) ≠ sign b → is madd 8 24 nan ∧ is nmadd 8 24 nan) ∧
      (productInf → inf b → (sign a != sign c) = sign b → is msub 8 24 nan ∧ is nmsub 8 24 nan) ∧
      (isFinite a → ¬ zero a → zero b → is div 5 27 (ofBit (sign a != sign b) ++ (0x7FF0000000000000 : BitVec 63))))

/-- R618, R619, D54: the estimates of ordinary operands, with denormalised numbers kept: `fres` of a single is a single within
1/4000 of the reciprocal (where that lies in the singles' range), `frsqrte` a positive double within 1/4000 of the
reciprocal square root, its fraction bits below the twelfth 0. Model choice (notes/assumptions/18.md): the estimates are
parameters of the chip, and where one would break the bound the rounded value is taken. -/
def Obligations.EstimateBounds : Prop :=
  ∀ (s : State) (frD frB : Reg) (rc : Bool), msrFp s = true → bitAt s.fpscr 29 = false →
    let b := fprGet s frB
    let x := scaledValue b
    let u : Int := 2 ^ 1074
    (isFinite b → isSingle b → u ≤ (2 ^ 127 : Int) * x.natAbs →
      FpEnds s (exec (.fres frD frB rc) s) fun t =>
        let y := scaledValue (fprGet t frD)
        isFinite (fprGet t frD) ∧ isSingle (fprGet t frD) ∧ 4000 * (x * y - u * u).natAbs < (u * u).natAbs) ∧
    (isFinite b → 0 < x →
      FpEnds s (exec (.frsqrte frD frB rc) s) fun t =>
        let y := scaledValue (fprGet t frD)
        isFinite (fprGet t frD) ∧ 0 < y ∧ field (fprGet t frD) 24 40 = 0 ∧
        (3999 ^ 2 : Int) * u ^ 3 < 4000 ^ 2 * (y * y * x) ∧ (4000 ^ 2 : Int) * (y * y * x) < 4001 ^ 2 * u ^ 3)

/-- R631, R632: the conversions of a finite number, with denormalised numbers kept: the low word of frD receives the number
rounded to an integer in the mode RN, ties to even (`fctiwz`: toward zero), if it is a signed 32-bit number, else the
nearest one, or with the invalid-operation exception enabled frD is unchanged, and VXCVI is set. -/
def Obligations.ConvertToIntegerResults : Prop :=
  ∀ (s : State) (frD frB : Reg) (rc : Bool), msrFp s = true → bitAt s.fpscr 29 = false → isFinite (fprGet s frB) →
    let x := scaledValue (fprGet s frB)
    let u : Int := 2 ^ 1074
    let is (i : Instr) (n : Int) : Prop := FpEnds s (exec i s) fun t =>
      if fitsWord n then field (fprGet t frD) 32 32 = BitVec.ofInt 32 n ∧ (bitAt t.fpscr 14 = false ↔ u * n = x)
      else bitAt t.fpscr 23 = true ∧
        if bitAt s.fpscr 24 then t.fpr = s.fpr
        else field (fprGet t frD) 32 32 = if n < 0 then 0x80000000 else 0x7FFFFFFF
    is (.fctiwz frD frB rc) (Int.tdiv x u) ∧
    (field s.fpscr 30 2 = 0 → ∃ n : Int,
      (∀ m, (u * n - x).natAbs ≤ (u * m - x).natAbs ∧ (m ≠ n → (u * n - x).natAbs = (u * m - x).natAbs → n % 2 = 0)) ∧
      is (.fctiw frD frB rc) n) ∧
    (field s.fpscr 30 2 = 1 → is (.fctiw frD frB rc) (Int.tdiv x u)) ∧
    (field s.fpscr 30 2 = 2 → is (.fctiw frD frB rc) (-(-x / u))) ∧
    (field s.fpscr 30 2 = 3 → is (.fctiw frD frB rc) (x / u))

/-- R620, R650 to R653: the moves and the selection copy a pattern, with its sign bit copied, inverted, cleared or set; the
FPSCR is unchanged. `fsel` takes frC if frA is at least 0 (and no NaN). -/
def Obligations.FloatMoveResults : Prop :=
  ∀ (s : State) (frD frA frB frC : Reg) (rc : Bool), msrFp s = true →
    let is (i : Instr) (v : DWord) : Prop := Goes (exec i s) fun t => FpMoveOutcome s t frD v rc
    let b := fprGet s frB
    let signed (sign : Bool) : DWord := ofBit sign ++ field b 1 63
    is (.fmr frD frB rc) b ∧ is (.fneg frD frB rc) (signed !(bitAt b 0)) ∧ is (.fabs frD frB rc) (signed false) ∧
    is (.fnabs frD frB rc) (signed true) ∧
    (¬ isNan (fprGet s frA) → 0 ≤ scaledValue (fprGet s frA) → is (.fsel frD frA frC frB rc) (fprGet s frC)) ∧
    (isNan (fprGet s frA) ∨ scaledValue (fprGet s frA) < 0 → is (.fsel frD frA frC frB rc) b)

/-- R602, R635, R636: the comparisons write the order of the operands, or that there is none, to a CR field and to FPCC; a
signalling NaN sets VXSNAN, and for `fcmpo` a NaN sets VXVC (not with a signalling one while VE = 1), and FX with a bit newly
set; no other CR field and no other bit of the FPSCR but its summary bits changes. With bit 31 set the CR and FPCC are any
value (U10), all else the same. R948: with FE0 or FE1 set and FEX then set the program exception follows. Model choice
(notes/assumptions/66.md): FR and FI stay also in the invalid cases. -/
def Obligations.FloatCompareResults : Prop :=
  ∀ (s : State) (crfD : CrField) (frA frB : Reg), msrFp s = true →
    let a := fprGet s frA
    let b := fprGet s frB
    let nan : Prop := isNan a ∨ isNan b
    let snan : Prop := isSnan a ∨ isSnan b
    let order (c : BitVec 4) : Prop :=
      (nan → c = 0b0001) ∧ (¬ nan → c = orderField (decide (scaledValue a < scaledValue b))
        (decide (scaledValue b < scaledValue a)) false)
    let status (ordered : Bool) (t : State) : Prop :=
      FpscrLegal t ∧
      (∀ k ∈ [3, 4, 5, 6, 8, 9, 10, 11, 13, 14, 15, 21, 22, 23, 24, 25, 26, 27, 28, 29, 30, 31],
        bitAt t.fpscr k = bitAt s.fpscr k) ∧
      (bitAt t.fpscr 7 = true ↔ bitAt s.fpscr 7 = true ∨ snan) ∧
      (bitAt t.fpscr 12 = true ↔
        bitAt s.fpscr 12 = true ∨ (ordered = true ∧ nan ∧ ¬ (snan ∧ bitAt s.fpscr 24 = true))) ∧
      bitAt t.fpscr 0 = (bitAt s.fpscr 0 || newlySet s t 7 || newlySet s t 12)
    let is (ordered : Bool) (i : Bool → Instr) : Prop :=
      (FpEnds s (exec (i false) s) fun t =>
        order (crField t crfD) ∧ CrOutside s t crfD ∧ field t.fpscr 16 4 = crField t crfD ∧ status ordered t ∧
        t = { s with cr := t.cr, fpscr := t.fpscr, pc := s.pc + 4 }) ∧
      (FpEnds s (exec (i true) s) fun t =>
        status ordered t ∧ t = { s with cr := t.cr, fpscr := t.fpscr, freeCtr := t.freeCtr, pc := s.pc + 4 })
    is false (fun rc => .fcmpu crfD frA frB rc) ∧ is true (fun rc => .fcmpo crfD frA frB rc)

/-- R602, R640 to R645: the FPSCR instructions. `mffs` copies the FPSCR to the low word of frD (the high word is any value,
U6). The others write the bits they name, but for FEX, VX and the reserved bit, which follow from the others; `mcrfs`
copies a field to the CR and clears its exception bits; `mtfsb1` of a cause bit that was 0 also sets FX. R948: but for
`mffs`, with FE0 or FE1 set and FEX then set the program exception follows. -/
def Obligations.FpscrInstructionResults : Prop :=
  ∀ (s : State) (frD frB crbD : Reg) (crfD crfS : CrField) (imm : BitVec 4) (fm : BitVec 8) (rc : Bool), msrFp s = true →
    let writes (i : Instr) (rc : Bool) (P : State → Nat → Prop) : Prop := FpEnds s (exec i s) fun t =>
      FpscrLegal t ∧ (∀ k, k < 32 → k ≠ 1 → k ≠ 2 → k ≠ 20 → P t k) ∧
      (if rc then CrFieldIs s t 1 (field t.fpscr 0 4) else t.cr = s.cr) ∧
      t = { s with fpscr := t.fpscr, cr := t.cr, pc := s.pc + 4 }
    let old (k : Nat) : Bool := bitAt s.fpscr k
    let causes : List Nat := [3, 4, 5, 6, 7, 8, 9, 10, 11, 12, 21, 22, 23]
    (Goes (exec (.mffs frD rc) s) fun t =>
      field (fprGet t frD) 32 32 = s.fpscr ∧ FpMoveOutcome s { t with freeCtr := s.freeCtr } frD (fprGet t frD) rc) ∧
    writes (.mtfsfi crfD imm rc) rc (fun t k =>
      bitAt t.fpscr k = if k / 4 = crfD.toNat then bitAt imm (k % 4) else old k) ∧
    writes (.mtfsf fm frB rc) rc (fun t k =>
      bitAt t.fpscr k = if bitAt fm (k / 4) then bitAt (fprGet s frB) (32 + k) else old k) ∧
    writes (.mtfsb0 crbD rc) rc (fun t k => bitAt t.fpscr k = (old k && k != crbD.toNat)) ∧
    writes (.mtfsb1 crbD rc) rc (fun t k => bitAt t.fpscr k =
      (old k || k == crbD.toNat || (k == 0 && causes.contains crbD.toNat && !old crbD.toNat))) ∧
    (FpEnds s (exec (.mcrfs crfD crfS) s) fun t =>
      CrFieldIs s t crfD (field s.fpscr (4 * crfS.toNat) 4) ∧ FpscrLegal t ∧
      (∀ k, k < 32 → k ≠ 1 → k ≠ 2 → k ≠ 20 →
        bitAt t.fpscr k = (old k && !(k / 4 = crfS.toNat && (k == 0 || causes.contains k)))) ∧
      t = { s with fpscr := t.fpscr, cr := t.cr, pc := s.pc + 4 })

/-! ## Caches, translation, external control -/

/-- R880 to R887, with no write waiting for a synchronisation (`Settled`). With data translation off the touches do nothing, and
`dcbst`, `dcbf` and (supervisor) `dcbi` change nothing but the memory side; with it on the touches change nothing but the
memory side, whatever the translation says. With it on, in a direct-store segment that no BAT maps all five only advance the pc;
`dcbst` and `dcbf` are translated as loads, `dcbi` as a store: allowed, they change nothing but the memory side, and a page
fault or a protection violation is the DSI with DAR the address, DSISR bit 1 or 4, and bit 6 for `dcbi`. With translation and the L2 off, no device, no TEA and no other master at
work (`Alone`, R250), a block in the data
cache is then: for `dcbst`, there and unmodified, its bytes in memory if it was modified; for `dcbf`, gone, its bytes in
memory if it was modified; for `dcbi`, gone, and memory unchanged; every other way of the cache and every other byte of
memory is as before, and all of them are where the block is not in the cache. `icbi` empties one set of the instruction
cache and does nothing else, but that until a `sync` or a context-synchronising operation a fetch may still hit the blocks it
held (R226, R229), noted in a field of the model. -/
def Obligations.CacheInstructionResults : Prop :=
  ∀ (s : State) (rA rB : Reg),
    let ea := eaX s rA rB
    let done (t : State) : Prop := SameCpu { s with pc := s.pc + 4 } t
    (Settled s → msrDr s = false →
      (∀ i ∈ [Instr.dcbt rA rB, .dcbtst rA rB], exec i s = .next { s with pc := s.pc + 4 }) ∧
      (∀ i ∈ [Instr.dcbst rA rB, .dcbf rA rB], Goes (exec i s) done) ∧ (msrPr s = false → Goes (exec (.dcbi rA rB) s) done)) ∧
    (Settled s → tlbsReady s = true → (batHits s .load ea).length ≤ 1 →
      ∀ i ∈ [Instr.dcbt rA rB, .dcbtst rA rB], Goes (exec i s) done) ∧
    (Settled s → msrDr s = true → tlbsReady s = true → batHits s .load ea = [] → bitAt (srGet s (field ea 0 4)) 0 = true →
      (∀ i ∈ [Instr.dcbt rA rB, .dcbtst rA rB, .dcbst rA rB, .dcbf rA rB], exec i s = .next { s with pc := s.pc + 4 }) ∧
      (msrPr s = false → exec (.dcbi rA rB) s = .next { s with pc := s.pc + 4 })) ∧
    (Settled s → msrDr s = true →
      let translated (k : Access) (store : Word) (i : Instr) : Prop :=
        let dsi (u : State) (dsisr : Word) : Prop :=
          Goes (exec i s) fun t => Entered (withDar u ea (dsisr ||| store)) t 0x300 s.pc 0
        (∀ pa wimg u, translate k ea s = .ok pa wimg u → Goes (exec i s) done) ∧
        (∀ u, (translate k ea s = .viol .pageFault u → dsi u 0x40000000) ∧
          (translate k ea s = .viol .protection u → dsi u 0x08000000))
      translated .load 0 (.dcbst rA rB) ∧ translated .load 0 (.dcbf rA rB) ∧
      (msrPr s = false → translated .store 0x02000000 (.dcbi rA rB))) ∧
    (Settled s → Alone s → msrDr s = false → l2On s = false → s.tea = [] → s.devices = [] → MemoryCanonical s →
      (∀ (w : Fin 8) (b : DBlock), dFind s ea = some w → (dset s (setOf ea)).ways[w] = some b →
        let way (t : State) (x : Option DBlock) : Prop := ∀ (n : Fin 128) (v : Fin 8),
          (dset t n).ways[v] = if n = setOf ea ∧ v = w then x else (dset s n).ways[v]
        let written (t : State) : Prop :=
          (if b.modified then ∀ k : Fin 32, peek t (blockBase (blockOf ea) + BitVec.ofNat 32 k) = b.data[k]
           else t.mem = s.mem) ∧ MemoryOutside s t (blockBase (blockOf ea)) 32
        (Goes (exec (.dcbst rA rB) s) fun t => way t (some { b with modified := false }) ∧ written t) ∧
        (Goes (exec (.dcbf rA rB) s) fun t => way t none ∧ written t) ∧
        (msrPr s = false → Goes (exec (.dcbi rA rB) s) fun t => way t none ∧ t.mem = s.mem)) ∧
      (dFind s ea = none →
        let kept (t : State) : Prop := t.caches = s.caches ∧ t.mem = s.mem
        (∀ i ∈ [Instr.dcbst rA rB, .dcbf rA rB], Goes (exec i s) kept) ∧
        (msrPr s = false → Goes (exec (.dcbi rA rB) s) kept))) ∧
    (Goes (exec (.icbi rA rB) s) fun t =>
      (∀ n : Fin 128, ∀ w : Fin 8, (iset t n).ways[w] = if n = setOf ea then none else (iset s n).ways[w]) ∧
      (∀ n : Fin 128, (iset t n).plru = (iset s n).plru) ∧
      (∀ x, x ∈ t.caches.leaving ↔ x ∈ s.caches.leaving ∨
        ∃ (w : Fin 8) (b : IBlock), (iset s (setOf ea)).ways[w] = some b ∧ x = ⟨b.tag ++ (field ea 20 7 : BitVec 7), b.data⟩) ∧
      t = { s with
        caches := { s.caches with icache := t.caches.icache, leaving := t.caches.leaving }, pc := s.pc + 4 })

/-- R882, R944, R887, with no write waiting for a synchronisation, no other master at work and no data breakpoint: with the data
cache enabled, and translation off or by a BAT pair that allows the store, neither write-through nor caching-inhibited,
`dcbz` makes the block 32 zero bytes in the data cache, modified, and leaves every other way of the cache alone; memory is as
it was (the L2 off, no device, no TEA), but that a modified block it replaces is written there. In a direct-store segment
that no BAT maps it is a no-op; a page fault, or a BAT pair or page that forbids the store, is the DSI of a store; else, with
the data cache disabled or a block or page write-through or caching-inhibited, it takes the alignment exception (DSISR bits
22 to 26 are any value, U14). The order is R882's (notes/assumptions/24.md, DEDUCED: R923 puts alignment before the DSIs, and
R944 names the disabled cache without condition). -/
def Obligations.BlockZeroResults : Prop :=
  ∀ (s : State) (rA rB : Reg), Settled s → Alone s → field s.sup.dabr 30 2 = 0 →
    let ea := eaX s rA rB
    let zeroed (pa : Word) : Prop := Goes (exec (.dcbz rA rB) s) fun t => SameCpu { s with pc := s.pc + 4 } t ∧
      ∃ w b, dFind t pa = some w ∧ (dset t (setOf pa)).ways[w] = some b ∧ b.modified = true ∧
        b.data = Vector.replicate 32 0 ∧
        (∀ (n : Fin 128) (v : Fin 8), ¬ (n = setOf pa ∧ v = w) → (dset t n).ways[v] = (dset s n).ways[v]) ∧
        (∀ w', dFind s pa = some w' → w' = w) ∧
        (l2On s = false → s.tea = [] → s.devices = [] → MemoryCanonical s →
          match (dset s (setOf pa)).ways[w] with
          | some old =>
            if dFind s pa = none ∧ old.modified = true then
              (∀ k : Fin 32, peek t (blockBase (dBlockAddr pa old) + BitVec.ofNat 32 k) = old.data[k]) ∧
              MemoryOutside s t (blockBase (dBlockAddr pa old)) 32
            else t.mem = s.mem
          | none => t.mem = s.mem)
    let aligns (u : State) : Prop := Goes (exec (.dcbz rA rB) s) fun t =>
      ∃ d n, d &&& 0xFFFFFC1F = alignmentDsisr (encode (.dcbz rA rB)) ∧
        Entered { withDar u ea d with freeCtr := n } t 0x600 s.pc 0
    let dsi (dsisr : Word) (u : State) : Prop :=
      Goes (exec (.dcbz rA rB) s) fun t => Entered (withDar u ea dsisr) t 0x300 s.pc 0
    let direct : Prop := msrDr s = true ∧ tlbsReady s = true ∧ batHits s .load ea = [] ∧ bitAt (srGet s (field ea 0 4)) 0 = true
    let uncached (wimg : BitVec 4) : Prop := hidDce s = false ∨ bitAt wimg 0 = true ∨ bitAt wimg 1 = true
    (direct → exec (.dcbz rA rB) s = .next { s with pc := s.pc + 4 }) ∧
    (msrDr s = false → if hidDce s then zeroed ea else aligns s) ∧
    (msrDr s = true → tlbsReady s = true →
      (∀ b, batHits s .load ea = [b] →
        if field b.lower 30 2 ≠ (2 : BitVec 2) then dsi 0x0A000000 s
        else if uncached (field b.lower 25 4) then aligns s else zeroed (batAddress b ea)) ∧
      (∀ u, translate .load ea s = .viol .pageFault u → dsi 0x42000000 u) ∧
      (∀ u, translate .load ea s = .viol .protection u → dsi 0x0A000000 u) ∧
      (∀ pa wimg u, translate .load ea s = .ok pa wimg u →
        (∀ v, translateWith false .store ea u = .viol .protection v → dsi 0x0A000000 v) ∧
        (∀ pa' wimg' v, translateWith false .store ea u = .ok pa' wimg' v → uncached wimg' → aligns v)))

/-- R203, R360 to R368, R435: what a store of a byte, a halfword, a word or a double leaves, a load of the same address reads
back, whatever the data cache holds, locked or not, on or off, wherever the operand lies (with data translation off,
big-endian, the L2 off; the double word-aligned). -/
def Obligations.StoreThenLoad : Prop :=
  ∀ (s : State) (r q rA : Reg) (d : BitVec 16), Settled s → Alone s → msrDr s = false → msrLe s = false → l2On s = false →
    l2Ts s = false → s.tea = [] → s.devices = [] → field s.sup.dabr 30 2 = 0 → MemoryCanonical s →
      let thenLoads (store load : Instr) (P : State → Prop) : Prop :=
        Goes (exec store s) fun t => Goes (exec load t) P
      let x := (gprGet s r).toNat
      thenLoads (.stb r d rA) (.lbz q d rA) (fun u => gprGet u q = BitVec.ofNat 32 (x % 256)) ∧
      thenLoads (.sth r d rA) (.lhz q d rA) (fun u => gprGet u q = BitVec.ofNat 32 (x % 65536)) ∧
      thenLoads (.stw r d rA) (.lwz q d rA) (fun u => gprGet u q = gprGet s r) ∧
      (msrFp s = true → fprReady s r = true → (eaD s rA d).toNat % 4 = 0 →
        thenLoads (.stfd r d rA) (.lfd q d rA) (fun u => fprGet u q = fprGet s r))

/-- R895: `tlbie` empties both ways of one set of both TLBs, whatever the translation enables, and compares no address; the set
then counts as invalidated, in a field of the model; `tlbsync` is passed when TLBISYNC is not asserted; in user mode both
take the privileged-instruction exception. Another master's TLB invalidation does nothing. -/
def Obligations.TlbInstructionResults : Prop :=
  ∀ (s : State) (rB : Reg),
    let row : BitVec 6 := field (gprGet s rB) 14 6
    let emptied (a b : Vector TlbSet 64) : Prop := ∀ j : Fin 64,
      (∀ k : Fin 2, b[j].ways[k] = if j.val = row.toNat then none else a[j].ways[k]) ∧ b[j].lru = a[j].lru
    (msrPr s = false →
      (Goes (exec (.tlbie rB) s) fun t =>
        emptied s.mmu.itlb t.mmu.itlb ∧ emptied s.mmu.dtlb t.mmu.dtlb ∧
        (∀ j, j < 64 → t.mmu.tlbReady.getLsbD j = (decide (j = row.toNat) || s.mmu.tlbReady.getLsbD j)) ∧
        t = { s with
          mmu := { s.mmu with itlb := t.mmu.itlb, dtlb := t.mmu.dtlb, tlbReady := t.mmu.tlbReady }, pc := s.pc + 4 }) ∧
      (s.pins.tlbisync = false → exec .tlbsync s = .next { s with pc := s.pc + 4 })) ∧
    (msrPr s = true → ∀ i ∈ [Instr.tlbie rB, .tlbsync],
      Goes (exec i s) fun t => Entered s t 0x700 s.pc 0x00040000) ∧
    (∀ (g : Bool) (pa : Word), snoop ⟨.tlbInvalidate, g, pa, []⟩ s = .ok () s)

/-- R75, R905, R906, R940: the external control instructions at a word-aligned address: with EAR[E] = 0 the DSI with DSISR bit 11;
else a transfer with the resource id and, through one matching BAT that allows the access, the translated address; `eciwx`
puts any word in rD. Model choices: with translation off both go on with any address (notes/assumptions/17.md, DESIGN
CHOICE; R905 says refuse); DSISR bit 6 of `ecowx` with EAR[E] = 0 (25.md, DEDUCED). -/
def Obligations.ExternalControlResults : Prop :=
  ∀ (s : State) (rD rA rB : Reg), Settled s → Alone s → msrLe s = false → field s.sup.dabr 30 2 = 0 → s.tea = [] →
    let ea := eaX s rA rB
    let rid : BitVec 4 := field s.sup.ear 28 4
    let reads (pa : Word → Prop) : Prop := Goes (exec (.eciwx rD rA rB) s) fun t =>
      (∃ a, pa a ∧ t.busLog = .extRead rid a :: s.busLog) ∧ (∀ r, r ≠ rD → gprGet t r = gprGet s r) ∧
      t = { s with gpr := t.gpr, busLog := t.busLog, freeCtr := t.freeCtr, pc := s.pc + 4 }
    let writes (pa : Word → Prop) : Prop := Goes (exec (.ecowx rD rA rB) s) fun t =>
      (∃ a, pa a ∧ t.busLog = .extWrite rid a (gprGet s rD) :: s.busLog) ∧
      t = { s with busLog := t.busLog, freeCtr := t.freeCtr, pc := s.pc + 4 }
    (bitAt s.sup.ear 0 = false → msrDr s = false →
      (Goes (exec (.eciwx rD rA rB) s) fun t => Entered (withDar s ea 0x00100000) t 0x300 s.pc 0) ∧
      (Goes (exec (.ecowx rD rA rB) s) fun t => Entered (withDar s ea 0x02100000) t 0x300 s.pc 0)) ∧
    (bitAt s.sup.ear 0 = true → ea.toNat % 4 = 0 →
      (msrDr s = false → reads (fun _ => True) ∧ writes (fun _ => True)) ∧
      (msrDr s = true → tlbsReady s = true → ∀ b, batHits s .load ea = [b] →
        (field b.lower 30 2 ≠ 0 → reads (fun a => a = batAddress b ea)) ∧
        (field b.lower 30 2 = 2 → writes (fun a => a = batAddress b ea))))

/-- Translation. R221, R262, R268 to R270, R272, R293: translation off gives the address itself; on, before all 64 sets were
invalidated it stops; the BAT pairs that match are those of R268; one matching pair gives the address its BRPN and block
length make, its attributes, and its protection; two matching pairs stop. R276, R280, R283, R290, R291: with no matching
pair, a direct-store segment and a fetch from a no-execute one are violations; a TLB entry of the virtual page is used,
and answers. R285 to R288, R294, R295: on a TLB miss, and for an allowed store to a page whose C bit the TLB has as 0, the
first matching PTE of the two groups is loaded into the TLB (the way that held the page, else an invalid one, else the
least recently used), its R bit is set, and its C bit for an allowed store; none is a page fault. Model choices: a fetch
that the G bit refuses sets R (notes/assumptions/61.md); the way of the reload that sets C (62.md). -/
def Obligations.BlockTranslationResults : Prop :=
  (∀ (s : State) (ea : Word) (k : Access),
    (realMode s k = true → translate k ea s = .ok ea 0b0011 s) ∧
    (realMode s k = false → tlbsReady s = false → translate k ea s = .fault .tlbNotInvalidated) ∧
    (Settled s → batHits s k ea =
      (if k = .fetch then s.mmu.ibat else s.mmu.dbat).toList.filter fun b => batMatch (msrPr s) b ea) ∧
    (realMode s k = false → tlbsReady s = true → ∀ b, batHits s k ea = [b] →
      let bl : BitVec 11 := field b.upper 19 11
      let pp : BitVec 2 := field b.lower 30 2
      let wimg : BitVec 4 := field b.lower 25 4
      let allowed : Prop := if k = .store then pp = 2 else pp ≠ 0
      (¬ allowed → translate k ea s = .viol .protection s) ∧
      (allowed → k = .fetch → bitAt wimg 3 = true → translate k ea s = .viol .guarded s) ∧
      (allowed → ¬ (k = .fetch ∧ bitAt wimg 3 = true) → ∃ pa, translate k ea s = .ok pa wimg s ∧
        field pa 0 4 = field b.lower 0 4 ∧ field pa 15 17 = field ea 15 17 ∧
        ∀ i, i < 11 → bitAt pa (4 + i) = ((bitAt ea (4 + i) && bitAt bl i) || (bitAt b.lower (4 + i) && !bitAt bl i)))) ∧
    (realMode s k = false → tlbsReady s = true → 2 ≤ (batHits s k ea).length →
      translate k ea s = .fault .multipleBatMatch)) ∧
  (∀ (s : State) (ea : Word) (k : Access), Settled s → realMode s k = false → tlbsReady s = true → batHits s k ea = [] →
    let sr := srGet s (field ea 0 4)
    let vsid : BitVec 24 := field sr 8 24
    let key := bitAt sr (if msrPr s then 2 else 1)
    let set := (tlbOf s k)[(field ea 14 6 : BitVec 6).toFin]
    (bitAt sr 0 = true → translate k ea s = .viol .directStore s) ∧
    (bitAt sr 0 = false → k = .fetch → bitAt sr 3 = true → translate k ea s = .viol .noExecute s) ∧
    (bitAt sr 0 = false → ¬ (k = .fetch ∧ bitAt sr 3 = true) →
      let first (w : Fin 2) (e : TlbEntry) : Prop :=
        TlbHolds s k vsid ea w e ∧ (w = 1 → ∀ e', ¬ TlbHolds s k vsid ea 0 e')
      (∀ w e, first w e → k = .store → pageDenies k key e.pp = true ∨ e.changed = true → ∃ t, TlbUsed s t k ea w e ∧
        t = { s with mmu := { s.mmu with itlb := t.mmu.itlb, dtlb := t.mmu.dtlb } } ∧
        PageAnswer k ea key e (translate k ea s) t) ∧
      (∀ w e, first w e → k ≠ .store → ∃ t, TlbUsed s t k ea w e ∧
        t = { s with mmu := { s.mmu with itlb := t.mmu.itlb, dtlb := t.mmu.dtlb } } ∧
        PageAnswer k ea key e (translate k ea s) t) ∧
      (PlainSearch s → MemoryCanonical s → ∀ w : Fin 2,
        (∃ e, first w e ∧ k = .store ∧ pageDenies k key e.pp = false ∧ e.changed = false) ∨
        ((∀ v e, ¬ TlbHolds s k vsid ea v e) ∧
          w = if set.ways[0] = none then 0 else if set.ways[1] = none then 1 else set.lru.toFin) →
        match pteFound s vsid ea with
        | none => translate k ea s = .viol .pageFault s
        | some pte =>
          let e := pteEntry vsid ea (BitVec.ofNat 32 (valueBig (bytesAt s (pte + 4) 4)))
          let changes := decide (k = .store) && !pageDenies k key e.pp
          ∃ t, TlbUsed s t k ea w { e with changed := e.changed || changes } ∧ PteMarked s t pte changes ∧
            t = { s with
              mem := t.mem, storeQueue := t.storeQueue, mmu := { s.mmu with itlb := t.mmu.itlb, dtlb := t.mmu.dtlb } } ∧
            PageAnswer k ea key e (translate k ea s) t)))

/-! ## Exceptions -/

/-- R215, R730, R740, R770, R905, R944: the alignment exception of the floating-point, multiple, reservation and external control
instructions at an address that is not word-aligned, of the multiple and string instructions in little-endian mode,
and of the string instructions where 43_load_store.md section 6 says so: DAR is the effective address, DSISR tells the
instruction. R940, R262, R280: with data translation on, an address that no BAT maps in a direct-store segment is a
DSI: DAR is the address, DSISR bit 5 is set, and bit 6 for a store; nothing is loaded or stored. R940, R941: the DSI of a
page fault (DSISR bit 1), of the protection (bit 4) and of the data address breakpoint (bit 9), for an operand in one page.
R216, R923: for one that crosses into a second page, of two failures the one R923 puts first is taken: the direct-store
segment of the second page before the page fault of the first. R942: a fetch that has no translation takes the ISI in the
step that would run the instruction, with SRR1 bit 1, 3 or 4; that no implicit branch (R303) comes first is a premise. Model
choices: DAR of a failure in the second page is that page's first byte (notes/assumptions/28.md, PRESUMED: R216 and R940 take it
from general knowledge); in little-endian mode `lswx` and `stswx` of no bytes take the alignment exception too
(notes/assumptions/23.md, DEDUCED: D58). -/
def Obligations.StorageExceptions : Prop :=
  (∀ (s : State) (r rA rB : Reg) (d : BitVec 16) (rc : Bool),
      let takes (i : Instr) (ea : Word) : Prop := Goes (exec i s) fun t =>
        Entered (withDar s ea (alignmentDsisr (encode i))) t 0x600 s.pc 0
      let da := eaD s rA d
      let xa := eaX s rA rB
      let odd (ea : Word) : Prop := ea.toNat % 4 ≠ 0
      (msrFp s = true →
        (odd da → ∀ i ∈ [Instr.lfs r d rA, .lfd r d rA, .stfs r d rA, .stfd r d rA], takes i da) ∧
        (odd xa → ∀ i ∈ [Instr.lfsx r rA rB rc, .lfdx r rA rB rc, .stfsx r rA rB rc, .stfdx r rA rB rc, .stfiwx r rA rB rc],
          takes i xa) ∧
        (rA ≠ 0 → odd (eaDU s rA d) →
          ∀ i ∈ [Instr.lfsu r d rA, .lfdu r d rA, .stfsu r d rA, .stfdu r d rA], takes i (eaDU s rA d)) ∧
        (rA ≠ 0 → odd (eaXU s rA rB) →
          ∀ i ∈ [Instr.lfsux r rA rB rc, .lfdux r rA rB rc, .stfsux r rA rB rc, .stfdux r rA rB rc],
            takes i (eaXU s rA rB))) ∧
      (odd da ∨ msrLe s = true → takes (.stmw r d rA) da ∧ (wellFormed (.lmw r d rA) = true → takes (.lmw r d rA) da)) ∧
      (odd xa → takes (.lwarx r rA rB rc) xa ∧ takes (.stwcxRc r rA rB rc) xa) ∧
      (Settled s → odd xa → bitAt s.sup.ear 0 = true → takes (.eciwx r rA rB) xa ∧ takes (.ecowx r rA rB) xa) ∧
      (msrLe s = true ∨ ¬ StringFits (base s rA) (if rB = 0 then 32 else rB.toNat) →
        takes (.stswi r rA rB rc) (base s rA) ∧
        (wellFormed (.lswi r rA rB rc) = true → takes (.lswi r rA rB rc) (base s rA))) ∧
      (msrLe s = true ∨ ¬ StringFits xa (field s.xer 25 7).toNat →
        takes (.stswx r rA rB rc) xa ∧
        (lswxInvalid r rA rB (field s.xer 25 7).toNat = false → takes (.lswx r rA rB rc) xa))) ∧
  (∀ (s : State) (r rA : Reg) (d : BitVec 16), Settled s →
      let ea := eaD s rA d
      let inPage (n : Nat) (l : List Instr) : List Instr := if ea.toNat % 4096 + n ≤ 4096 then l else []
      let loads : List Instr := .lbz r d rA :: inPage 2 [.lhz r d rA, .lha r d rA] ++ inPage 4 [.lwz r d rA]
      let stores : List Instr := .stb r d rA :: inPage 2 [.sth r d rA] ++ inPage 4 [.stw r d rA]
      let dsi (i : Instr) (u : State) (dsisr : Word) : Prop :=
        Goes (exec i s) fun t => Entered (withDar u ea dsisr) t 0x300 s.pc 0
      (msrDr s = true → tlbsReady s = true → batHits s .load ea = [] → bitAt (srGet s (field ea 0 4)) 0 = true →
        (∀ i ∈ loads, dsi i s 0x04000000) ∧ (∀ i ∈ stores, dsi i s 0x06000000)) ∧
      (∀ u, (translate .load ea s = .viol .pageFault u → ∀ i ∈ loads, dsi i u 0x40000000) ∧
        (translate .load ea s = .viol .protection u → ∀ i ∈ loads, dsi i u 0x08000000) ∧
        (translate .store ea s = .viol .pageFault u → ∀ i ∈ stores, dsi i u 0x42000000) ∧
        (translate .store ea s = .viol .protection u → ∀ i ∈ stores, dsi i u 0x0A000000)) ∧
      (4092 < ea.toNat % 4096 →
        let start : Word := BitVec.ofNat 32 ((ea + 3).toNat / 4096 * 4096)
        ∀ u v, translate .load ea s = .viol .pageFault u → batHits u .load ea = [] →
          translateWith false .load start u = .viol .directStore v →
          Goes (exec (.lwz r d rA) s) fun t => Entered (withDar u start 0x04000000) t 0x300 s.pc 0) ∧
      (field ea 0 29 = field s.sup.dabr 0 29 → bitAt s.sup.dabr 29 = msrDr s → ea.toNat % 4096 ≤ 4092 →
        ∀ u pa wimg,
          (bitAt s.sup.dabr 31 = true → translate .load ea s = .ok pa wimg u → ∀ i ∈ loads, dsi i u 0x00400000) ∧
          (bitAt s.sup.dabr 30 = true → translate .store ea s = .ok pa wimg u → ∀ i ∈ stores, dsi i u 0x02400000))) ∧
  (∀ (s u : State) (v : Violation), Settled s → movesNow s = [] → boundary false (envAdvance s) = none → s.traceDue = false →
      s.fetch.queue = [] → msrLe s = false → implicitBranch (envAdvance s) = false →
      translate .fetch s.pc (envAdvance s) = .viol v u →
        let info : Word := match v with
          | .pageFault => 0x40000000
          | .protection => 0x08000000
          | .directStore | .noExecute | .guarded => 0x10000000
        ∃ t, step s = .next (endStep (envAdvance s) t) ∧ Entered u t 0x400 s.pc info)

/-- R601, R950: with MSR[FP] = 0 every floating-point instruction, loads and stores too, takes the floating-point unavailable
exception and does nothing else. Model reading (DEDUCED, notes/assumptions/22.md): also in the invalid update forms, where
it comes before the refusal. -/
def Obligations.FloatUnavailableResults : Prop :=
  ∀ (s : State) (a b c d : Reg) (n : BitVec 4) (x : BitVec 16) (f g : CrField) (m : BitVec 8) (rc : Bool),
    msrFp s = false →
      ∀ i ∈ fpDoubleInstrs a b c d rc ++ fpSingleInstrs a b c d rc ++
        [.fsel a b c d rc, .fcmpu f a b rc, .fcmpo f a b rc, .mffs a rc, .mcrfs f g, .mtfsfi f n rc, .mtfsf m a rc,
         .mtfsb0 a rc, .mtfsb1 a rc, .fmr a b rc, .fneg a b rc, .fabs a b rc, .fnabs a b rc, .lfs a x b, .lfsx a b c rc,
         .lfsu a x b, .lfsux a b c rc, .lfd a x b, .lfdx a b c rc, .lfdu a x b, .lfdux a b c rc, .stfs a x b,
         .stfsx a b c rc, .stfsu a x b, .stfsux a b c rc, .stfd a x b, .stfdx a b c rc, .stfdu a x b, .stfdux a b c rc,
         .stfiwx a b c rc],
        Goes (exec i s) fun t => Entered s t 0x800 s.pc 0

/-- R923, R933, R936, R937, R943, R951, R960, R963, R964, R981: what a running processor does at an instruction boundary: a
machine check first (a checkstop with MSR[ME] = 0), then a soft reset, then with MSR[EE] = 1 the system management,
external, performance monitor, decrementer and thermal interrupts in this order; the latched condition taken is
cleared (SMI and INT are levels). -/
def Obligations.InterruptPriority : Prop :=
  ∀ s : State, s.run = .running → s.pins.hreset = false → s.pins.ckstpIn = false →
    let it := boundary false s
    let enters (vec info keep : Word) : Prop := ∃ t, it = some t ∧
      t.pc = (if msrIp s then 0xFFF00000 else 0) + vec ∧ t.sup.srr0 = s.pc &&& 0xFFFFFFFC ∧
      t.sup.srr1 = (s.msr &&& 0x87C0FFFF) ||| info ∧ t.msr = (s.msr &&& keep) ||| boolWord (msrIle s) ∧
      t.gpr = s.gpr ∧ t.mem = s.mem ∧ t.run = .running
    if s.latch.machineCheck then
      if msrMe s then enters 0x200 (s.latch.mcCause.setWidth 32 <<< 16) 0x00010040 ∧
        ∀ t, it = some t → t.latch = { s.latch with machineCheck := false, mcCause := 0 }
      else it = some { s with run := .checkstop }
    else if s.latch.sreset then enters 0x100 0 0x00011040 ∧ ∀ t, it = some t → t.latch = { s.latch with sreset := false }
    else if !msrEe s then it = none
    else if s.pins.smi then enters 0x1400 0 0x00011040
    else if s.pins.int then enters 0x500 0 0x00011040
    else if s.perf.pending then enters 0xF00 0 0x00011040 ∧ ∀ t, it = some t → t.perf.pending = false
    else if s.tim.pending then enters 0x900 0 0x00011040 ∧ ∀ t, it = some t → t.tim.pending = false
    else if s.therm.pending then enters 0x1700 0 0x00011040 ∧ ∀ t, it = some t → t.therm.pending = false
    else it = none

/-! ## The platform -/

/-- R1020, R1025, R1026, R1045, R1091: a tick of the time-base clock adds 1 to the time base and takes 1 from the decrementer,
whose condition a change of its bit 0 to 1 raises, unless TBEN is off or the processor sleeps, is in reset or
checkstopped; a counter overflow with its interrupt enabled raises the monitor's condition, clears ENINT, and leaves
in SIA the address of an instruction completed so far (where none has, SIA is unchanged); a temperature beyond a threshold
sets TIN and TIV, and with TIE raises the thermal condition. -/
def Obligations.ClockAndMonitorResults : Prop :=
  ∀ (s : State) (temp : Int),
    let tb (t : State) : Nat := t.tim.tbu.toNat * 2 ^ 32 + t.tim.tbl.toNat
    let runs : Prop := s.pins.tben = true ∧ (s.run = .running ∨ s.run = .doze ∨ s.run = .nap)
    (runs → tb (tick s) = (tb s + 1) % 2 ^ 64 ∧ (tick s).tim.dec = s.tim.dec - 1 ∧
      ((tick s).tim.pending = true ↔ s.tim.pending = true ∨ s.tim.dec = 0) ∧
      tick s = { s with tim := (tick s).tim, perf := (tick s).perf, freeCtr := (tick s).freeCtr }) ∧
    (¬ runs → tick s = s) ∧
    (bitAt s.perf.mmcr0 5 = true → bitAt s.perf.mmcr0 16 = true → bitAt s.perf.pmc1 0 = true →
      let t := pmSignal false .after s
      t.perf.pending = true ∧ t.perf.mmcr0 = s.perf.mmcr0 &&& 0xFBFFFFFF ∧
      (if s.seen.history = [] then t.perf.sia = s.perf.sia else ∃ c ∈ s.seen.history, t.perf.sia = c.address)) ∧
    (s.run = .running → bitAt s.therm.thrm3 31 = true → bitAt s.therm.thrm1 31 = true → s.therm.halt1 = false →
      s.therm.second = false →
      let t := thermSample temp s
      let threshold : Int := (field s.therm.thrm1 2 7).toNat
      let crossed : Prop := if bitAt s.therm.thrm1 29 then temp < threshold else threshold < temp
      (bitAt t.therm.thrm1 0 = true ↔ crossed) ∧ bitAt t.therm.thrm1 1 = true ∧
      (t.therm.pending = true ↔ s.therm.pending = true ∨ (crossed ∧ bitAt s.therm.thrm1 30 = true)))

/-- R96, R937, R1070, R1120: nothing but a hard reset leaves checkstop; a dozing, napping or sleeping processor does nothing until
something wakes it, and an external interrupt with MSR[EE] = 1 does, with MSR[POW] cleared; a hard reset holds the
processor in reset; at the moment of entry MSR[POW], set by an `mtmsr` that asked for a mode, and one mode bit of HID0
bring doze, and nap or sleep once QACK is asserted, with every queued write done. Model choices: a condition that MSR[EE] masks does not wake the processor
(notes/assumptions/36.md, DEDUCED: D33; the sources are silent); the request stays until the moment of entry, and the mode
bits of HID0 at that moment decide (notes/assumptions/13.md, DESIGN CHOICE). -/
def Obligations.PowerAndCheckstop : Prop :=
  ∀ s : State, movesNow s = [] → s.pins.hreset = false →
    (s.run = .checkstop → step s = .next { envAdvance s with supply := ⟨[], []⟩ }) ∧
    (s.run = .doze ∨ s.run = .nap ∨ s.run = .sleep → s.pins.ckstpIn = false → s.latch.sreset = false →
      s.latch.machineCheck = false →
      (msrEe s = false → boundary false s = some s) ∧
      (msrEe s = true → s.pins.smi = false → s.pins.int = true → ∃ t, boundary false s = some t ∧
        Entered { s with run := .running, msr := s.msr &&& 0xFFFBFFFF } t 0x500 s.pc 0)) ∧
    boundary false { s with pins := { s.pins with hreset := true } } =
      some { s with pins := { s.pins with hreset := true }, run := .heldInReset } ∧
    (s.run = .running → s.traceDue = false → bitAt s.msr 13 = true → s.powAsked = true →
      let quiet (m : RunState) : State := if s.pins.qack then { s with run := m, storeQueue := [] } else s
      (field (hid0Now s) 8 3 = 0b100 → powerEntry s = { s with run := .doze }) ∧
      (field (hid0Now s) 8 3 = 0b010 → powerEntry s = quiet .nap) ∧
      (field (hid0Now s) 8 3 = 0b001 → powerEntry s = quiet .sleep))

/-- R238, R370, R429: another master's transaction of each stated type, as a running processor snoops it. The reservation ends
with a kill, a write-with-flush or a write-with-kill of its block, and with any write-with-flush-atomic. Nothing else
happens where the transaction is not global or is of a type that acts on no block; one that acts waits for the pushes of
its block that may not be done (R366, R370), and where it misses does no more. A block it hits in the data
cache (the L2 off), or a sector it hits in the L2 (the data cache off), leaves it for a type that takes the block, and
stays unmodified for one that only reads it; its bytes are in memory if it was modified, but for a write-with-kill, which
loses them. Model choices: it waits for the pushes (notes/assumptions/68.md, DESIGN CHOICE); one that hits a locked way of the
L2 sets L2CR[SHERR], and with SHEE the machine check latch, whatever it does to the sector (81.md, DESIGN CHOICE); a reserved transfer type stops (notes/assumptions/45.md, DEDUCED: R370 states no meaning,
93_implementation_defined.md section 2.3 says refuse); a disabled L2 is not snooped (notes/assumptions/42.md, DEDUCED: D43;
the sources say it of the L1 only). -/
def Obligations.SnoopResults : Prop :=
  (∀ (s : State) (k : SnoopKind) (g : Bool) (pa : Word), s.run = .running → k ≠ .reserved →
    let takes : Prop := k ∈ [SnoopKind.kill, .writeFlush, .readBurst, .rwitm, .writeFlushAtomic, .readAtomicBurst, .rwitmAtomic]
    let reads : Prop := k ∈ [SnoopKind.readSingle, .readAtomicSingle, .rwnitc]
    let ends : Prop := k = .writeFlushAtomic ∨
      (k ∈ [SnoopKind.kill, .writeFlush, .writeKill] ∧ s.resv.block.toNat = pa.toNat / 32)
    let base := blockBase (blockOf pa)
    let written (t : State) (modified : Bool) (d : BlockData) : Prop :=
      (if modified then ∀ j : Fin 32, peek t (base + BitVec.ofNat 32 j) = d[j] else t.mem = s.mem) ∧ MemoryOutside s t base 32
    let after (P : State → Prop) : Prop := ∃ t, snoop ⟨k, g, pa, []⟩ s = .ok () t ∧ P t ∧
      t.resv.block = s.resv.block ∧ (t.resv.held = true ↔ s.resv.held = true ∧ ¬ ends)
    let nothing : Prop := after fun t => t = { s with resv := t.resv }
    let misses : Prop := after fun t => t = settleBlock (blockOf pa) { s with resv := t.resv }
    (g = false ∨ (¬ takes ∧ ¬ reads ∧ k ≠ .writeKill) → nothing) ∧
    (g = true → s.tea = [] → s.devices = [] → MemoryCanonical s →
      (hidDce s = true → l2On s = false →
        (dFind s pa = none → takes ∨ reads ∨ k = .writeKill → misses) ∧
        ∀ w b, dFind s pa = some w → (dset s (setOf pa)).ways[w] = some b →
          let way (t : State) (x : Option DBlock) : Prop :=
            (∀ (n : Fin 128) (v : Fin 8),
              (dset t n).ways[v] = if n = setOf pa ∧ v = w then x else (dset s n).ways[v]) ∧
            t = { s with
              resv := t.resv, caches := { s.caches with dcache := t.caches.dcache }, mem := t.mem, storeQueue := t.storeQueue }
          (takes → after fun t => way t none ∧ written t b.modified b.data) ∧
          (reads → after fun t => way t (some { b with modified := false }) ∧ written t b.modified b.data) ∧
          (k = .writeKill → after fun t => way t none ∧ t.mem = s.mem)) ∧
      (hidDce s = false → l2On s = true →
        (l2Find s pa = none → takes ∨ reads ∨ k = .writeKill → misses) ∧
        ∀ w x, l2Find s pa = some w → (l2Set s pa).ways[w].sectors[l2SectorOf pa] = some x →
          let sector (t : State) (y : Option L2Sector) : Prop := (l2Set t pa).ways[w].sectors[l2SectorOf pa] = y
          (takes → after fun t => sector t none ∧ written t x.modified x.data) ∧
          (reads → after fun t => sector t (some { x with modified := false }) ∧ written t x.modified x.data) ∧
          (k = .writeKill → after fun t => sector t none ∧ t.mem = s.mem) ∧
          (l2Locked s w = true → takes ∨ reads ∨ k = .writeKill → after fun t =>
            bitAt t.hid.l2cr 23 = true ∧ (bitAt s.hid.l2cr 22 = true → t.latch.machineCheck = true))))) ∧
  (∀ (s : State) (g : Bool) (pa : Word) (data : List Byte), snoop ⟨.reserved, g, pa, data⟩ s = .fault .reservedSnoop)

/-- R100, R101, R1120, R1121: the values a hard reset leaves, where the spec gives one; memory is as it was, but for bytes that
stores, pushes and castouts which may not be done had replaced, which may be as before them. Model choice (notes/assumptions/68.md, DESIGN
CHOICE): which of these writes are lost is any number of the newest ones; that they may be is itself derived in R1120. -/
def Obligations.HardResetValues : Prop :=
  ∀ s : State, s.run = .heldInReset → s.pins.hreset = false →
    ∃ t, boundary false s = some t ∧ t.run = .running ∧ t.pc = 0xFFF00100 ∧ t.msr = 0x00000040 ∧ t.cr = 0 ∧ t.fpscr = 0 ∧
      t.xer = 0 ∧ t.lr = 0 ∧ t.ctr = 0 ∧ t.tim.tbu = 0 ∧ t.tim.tbl = 0 ∧ t.tim.dec = 0xFFFFFFFF ∧ t.mmu.sdr1 = 0 ∧
      t.sup.srr0 = 0 ∧ t.sup.srr1 = 0 ∧ t.sup.dsisr = 0 ∧ t.sup.dar = 0 ∧ t.sup.sprg0 = 0 ∧ t.sup.sprg1 = 0 ∧
      t.sup.sprg2 = 0 ∧ t.sup.sprg3 = 0 ∧ field t.sup.dabr 30 2 = 0 ∧ t.hid.hid0 = 0 ∧ field t.hid.hid1 7 25 = 0 ∧
      field t.hid.hid2 29 3 = 0 ∧ t.hid.iabr = 0 ∧ t.hid.l2cr = 0 ∧ t.hid.ictc = 0 ∧ t.perf.mmcr0 = 0 ∧
      t.perf.mmcr1 = 0 ∧ t.perf.sia = 0 ∧ t.therm.thrm1 = 0 ∧ t.therm.thrm2 = 0 ∧ t.therm.thrm3 = 0 ∧
      t.resv.held = false ∧ t.caches.icache = emptyIcache ∧ t.caches.dcache = emptyDcache ∧
      (replacedBytes s.storeQueue = [] → t.mem = s.mem) ∧
      (MemoryCanonical s → ∀ a : Word, peek t a = peek s a ∨
        ∃ e ∈ replacedBytes s.storeQueue, e.l2 = false ∧ BitVec.ofNat 32 e.address = a ∧ peek t a = e.value)

/-! ## The step, the decoder, the invariant -/

/-- R204, R451, R465, R953, R962: where nothing else is due and instructions come straight from memory, a step decodes the word at
the pc and runs it: the step is that of the instruction's meaning, followed by the counting of events and the noting of
a trace; an undefined word takes the illegal-instruction exception; a non-zero reserved field is refused, unless the
instruction is one that takes its privilege or availability exception before that matters (R465 checks 1 to 3; the model's
reading, notes/assumptions/22.md). The fetch notes where the code runs (R303), and that the first fetch after a reset and the
comparison after a write of IABR are over (R101, R1141), all in a field of the model. -/
def Obligations.StepRunsTheDecodedInstruction : Prop :=
  ∀ s : State, Undisturbed s → PlainFetch s → PcAligned s →
    let w := BitVec.ofNat 32 (valueBig (bytesAt s s.pc 4))
    let place : RunningAt := { ea := s.pc, here := field s.pc 0 20, next := some (field (s.pc + 4) 0 20) }
    let here := { envAdvance s with fetch := { noFetch with page := some place } }
    let now := { here with excTaken := false }
    let runs (i : Instr) : Prop :=
      (∀ t, exec i now = .next t → step s = .next (endStep here (complete i here t))) ∧
      (∀ f, exec i now = .fault f → step s = .fault f) ∧ (∀ r, exec i now = .refused r → step s = .refused r)
    (∀ i, decode w = .instr i → runs i) ∧
    (decode w = .illegal → ∃ t, step s = .next (endStep here t) ∧ Entered here t 0x700 s.pc 0x00080000) ∧
    (∀ m i, decode w = .reservedField m i →
      if takesEarly i here then runs i else step s = .refused (.reservedField m))

/-- R953, R793: an instruction that completed without an exception is to be traced exactly if MSR[SE] was 1 before it and it is
no `rfi`, `isync` or `sc`, or MSR[BE] was 1 and it is a branch; a `tlbsync` that waits has not completed (R896); what else
an instruction's end changes are the performance monitor's counters and record. R962, R981: a traced instruction is
followed by the trace exception, with SRR0 the next address; an enabled instruction breakpoint on the next address comes
instead of the instruction and of the trace. Model choice (notes/assumptions/33.md): the trace is a step of its own,
without a fetch; the IABR compared is the one in force (DEDUCED, notes/assumptions/11.md; here no window is open). Model choice (notes/assumptions/51.md, DESIGN CHOICE): a waiting
`tlbsync` answers a next state at its own address. -/
def Obligations.TraceAndBreakpoint : Prop :=
  (∀ (i : Instr) (s t : State), t.excTaken = false → ¬ (i = .tlbsync ∧ s.pins.tlbisync = true) →
    let branch : Prop := (∃ li aa lk, i = .b li aa lk) ∨ (∃ bo bi bd aa lk, i = .bc bo bi bd aa lk) ∨
      (∃ bo bi lk, i = .bclr bo bi lk) ∨ (∃ bo bi lk, i = .bcctr bo bi lk)
    let u := complete i s t
    (u.traceDue = true ↔ (bitAt s.msr 21 = true ∧ i ≠ .rfi ∧ i ≠ .isync ∧ i ≠ .sc) ∨ (bitAt s.msr 22 = true ∧ branch)) ∧
    u = { t with perf := u.perf, seen := u.seen, traceDue := u.traceDue }) ∧
  (∀ s t : State, t.excTaken = false → s.pins.tlbisync = true →
    complete .tlbsync s t = t ∧ (msrPr s = false → exec .tlbsync s = .next s)) ∧
  (∀ (i : Instr) (s t : State), t.excTaken = true → (complete i s t).traceDue = t.traceDue) ∧
  (∀ s : State, Settled s → movesNow s = [] → boundary false (envAdvance s) = none →
    let matched : Prop := bitAt s.hid.iabr 30 = true ∧ field s.hid.iabr 0 30 = field s.pc 0 30 ∧
      bitAt s.hid.iabr 31 = msrIr s
    (s.traceDue = true → ¬ matched →
      ∃ t, step s = .next (endStep (envAdvance s) t) ∧ Entered (envAdvance s) t 0xD00 s.pc 0) ∧
    (matched → s.traceDue = true ∨ PlainFetch s →
      ∃ t, step s = .next (endStep (envAdvance s) t) ∧ Entered (envAdvance s) t 0x1300 s.pc 0))

/-- Words written out from 30_encoding.md decode to the instructions they stand for. -/
def Obligations.DecodeWords : Prop :=
  decode 0x38640005 = .instr (.addi 3 4 5) ∧ decode 0x7C632214 = .instr (.add 3 3 4 false false) ∧
  decode 0x5485103A = .instr (.rlwinm 5 4 2 0 29 false) ∧ decode 0xFC22182A = .instr (.fadd 1 2 3 false) ∧
  decode 0x80830008 = .instr (.lwz 4 8 3) ∧ decode 0x7CA02028 = .instr (.lwarx 5 0 4 false) ∧
  decode 0x41820010 = .instr (.bc 12 2 4 false false) ∧ decode 0x44000002 = .instr .sc ∧
  decode 0x7C6802A6 = .instr (.mfspr 3 8 false) ∧ decode 0x7C0037EC = .instr (.dcbz 0 6) ∧
  decode 0x48000010 = .instr (.b 4 false false) ∧ decode 0x4E800020 = .instr (.bclr 20 0 false) ∧
  decode 0x4C000064 = .instr .rfi ∧ decode 0xFDFE0D8E = .instr (.mtfsf 255 1 false) ∧
  decode 0x00000000 = .illegal ∧ decode 0x4C000065 = .reservedField "rfi" .rfi

/-- R440 to R465: decoding and encoding agree: every instruction is read back from its word, and every word that decodes to an
instruction is that instruction's. -/
def Obligations.DecodeAndEncodeAgree : Prop :=
  (∀ i, wellFormed i = true → decode (encode i) = .instr i) ∧ (∀ w i, decode w = .instr i → encode i = w)

/-- The invariant holds after reset. -/
def Obligations.InvariantAtReset : Prop := Invariant State.reset

/-- Every step keeps the invariant: memory canonical, the pc a word address, the bits of the MSR, XER and FPSCR that hold nothing
0, FEX and VX what the other FPSCR bits make them (R43, R44, R47, R62, R602). -/
def Obligations.InvariantKept : Prop :=
  ∀ s t : State, Invariant s → step s = .next t → Invariant t

/-- R970, R971: an instruction executed in user mode that takes no exception leaves the MSR and every supervisor register
as it was: exception registers, segment and BAT registers, SDR1, the control registers, the timers, the performance
monitor, the thermal unit; only another master's transaction laid into it may set L2CR[SHERR] (R427); and an exception it
takes leads to supervisor mode. -/
def Obligations.UserModeConfined : Prop :=
  ∀ (s t : State) (i : Instr), msrPr s = true → exec i { s with excTaken := false } = .next t →
    (t.excTaken = false →
      t.msr = s.msr ∧ t.sup = s.sup ∧ t.hid = { s.hid with l2cr := t.hid.l2cr } ∧ (Alone s → t.hid = s.hid) ∧
      t.perf = s.perf ∧
      t.therm = s.therm ∧ t.tim = s.tim ∧ t.mmu = { s.mmu with itlb := t.mmu.itlb, dtlb := t.mmu.dtlb }) ∧
    (t.excTaken = true → msrPr t = false)
end

