-- ==== Sys2Proof/Laws/State.lean ====
section
/-! SUPPORT. One lemma per field per update: what each operation writes, and that it leaves every other field alone. All
are true by `rfl` and simp lemmas, so that no proof unfolds an update of the state. -/

namespace Sys2Proof.Machine

/-! ## `gprSet` -/

@[simp] theorem gprSet_gpr (s : State) (r : Reg) (v : Word) : (gprSet s r v).gpr = s.gpr.set r.toNat v r.isLt := rfl
@[simp] theorem gprSet_fpr (s : State) (r : Reg) (v : Word) : (gprSet s r v).fpr = s.fpr := rfl
@[simp] theorem gprSet_fprInit (s : State) (r : Reg) (v : Word) : (gprSet s r v).fprInit = s.fprInit := rfl
@[simp] theorem gprSet_cr (s : State) (r : Reg) (v : Word) : (gprSet s r v).cr = s.cr := rfl
@[simp] theorem gprSet_fpscr (s : State) (r : Reg) (v : Word) : (gprSet s r v).fpscr = s.fpscr := rfl
@[simp] theorem gprSet_xer (s : State) (r : Reg) (v : Word) : (gprSet s r v).xer = s.xer := rfl
@[simp] theorem gprSet_lr (s : State) (r : Reg) (v : Word) : (gprSet s r v).lr = s.lr := rfl
@[simp] theorem gprSet_ctr (s : State) (r : Reg) (v : Word) : (gprSet s r v).ctr = s.ctr := rfl
@[simp] theorem gprSet_pc (s : State) (r : Reg) (v : Word) : (gprSet s r v).pc = s.pc := rfl
@[simp] theorem gprSet_msr (s : State) (r : Reg) (v : Word) : (gprSet s r v).msr = s.msr := rfl
@[simp] theorem gprSet_sup (s : State) (r : Reg) (v : Word) : (gprSet s r v).sup = s.sup := rfl
@[simp] theorem gprSet_mmu (s : State) (r : Reg) (v : Word) : (gprSet s r v).mmu = s.mmu := rfl
@[simp] theorem gprSet_hid (s : State) (r : Reg) (v : Word) : (gprSet s r v).hid = s.hid := rfl
@[simp] theorem gprSet_perf (s : State) (r : Reg) (v : Word) : (gprSet s r v).perf = s.perf := rfl
@[simp] theorem gprSet_therm (s : State) (r : Reg) (v : Word) : (gprSet s r v).therm = s.therm := rfl
@[simp] theorem gprSet_tim (s : State) (r : Reg) (v : Word) : (gprSet s r v).tim = s.tim := rfl
@[simp] theorem gprSet_resv (s : State) (r : Reg) (v : Word) : (gprSet s r v).resv = s.resv := rfl
@[simp] theorem gprSet_caches (s : State) (r : Reg) (v : Word) : (gprSet s r v).caches = s.caches := rfl
@[simp] theorem gprSet_latch (s : State) (r : Reg) (v : Word) : (gprSet s r v).latch = s.latch := rfl
@[simp] theorem gprSet_pins (s : State) (r : Reg) (v : Word) : (gprSet s r v).pins = s.pins := rfl
@[simp] theorem gprSet_run (s : State) (r : Reg) (v : Word) : (gprSet s r v).run = s.run := rfl
@[simp] theorem gprSet_mem (s : State) (r : Reg) (v : Word) : (gprSet s r v).mem = s.mem := rfl
@[simp] theorem gprSet_tea (s : State) (r : Reg) (v : Word) : (gprSet s r v).tea = s.tea := rfl
@[simp] theorem gprSet_devices (s : State) (r : Reg) (v : Word) : (gprSet s r v).devices = s.devices := rfl
@[simp] theorem gprSet_storeQueue (s : State) (r : Reg) (v : Word) : (gprSet s r v).storeQueue = s.storeQueue := rfl
@[simp] theorem gprSet_busLog (s : State) (r : Reg) (v : Word) : (gprSet s r v).busLog = s.busLog := rfl
@[simp] theorem gprSet_freeCtr (s : State) (r : Reg) (v : Word) : (gprSet s r v).freeCtr = s.freeCtr := rfl
@[simp] theorem gprSet_excTaken (s : State) (r : Reg) (v : Word) : (gprSet s r v).excTaken = s.excTaken := rfl
@[simp] theorem gprSet_traceDue (s : State) (r : Reg) (v : Word) : (gprSet s r v).traceDue = s.traceDue := rfl
@[simp] theorem gprSet_powAsked (s : State) (r : Reg) (v : Word) : (gprSet s r v).powAsked = s.powAsked := rfl
@[simp] theorem gprSet_ctx (s : State) (r : Reg) (v : Word) : (gprSet s r v).ctx = s.ctx := rfl
@[simp] theorem gprSet_fetch (s : State) (r : Reg) (v : Word) : (gprSet s r v).fetch = s.fetch := rfl
@[simp] theorem gprSet_seen (s : State) (r : Reg) (v : Word) : (gprSet s r v).seen = s.seen := rfl
@[simp] theorem gprSet_supply (s : State) (r : Reg) (v : Word) : (gprSet s r v).supply = s.supply := rfl
@[simp] theorem gprSet_env (s : State) (r : Reg) (v : Word) : (gprSet s r v).env = s.env := rfl

/-! ## `fprSet` -/

@[simp] theorem fprSet_gpr (s : State) (r : Reg) (v : DWord) : (fprSet s r v).gpr = s.gpr := rfl
@[simp] theorem fprSet_fpr (s : State) (r : Reg) (v : DWord) : (fprSet s r v).fpr = s.fpr.set r.toNat v r.isLt := rfl
@[simp] theorem fprSet_fprInit (s : State) (r : Reg) (v : DWord) : (fprSet s r v).fprInit = s.fprInit ||| maskBit r.toNat := rfl
@[simp] theorem fprSet_cr (s : State) (r : Reg) (v : DWord) : (fprSet s r v).cr = s.cr := rfl
@[simp] theorem fprSet_fpscr (s : State) (r : Reg) (v : DWord) : (fprSet s r v).fpscr = s.fpscr := rfl
@[simp] theorem fprSet_xer (s : State) (r : Reg) (v : DWord) : (fprSet s r v).xer = s.xer := rfl
@[simp] theorem fprSet_lr (s : State) (r : Reg) (v : DWord) : (fprSet s r v).lr = s.lr := rfl
@[simp] theorem fprSet_ctr (s : State) (r : Reg) (v : DWord) : (fprSet s r v).ctr = s.ctr := rfl
@[simp] theorem fprSet_pc (s : State) (r : Reg) (v : DWord) : (fprSet s r v).pc = s.pc := rfl
@[simp] theorem fprSet_msr (s : State) (r : Reg) (v : DWord) : (fprSet s r v).msr = s.msr := rfl
@[simp] theorem fprSet_sup (s : State) (r : Reg) (v : DWord) : (fprSet s r v).sup = s.sup := rfl
@[simp] theorem fprSet_mmu (s : State) (r : Reg) (v : DWord) : (fprSet s r v).mmu = s.mmu := rfl
@[simp] theorem fprSet_hid (s : State) (r : Reg) (v : DWord) : (fprSet s r v).hid = s.hid := rfl
@[simp] theorem fprSet_perf (s : State) (r : Reg) (v : DWord) : (fprSet s r v).perf = s.perf := rfl
@[simp] theorem fprSet_therm (s : State) (r : Reg) (v : DWord) : (fprSet s r v).therm = s.therm := rfl
@[simp] theorem fprSet_tim (s : State) (r : Reg) (v : DWord) : (fprSet s r v).tim = s.tim := rfl
@[simp] theorem fprSet_resv (s : State) (r : Reg) (v : DWord) : (fprSet s r v).resv = s.resv := rfl
@[simp] theorem fprSet_caches (s : State) (r : Reg) (v : DWord) : (fprSet s r v).caches = s.caches := rfl
@[simp] theorem fprSet_latch (s : State) (r : Reg) (v : DWord) : (fprSet s r v).latch = s.latch := rfl
@[simp] theorem fprSet_pins (s : State) (r : Reg) (v : DWord) : (fprSet s r v).pins = s.pins := rfl
@[simp] theorem fprSet_run (s : State) (r : Reg) (v : DWord) : (fprSet s r v).run = s.run := rfl
@[simp] theorem fprSet_mem (s : State) (r : Reg) (v : DWord) : (fprSet s r v).mem = s.mem := rfl
@[simp] theorem fprSet_tea (s : State) (r : Reg) (v : DWord) : (fprSet s r v).tea = s.tea := rfl
@[simp] theorem fprSet_devices (s : State) (r : Reg) (v : DWord) : (fprSet s r v).devices = s.devices := rfl
@[simp] theorem fprSet_storeQueue (s : State) (r : Reg) (v : DWord) : (fprSet s r v).storeQueue = s.storeQueue := rfl
@[simp] theorem fprSet_busLog (s : State) (r : Reg) (v : DWord) : (fprSet s r v).busLog = s.busLog := rfl
@[simp] theorem fprSet_freeCtr (s : State) (r : Reg) (v : DWord) : (fprSet s r v).freeCtr = s.freeCtr := rfl
@[simp] theorem fprSet_excTaken (s : State) (r : Reg) (v : DWord) : (fprSet s r v).excTaken = s.excTaken := rfl
@[simp] theorem fprSet_traceDue (s : State) (r : Reg) (v : DWord) : (fprSet s r v).traceDue = s.traceDue := rfl
@[simp] theorem fprSet_powAsked (s : State) (r : Reg) (v : DWord) : (fprSet s r v).powAsked = s.powAsked := rfl
@[simp] theorem fprSet_ctx (s : State) (r : Reg) (v : DWord) : (fprSet s r v).ctx = s.ctx := rfl
@[simp] theorem fprSet_fetch (s : State) (r : Reg) (v : DWord) : (fprSet s r v).fetch = s.fetch := rfl
@[simp] theorem fprSet_seen (s : State) (r : Reg) (v : DWord) : (fprSet s r v).seen = s.seen := rfl
@[simp] theorem fprSet_supply (s : State) (r : Reg) (v : DWord) : (fprSet s r v).supply = s.supply := rfl
@[simp] theorem fprSet_env (s : State) (r : Reg) (v : DWord) : (fprSet s r v).env = s.env := rfl

/-! ## `srSet` -/

@[simp] theorem srSet_gpr (s : State) (n : BitVec 4) (v : Word) : (srSet s n v).gpr = s.gpr := rfl
@[simp] theorem srSet_fpr (s : State) (n : BitVec 4) (v : Word) : (srSet s n v).fpr = s.fpr := rfl
@[simp] theorem srSet_fprInit (s : State) (n : BitVec 4) (v : Word) : (srSet s n v).fprInit = s.fprInit := rfl
@[simp] theorem srSet_cr (s : State) (n : BitVec 4) (v : Word) : (srSet s n v).cr = s.cr := rfl
@[simp] theorem srSet_fpscr (s : State) (n : BitVec 4) (v : Word) : (srSet s n v).fpscr = s.fpscr := rfl
@[simp] theorem srSet_xer (s : State) (n : BitVec 4) (v : Word) : (srSet s n v).xer = s.xer := rfl
@[simp] theorem srSet_lr (s : State) (n : BitVec 4) (v : Word) : (srSet s n v).lr = s.lr := rfl
@[simp] theorem srSet_ctr (s : State) (n : BitVec 4) (v : Word) : (srSet s n v).ctr = s.ctr := rfl
@[simp] theorem srSet_pc (s : State) (n : BitVec 4) (v : Word) : (srSet s n v).pc = s.pc := rfl
@[simp] theorem srSet_msr (s : State) (n : BitVec 4) (v : Word) : (srSet s n v).msr = s.msr := rfl
@[simp] theorem srSet_sup (s : State) (n : BitVec 4) (v : Word) : (srSet s n v).sup = s.sup := rfl
@[simp] theorem srSet_mmu (s : State) (n : BitVec 4) (v : Word) : (srSet s n v).mmu = { s.mmu with sr := s.mmu.sr.set n.toNat v n.isLt } := rfl
@[simp] theorem srSet_hid (s : State) (n : BitVec 4) (v : Word) : (srSet s n v).hid = s.hid := rfl
@[simp] theorem srSet_perf (s : State) (n : BitVec 4) (v : Word) : (srSet s n v).perf = s.perf := rfl
@[simp] theorem srSet_therm (s : State) (n : BitVec 4) (v : Word) : (srSet s n v).therm = s.therm := rfl
@[simp] theorem srSet_tim (s : State) (n : BitVec 4) (v : Word) : (srSet s n v).tim = s.tim := rfl
@[simp] theorem srSet_resv (s : State) (n : BitVec 4) (v : Word) : (srSet s n v).resv = s.resv := rfl
@[simp] theorem srSet_caches (s : State) (n : BitVec 4) (v : Word) : (srSet s n v).caches = s.caches := rfl
@[simp] theorem srSet_latch (s : State) (n : BitVec 4) (v : Word) : (srSet s n v).latch = s.latch := rfl
@[simp] theorem srSet_pins (s : State) (n : BitVec 4) (v : Word) : (srSet s n v).pins = s.pins := rfl
@[simp] theorem srSet_run (s : State) (n : BitVec 4) (v : Word) : (srSet s n v).run = s.run := rfl
@[simp] theorem srSet_mem (s : State) (n : BitVec 4) (v : Word) : (srSet s n v).mem = s.mem := rfl
@[simp] theorem srSet_tea (s : State) (n : BitVec 4) (v : Word) : (srSet s n v).tea = s.tea := rfl
@[simp] theorem srSet_devices (s : State) (n : BitVec 4) (v : Word) : (srSet s n v).devices = s.devices := rfl
@[simp] theorem srSet_storeQueue (s : State) (n : BitVec 4) (v : Word) : (srSet s n v).storeQueue = s.storeQueue := rfl
@[simp] theorem srSet_busLog (s : State) (n : BitVec 4) (v : Word) : (srSet s n v).busLog = s.busLog := rfl
@[simp] theorem srSet_freeCtr (s : State) (n : BitVec 4) (v : Word) : (srSet s n v).freeCtr = s.freeCtr := rfl
@[simp] theorem srSet_excTaken (s : State) (n : BitVec 4) (v : Word) : (srSet s n v).excTaken = s.excTaken := rfl
@[simp] theorem srSet_traceDue (s : State) (n : BitVec 4) (v : Word) : (srSet s n v).traceDue = s.traceDue := rfl
@[simp] theorem srSet_powAsked (s : State) (n : BitVec 4) (v : Word) : (srSet s n v).powAsked = s.powAsked := rfl
@[simp] theorem srSet_ctx (s : State) (n : BitVec 4) (v : Word) : (srSet s n v).ctx = s.ctx := rfl
@[simp] theorem srSet_fetch (s : State) (n : BitVec 4) (v : Word) : (srSet s n v).fetch = s.fetch := rfl
@[simp] theorem srSet_seen (s : State) (n : BitVec 4) (v : Word) : (srSet s n v).seen = s.seen := rfl
@[simp] theorem srSet_supply (s : State) (n : BitVec 4) (v : Word) : (srSet s n v).supply = s.supply := rfl
@[simp] theorem srSet_env (s : State) (n : BitVec 4) (v : Word) : (srSet s n v).env = s.env := rfl

/-! ## `advance` -/

@[simp] theorem advance_gpr (s : State) : (advance s).gpr = s.gpr := rfl
@[simp] theorem advance_fpr (s : State) : (advance s).fpr = s.fpr := rfl
@[simp] theorem advance_fprInit (s : State) : (advance s).fprInit = s.fprInit := rfl
@[simp] theorem advance_cr (s : State) : (advance s).cr = s.cr := rfl
@[simp] theorem advance_fpscr (s : State) : (advance s).fpscr = s.fpscr := rfl
@[simp] theorem advance_xer (s : State) : (advance s).xer = s.xer := rfl
@[simp] theorem advance_lr (s : State) : (advance s).lr = s.lr := rfl
@[simp] theorem advance_ctr (s : State) : (advance s).ctr = s.ctr := rfl
@[simp] theorem advance_pc (s : State) : (advance s).pc = s.pc + 4 := rfl
@[simp] theorem advance_msr (s : State) : (advance s).msr = s.msr := rfl
@[simp] theorem advance_sup (s : State) : (advance s).sup = s.sup := rfl
@[simp] theorem advance_mmu (s : State) : (advance s).mmu = s.mmu := rfl
@[simp] theorem advance_hid (s : State) : (advance s).hid = s.hid := rfl
@[simp] theorem advance_perf (s : State) : (advance s).perf = s.perf := rfl
@[simp] theorem advance_therm (s : State) : (advance s).therm = s.therm := rfl
@[simp] theorem advance_tim (s : State) : (advance s).tim = s.tim := rfl
@[simp] theorem advance_resv (s : State) : (advance s).resv = s.resv := rfl
@[simp] theorem advance_caches (s : State) : (advance s).caches = s.caches := rfl
@[simp] theorem advance_latch (s : State) : (advance s).latch = s.latch := rfl
@[simp] theorem advance_pins (s : State) : (advance s).pins = s.pins := rfl
@[simp] theorem advance_run (s : State) : (advance s).run = s.run := rfl
@[simp] theorem advance_mem (s : State) : (advance s).mem = s.mem := rfl
@[simp] theorem advance_tea (s : State) : (advance s).tea = s.tea := rfl
@[simp] theorem advance_devices (s : State) : (advance s).devices = s.devices := rfl
@[simp] theorem advance_storeQueue (s : State) : (advance s).storeQueue = s.storeQueue := rfl
@[simp] theorem advance_busLog (s : State) : (advance s).busLog = s.busLog := rfl
@[simp] theorem advance_freeCtr (s : State) : (advance s).freeCtr = s.freeCtr := rfl
@[simp] theorem advance_excTaken (s : State) : (advance s).excTaken = s.excTaken := rfl
@[simp] theorem advance_traceDue (s : State) : (advance s).traceDue = s.traceDue := rfl
@[simp] theorem advance_powAsked (s : State) : (advance s).powAsked = s.powAsked := rfl
@[simp] theorem advance_ctx (s : State) : (advance s).ctx = s.ctx := rfl
@[simp] theorem advance_fetch (s : State) : (advance s).fetch = s.fetch := rfl
@[simp] theorem advance_seen (s : State) : (advance s).seen = s.seen := rfl
@[simp] theorem advance_supply (s : State) : (advance s).supply = s.supply := rfl
@[simp] theorem advance_env (s : State) : (advance s).env = s.env := rfl

/-! ## `contextSync` -/

@[simp] theorem contextSync_gpr (s : State) : (contextSync s).gpr = s.gpr := rfl
@[simp] theorem contextSync_fpr (s : State) : (contextSync s).fpr = s.fpr := rfl
@[simp] theorem contextSync_fprInit (s : State) : (contextSync s).fprInit = s.fprInit := rfl
@[simp] theorem contextSync_cr (s : State) : (contextSync s).cr = s.cr := rfl
@[simp] theorem contextSync_fpscr (s : State) : (contextSync s).fpscr = s.fpscr := rfl
@[simp] theorem contextSync_xer (s : State) : (contextSync s).xer = s.xer := rfl
@[simp] theorem contextSync_lr (s : State) : (contextSync s).lr = s.lr := rfl
@[simp] theorem contextSync_ctr (s : State) : (contextSync s).ctr = s.ctr := rfl
@[simp] theorem contextSync_pc (s : State) : (contextSync s).pc = s.pc := rfl
@[simp] theorem contextSync_msr (s : State) : (contextSync s).msr = s.msr := rfl
@[simp] theorem contextSync_sup (s : State) : (contextSync s).sup = s.sup := rfl
@[simp] theorem contextSync_mmu (s : State) : (contextSync s).mmu = s.mmu := rfl
@[simp] theorem contextSync_hid (s : State) : (contextSync s).hid = s.hid := rfl
@[simp] theorem contextSync_perf (s : State) : (contextSync s).perf = s.perf := rfl
@[simp] theorem contextSync_therm (s : State) : (contextSync s).therm = s.therm := rfl
@[simp] theorem contextSync_tim (s : State) : (contextSync s).tim = s.tim := rfl
@[simp] theorem contextSync_resv (s : State) : (contextSync s).resv = s.resv := rfl
@[simp] theorem contextSync_caches (s : State) : (contextSync s).caches = { s.caches with leaving := [] } := rfl
@[simp] theorem contextSync_latch (s : State) : (contextSync s).latch = s.latch := rfl
@[simp] theorem contextSync_pins (s : State) : (contextSync s).pins = s.pins := rfl
@[simp] theorem contextSync_run (s : State) : (contextSync s).run = s.run := rfl
@[simp] theorem contextSync_mem (s : State) : (contextSync s).mem = s.mem := rfl
@[simp] theorem contextSync_tea (s : State) : (contextSync s).tea = s.tea := rfl
@[simp] theorem contextSync_devices (s : State) : (contextSync s).devices = s.devices := rfl
@[simp] theorem contextSync_storeQueue (s : State) : (contextSync s).storeQueue = s.storeQueue := rfl
@[simp] theorem contextSync_busLog (s : State) : (contextSync s).busLog = s.busLog := rfl
@[simp] theorem contextSync_freeCtr (s : State) : (contextSync s).freeCtr = s.freeCtr := rfl
@[simp] theorem contextSync_excTaken (s : State) : (contextSync s).excTaken = s.excTaken := rfl
@[simp] theorem contextSync_traceDue (s : State) : (contextSync s).traceDue = s.traceDue := rfl
@[simp] theorem contextSync_powAsked (s : State) : (contextSync s).powAsked = s.powAsked := rfl
@[simp] theorem contextSync_ctx (s : State) : (contextSync s).ctx = ⟨[], []⟩ := rfl
@[simp] theorem contextSync_fetch (s : State) : (contextSync s).fetch = { s.fetch with queue := [] } := rfl
@[simp] theorem contextSync_seen (s : State) : (contextSync s).seen = s.seen := rfl
@[simp] theorem contextSync_supply (s : State) : (contextSync s).supply = s.supply := rfl
@[simp] theorem contextSync_env (s : State) : (contextSync s).env = s.env := rfl

/-! ## `enterWith` -/

@[simp] theorem enterWith_gpr (keep vec a info : Word) (s : State) : (enterWith keep vec a info s).gpr = s.gpr := rfl
@[simp] theorem enterWith_fpr (keep vec a info : Word) (s : State) : (enterWith keep vec a info s).fpr = s.fpr := rfl
@[simp] theorem enterWith_fprInit (keep vec a info : Word) (s : State) : (enterWith keep vec a info s).fprInit = s.fprInit := rfl
@[simp] theorem enterWith_cr (keep vec a info : Word) (s : State) : (enterWith keep vec a info s).cr = s.cr := rfl
@[simp] theorem enterWith_fpscr (keep vec a info : Word) (s : State) : (enterWith keep vec a info s).fpscr = s.fpscr := rfl
@[simp] theorem enterWith_xer (keep vec a info : Word) (s : State) : (enterWith keep vec a info s).xer = s.xer := rfl
@[simp] theorem enterWith_lr (keep vec a info : Word) (s : State) : (enterWith keep vec a info s).lr = s.lr := rfl
@[simp] theorem enterWith_ctr (keep vec a info : Word) (s : State) : (enterWith keep vec a info s).ctr = s.ctr := rfl
@[simp] theorem enterWith_pc (keep vec a info : Word) (s : State) : (enterWith keep vec a info s).pc = vectorBase s + vec := rfl
@[simp] theorem enterWith_msr (keep vec a info : Word) (s : State) : (enterWith keep vec a info s).msr = msrAfterEntry keep s.msr := rfl
@[simp] theorem enterWith_sup (keep vec a info : Word) (s : State) : (enterWith keep vec a info s).sup = { s.sup with srr0 := a &&& 0xFFFFFFFC, srr1 := (s.msr &&& 0x87C0FFFF) ||| info } := rfl
@[simp] theorem enterWith_mmu (keep vec a info : Word) (s : State) : (enterWith keep vec a info s).mmu = s.mmu := rfl
@[simp] theorem enterWith_hid (keep vec a info : Word) (s : State) : (enterWith keep vec a info s).hid = s.hid := rfl
@[simp] theorem enterWith_perf (keep vec a info : Word) (s : State) : (enterWith keep vec a info s).perf = s.perf := rfl
@[simp] theorem enterWith_therm (keep vec a info : Word) (s : State) : (enterWith keep vec a info s).therm = s.therm := rfl
@[simp] theorem enterWith_tim (keep vec a info : Word) (s : State) : (enterWith keep vec a info s).tim = s.tim := rfl
@[simp] theorem enterWith_resv (keep vec a info : Word) (s : State) : (enterWith keep vec a info s).resv = s.resv := rfl
@[simp] theorem enterWith_caches (keep vec a info : Word) (s : State) : (enterWith keep vec a info s).caches = s.caches := rfl
@[simp] theorem enterWith_latch (keep vec a info : Word) (s : State) : (enterWith keep vec a info s).latch = s.latch := rfl
@[simp] theorem enterWith_pins (keep vec a info : Word) (s : State) : (enterWith keep vec a info s).pins = s.pins := rfl
@[simp] theorem enterWith_run (keep vec a info : Word) (s : State) : (enterWith keep vec a info s).run = s.run := rfl
@[simp] theorem enterWith_mem (keep vec a info : Word) (s : State) : (enterWith keep vec a info s).mem = s.mem := rfl
@[simp] theorem enterWith_tea (keep vec a info : Word) (s : State) : (enterWith keep vec a info s).tea = s.tea := rfl
@[simp] theorem enterWith_devices (keep vec a info : Word) (s : State) : (enterWith keep vec a info s).devices = s.devices := rfl
@[simp] theorem enterWith_storeQueue (keep vec a info : Word) (s : State) : (enterWith keep vec a info s).storeQueue = pushesIn s.storeQueue := rfl
@[simp] theorem enterWith_busLog (keep vec a info : Word) (s : State) : (enterWith keep vec a info s).busLog = s.busLog := rfl
@[simp] theorem enterWith_freeCtr (keep vec a info : Word) (s : State) : (enterWith keep vec a info s).freeCtr = s.freeCtr := rfl
@[simp] theorem enterWith_excTaken (keep vec a info : Word) (s : State) : (enterWith keep vec a info s).excTaken = true := rfl
@[simp] theorem enterWith_traceDue (keep vec a info : Word) (s : State) : (enterWith keep vec a info s).traceDue = false := rfl
@[simp] theorem enterWith_powAsked (keep vec a info : Word) (s : State) : (enterWith keep vec a info s).powAsked = false := rfl
@[simp] theorem enterWith_ctx (keep vec a info : Word) (s : State) : (enterWith keep vec a info s).ctx = withoutMsr s.ctx := rfl
@[simp] theorem enterWith_fetch (keep vec a info : Word) (s : State) : (enterWith keep vec a info s).fetch = noFetch := rfl
@[simp] theorem enterWith_seen (keep vec a info : Word) (s : State) : (enterWith keep vec a info s).seen = s.seen := rfl
@[simp] theorem enterWith_supply (keep vec a info : Word) (s : State) : (enterWith keep vec a info s).supply = s.supply := rfl
@[simp] theorem enterWith_env (keep vec a info : Word) (s : State) : (enterWith keep vec a info s).env = s.env := rfl

/-! ## `takeException` -/

@[simp] theorem takeException_gpr (vec a info : Word) (s : State) : (takeException vec a info s).gpr = s.gpr := rfl
@[simp] theorem takeException_fpr (vec a info : Word) (s : State) : (takeException vec a info s).fpr = s.fpr := rfl
@[simp] theorem takeException_fprInit (vec a info : Word) (s : State) : (takeException vec a info s).fprInit = s.fprInit := rfl
@[simp] theorem takeException_cr (vec a info : Word) (s : State) : (takeException vec a info s).cr = s.cr := rfl
@[simp] theorem takeException_fpscr (vec a info : Word) (s : State) : (takeException vec a info s).fpscr = s.fpscr := rfl
@[simp] theorem takeException_xer (vec a info : Word) (s : State) : (takeException vec a info s).xer = s.xer := rfl
@[simp] theorem takeException_lr (vec a info : Word) (s : State) : (takeException vec a info s).lr = s.lr := rfl
@[simp] theorem takeException_ctr (vec a info : Word) (s : State) : (takeException vec a info s).ctr = s.ctr := rfl
@[simp] theorem takeException_pc (vec a info : Word) (s : State) : (takeException vec a info s).pc = vectorBase s + vec := rfl
@[simp] theorem takeException_msr (vec a info : Word) (s : State) : (takeException vec a info s).msr = msrAfterEntry 0x00011040 s.msr := rfl
@[simp] theorem takeException_sup (vec a info : Word) (s : State) : (takeException vec a info s).sup = { s.sup with srr0 := a &&& 0xFFFFFFFC, srr1 := (s.msr &&& 0x87C0FFFF) ||| info } := rfl
@[simp] theorem takeException_mmu (vec a info : Word) (s : State) : (takeException vec a info s).mmu = s.mmu := rfl
@[simp] theorem takeException_hid (vec a info : Word) (s : State) : (takeException vec a info s).hid = s.hid := rfl
@[simp] theorem takeException_perf (vec a info : Word) (s : State) : (takeException vec a info s).perf = s.perf := rfl
@[simp] theorem takeException_therm (vec a info : Word) (s : State) : (takeException vec a info s).therm = s.therm := rfl
@[simp] theorem takeException_tim (vec a info : Word) (s : State) : (takeException vec a info s).tim = s.tim := rfl
@[simp] theorem takeException_resv (vec a info : Word) (s : State) : (takeException vec a info s).resv = s.resv := rfl
@[simp] theorem takeException_caches (vec a info : Word) (s : State) : (takeException vec a info s).caches = { s.caches with leaving := [] } := rfl
@[simp] theorem takeException_latch (vec a info : Word) (s : State) : (takeException vec a info s).latch = s.latch := rfl
@[simp] theorem takeException_pins (vec a info : Word) (s : State) : (takeException vec a info s).pins = s.pins := rfl
@[simp] theorem takeException_run (vec a info : Word) (s : State) : (takeException vec a info s).run = s.run := rfl
@[simp] theorem takeException_mem (vec a info : Word) (s : State) : (takeException vec a info s).mem = s.mem := rfl
@[simp] theorem takeException_tea (vec a info : Word) (s : State) : (takeException vec a info s).tea = s.tea := rfl
@[simp] theorem takeException_devices (vec a info : Word) (s : State) : (takeException vec a info s).devices = s.devices := rfl
@[simp] theorem takeException_storeQueue (vec a info : Word) (s : State) : (takeException vec a info s).storeQueue = pushesIn s.storeQueue := rfl
@[simp] theorem takeException_busLog (vec a info : Word) (s : State) : (takeException vec a info s).busLog = s.busLog := rfl
@[simp] theorem takeException_freeCtr (vec a info : Word) (s : State) : (takeException vec a info s).freeCtr = s.freeCtr := rfl
@[simp] theorem takeException_excTaken (vec a info : Word) (s : State) : (takeException vec a info s).excTaken = true := rfl
@[simp] theorem takeException_traceDue (vec a info : Word) (s : State) : (takeException vec a info s).traceDue = false := rfl
@[simp] theorem takeException_powAsked (vec a info : Word) (s : State) : (takeException vec a info s).powAsked = false := rfl
@[simp] theorem takeException_ctx (vec a info : Word) (s : State) : (takeException vec a info s).ctx = ⟨[], []⟩ := rfl
@[simp] theorem takeException_fetch (vec a info : Word) (s : State) : (takeException vec a info s).fetch = noFetch := rfl
@[simp] theorem takeException_seen (vec a info : Word) (s : State) : (takeException vec a info s).seen = s.seen := rfl
@[simp] theorem takeException_supply (vec a info : Word) (s : State) : (takeException vec a info s).supply = s.supply := rfl
@[simp] theorem takeException_env (vec a info : Word) (s : State) : (takeException vec a info s).env = s.env := rfl

/-! ## `returnFromException` -/

@[simp] theorem returnFromException_gpr (s : State) : (returnFromException s).gpr = s.gpr := rfl
@[simp] theorem returnFromException_fpr (s : State) : (returnFromException s).fpr = s.fpr := rfl
@[simp] theorem returnFromException_fprInit (s : State) : (returnFromException s).fprInit = s.fprInit := rfl
@[simp] theorem returnFromException_cr (s : State) : (returnFromException s).cr = s.cr := rfl
@[simp] theorem returnFromException_fpscr (s : State) : (returnFromException s).fpscr = s.fpscr := rfl
@[simp] theorem returnFromException_xer (s : State) : (returnFromException s).xer = s.xer := rfl
@[simp] theorem returnFromException_lr (s : State) : (returnFromException s).lr = s.lr := rfl
@[simp] theorem returnFromException_ctr (s : State) : (returnFromException s).ctr = s.ctr := rfl
@[simp] theorem returnFromException_pc (s : State) : (returnFromException s).pc = s.sup.srr0 &&& 0xFFFFFFFC := rfl
@[simp] theorem returnFromException_msr (s : State) : (returnFromException s).msr = merge rfiMask s.msr s.sup.srr1 := rfl
@[simp] theorem returnFromException_sup (s : State) : (returnFromException s).sup = s.sup := rfl
@[simp] theorem returnFromException_mmu (s : State) : (returnFromException s).mmu = s.mmu := rfl
@[simp] theorem returnFromException_hid (s : State) : (returnFromException s).hid = s.hid := rfl
@[simp] theorem returnFromException_perf (s : State) : (returnFromException s).perf = s.perf := rfl
@[simp] theorem returnFromException_therm (s : State) : (returnFromException s).therm = s.therm := rfl
@[simp] theorem returnFromException_tim (s : State) : (returnFromException s).tim = s.tim := rfl
@[simp] theorem returnFromException_resv (s : State) : (returnFromException s).resv = s.resv := rfl
@[simp] theorem returnFromException_caches (s : State) : (returnFromException s).caches = { s.caches with leaving := [] } := rfl
@[simp] theorem returnFromException_latch (s : State) : (returnFromException s).latch = s.latch := rfl
@[simp] theorem returnFromException_pins (s : State) : (returnFromException s).pins = s.pins := rfl
@[simp] theorem returnFromException_run (s : State) : (returnFromException s).run = s.run := rfl
@[simp] theorem returnFromException_mem (s : State) : (returnFromException s).mem = s.mem := rfl
@[simp] theorem returnFromException_tea (s : State) : (returnFromException s).tea = s.tea := rfl
@[simp] theorem returnFromException_devices (s : State) : (returnFromException s).devices = s.devices := rfl
@[simp] theorem returnFromException_storeQueue (s : State) : (returnFromException s).storeQueue = s.storeQueue := rfl
@[simp] theorem returnFromException_busLog (s : State) : (returnFromException s).busLog = s.busLog := rfl
@[simp] theorem returnFromException_freeCtr (s : State) : (returnFromException s).freeCtr = s.freeCtr := rfl
@[simp] theorem returnFromException_excTaken (s : State) : (returnFromException s).excTaken = s.excTaken := rfl
@[simp] theorem returnFromException_traceDue (s : State) : (returnFromException s).traceDue = s.traceDue := rfl
@[simp] theorem returnFromException_powAsked (s : State) : (returnFromException s).powAsked = s.powAsked := rfl
@[simp] theorem returnFromException_ctx (s : State) : (returnFromException s).ctx = ⟨[], []⟩ := rfl
@[simp] theorem returnFromException_fetch (s : State) : (returnFromException s).fetch = noFetch := rfl
@[simp] theorem returnFromException_seen (s : State) : (returnFromException s).seen = s.seen := rfl
@[simp] theorem returnFromException_supply (s : State) : (returnFromException s).supply = s.supply := rfl
@[simp] theorem returnFromException_env (s : State) : (returnFromException s).env = s.env := rfl

/-! ## `overwrite` -/

@[simp] theorem overwrite_gpr (c : Control) (s : State) : (overwrite c s).gpr = s.gpr := rfl
@[simp] theorem overwrite_fpr (c : Control) (s : State) : (overwrite c s).fpr = s.fpr := rfl
@[simp] theorem overwrite_fprInit (c : Control) (s : State) : (overwrite c s).fprInit = s.fprInit := rfl
@[simp] theorem overwrite_cr (c : Control) (s : State) : (overwrite c s).cr = s.cr := rfl
@[simp] theorem overwrite_fpscr (c : Control) (s : State) : (overwrite c s).fpscr = s.fpscr := rfl
@[simp] theorem overwrite_xer (c : Control) (s : State) : (overwrite c s).xer = s.xer := rfl
@[simp] theorem overwrite_lr (c : Control) (s : State) : (overwrite c s).lr = s.lr := rfl
@[simp] theorem overwrite_ctr (c : Control) (s : State) : (overwrite c s).ctr = s.ctr := rfl
@[simp] theorem overwrite_pc (c : Control) (s : State) : (overwrite c s).pc = s.pc := rfl
@[simp] theorem overwrite_msr (c : Control) (s : State) : (overwrite c s).msr = s.msr := rfl
@[simp] theorem overwrite_sup (c : Control) (s : State) : (overwrite c s).sup = s.sup := rfl
@[simp] theorem overwrite_mmu (c : Control) (s : State) : (overwrite c s).mmu = s.mmu := rfl
@[simp] theorem overwrite_hid (c : Control) (s : State) : (overwrite c s).hid = s.hid := rfl
@[simp] theorem overwrite_perf (c : Control) (s : State) : (overwrite c s).perf = s.perf := rfl
@[simp] theorem overwrite_therm (c : Control) (s : State) : (overwrite c s).therm = s.therm := rfl
@[simp] theorem overwrite_tim (c : Control) (s : State) : (overwrite c s).tim = s.tim := rfl
@[simp] theorem overwrite_resv (c : Control) (s : State) : (overwrite c s).resv = s.resv := rfl
@[simp] theorem overwrite_caches (c : Control) (s : State) : (overwrite c s).caches = s.caches := rfl
@[simp] theorem overwrite_latch (c : Control) (s : State) : (overwrite c s).latch = s.latch := rfl
@[simp] theorem overwrite_pins (c : Control) (s : State) : (overwrite c s).pins = s.pins := rfl
@[simp] theorem overwrite_run (c : Control) (s : State) : (overwrite c s).run = s.run := rfl
@[simp] theorem overwrite_mem (c : Control) (s : State) : (overwrite c s).mem = s.mem := rfl
@[simp] theorem overwrite_tea (c : Control) (s : State) : (overwrite c s).tea = s.tea := rfl
@[simp] theorem overwrite_devices (c : Control) (s : State) : (overwrite c s).devices = s.devices := rfl
@[simp] theorem overwrite_storeQueue (c : Control) (s : State) : (overwrite c s).storeQueue = s.storeQueue := rfl
@[simp] theorem overwrite_busLog (c : Control) (s : State) : (overwrite c s).busLog = s.busLog := rfl
@[simp] theorem overwrite_freeCtr (c : Control) (s : State) : (overwrite c s).freeCtr = s.freeCtr := rfl
@[simp] theorem overwrite_excTaken (c : Control) (s : State) : (overwrite c s).excTaken = s.excTaken := rfl
@[simp] theorem overwrite_traceDue (c : Control) (s : State) : (overwrite c s).traceDue = s.traceDue := rfl
@[simp] theorem overwrite_powAsked (c : Control) (s : State) : (overwrite c s).powAsked = s.powAsked := rfl
@[simp] theorem overwrite_ctx (c : Control) (s : State) : (overwrite c s).ctx = { stale := (c, held s c) :: s.ctx.stale, inForce := (c, held s c) :: s.ctx.inForce } := rfl
@[simp] theorem overwrite_fetch (c : Control) (s : State) : (overwrite c s).fetch = s.fetch := rfl
@[simp] theorem overwrite_seen (c : Control) (s : State) : (overwrite c s).seen = s.seen := rfl
@[simp] theorem overwrite_supply (c : Control) (s : State) : (overwrite c s).supply = s.supply := rfl
@[simp] theorem overwrite_env (c : Control) (s : State) : (overwrite c s).env = s.env := rfl

/-! ## `beginStore` -/

@[simp] theorem beginStore_gpr (s : State) : (beginStore s).gpr = s.gpr := rfl
@[simp] theorem beginStore_fpr (s : State) : (beginStore s).fpr = s.fpr := rfl
@[simp] theorem beginStore_fprInit (s : State) : (beginStore s).fprInit = s.fprInit := rfl
@[simp] theorem beginStore_cr (s : State) : (beginStore s).cr = s.cr := rfl
@[simp] theorem beginStore_fpscr (s : State) : (beginStore s).fpscr = s.fpscr := rfl
@[simp] theorem beginStore_xer (s : State) : (beginStore s).xer = s.xer := rfl
@[simp] theorem beginStore_lr (s : State) : (beginStore s).lr = s.lr := rfl
@[simp] theorem beginStore_ctr (s : State) : (beginStore s).ctr = s.ctr := rfl
@[simp] theorem beginStore_pc (s : State) : (beginStore s).pc = s.pc := rfl
@[simp] theorem beginStore_msr (s : State) : (beginStore s).msr = s.msr := rfl
@[simp] theorem beginStore_sup (s : State) : (beginStore s).sup = s.sup := rfl
@[simp] theorem beginStore_mmu (s : State) : (beginStore s).mmu = s.mmu := rfl
@[simp] theorem beginStore_hid (s : State) : (beginStore s).hid = s.hid := rfl
@[simp] theorem beginStore_perf (s : State) : (beginStore s).perf = s.perf := rfl
@[simp] theorem beginStore_therm (s : State) : (beginStore s).therm = s.therm := rfl
@[simp] theorem beginStore_tim (s : State) : (beginStore s).tim = s.tim := rfl
@[simp] theorem beginStore_resv (s : State) : (beginStore s).resv = s.resv := rfl
@[simp] theorem beginStore_caches (s : State) : (beginStore s).caches = s.caches := rfl
@[simp] theorem beginStore_latch (s : State) : (beginStore s).latch = s.latch := rfl
@[simp] theorem beginStore_pins (s : State) : (beginStore s).pins = s.pins := rfl
@[simp] theorem beginStore_run (s : State) : (beginStore s).run = s.run := rfl
@[simp] theorem beginStore_mem (s : State) : (beginStore s).mem = s.mem := rfl
@[simp] theorem beginStore_tea (s : State) : (beginStore s).tea = s.tea := rfl
@[simp] theorem beginStore_devices (s : State) : (beginStore s).devices = s.devices := rfl
@[simp] theorem beginStore_storeQueue (s : State) : (beginStore s).storeQueue = enqueueStore [] s.storeQueue := rfl
@[simp] theorem beginStore_busLog (s : State) : (beginStore s).busLog = s.busLog := rfl
@[simp] theorem beginStore_freeCtr (s : State) : (beginStore s).freeCtr = s.freeCtr := rfl
@[simp] theorem beginStore_excTaken (s : State) : (beginStore s).excTaken = s.excTaken := rfl
@[simp] theorem beginStore_traceDue (s : State) : (beginStore s).traceDue = s.traceDue := rfl
@[simp] theorem beginStore_powAsked (s : State) : (beginStore s).powAsked = s.powAsked := rfl
@[simp] theorem beginStore_ctx (s : State) : (beginStore s).ctx = s.ctx := rfl
@[simp] theorem beginStore_fetch (s : State) : (beginStore s).fetch = s.fetch := rfl
@[simp] theorem beginStore_seen (s : State) : (beginStore s).seen = s.seen := rfl
@[simp] theorem beginStore_supply (s : State) : (beginStore s).supply = s.supply := rfl
@[simp] theorem beginStore_env (s : State) : (beginStore s).env = s.env := rfl

/-! ## `drainStores` -/

@[simp] theorem drainStores_gpr (s : State) : (drainStores s).gpr = s.gpr := rfl
@[simp] theorem drainStores_fpr (s : State) : (drainStores s).fpr = s.fpr := rfl
@[simp] theorem drainStores_fprInit (s : State) : (drainStores s).fprInit = s.fprInit := rfl
@[simp] theorem drainStores_cr (s : State) : (drainStores s).cr = s.cr := rfl
@[simp] theorem drainStores_fpscr (s : State) : (drainStores s).fpscr = s.fpscr := rfl
@[simp] theorem drainStores_xer (s : State) : (drainStores s).xer = s.xer := rfl
@[simp] theorem drainStores_lr (s : State) : (drainStores s).lr = s.lr := rfl
@[simp] theorem drainStores_ctr (s : State) : (drainStores s).ctr = s.ctr := rfl
@[simp] theorem drainStores_pc (s : State) : (drainStores s).pc = s.pc := rfl
@[simp] theorem drainStores_msr (s : State) : (drainStores s).msr = s.msr := rfl
@[simp] theorem drainStores_sup (s : State) : (drainStores s).sup = s.sup := rfl
@[simp] theorem drainStores_mmu (s : State) : (drainStores s).mmu = s.mmu := rfl
@[simp] theorem drainStores_hid (s : State) : (drainStores s).hid = s.hid := rfl
@[simp] theorem drainStores_perf (s : State) : (drainStores s).perf = s.perf := rfl
@[simp] theorem drainStores_therm (s : State) : (drainStores s).therm = s.therm := rfl
@[simp] theorem drainStores_tim (s : State) : (drainStores s).tim = s.tim := rfl
@[simp] theorem drainStores_resv (s : State) : (drainStores s).resv = s.resv := rfl
@[simp] theorem drainStores_caches (s : State) : (drainStores s).caches = { s.caches with leaving := [] } := rfl
@[simp] theorem drainStores_latch (s : State) : (drainStores s).latch = s.latch := rfl
@[simp] theorem drainStores_pins (s : State) : (drainStores s).pins = s.pins := rfl
@[simp] theorem drainStores_run (s : State) : (drainStores s).run = s.run := rfl
@[simp] theorem drainStores_mem (s : State) : (drainStores s).mem = s.mem := rfl
@[simp] theorem drainStores_tea (s : State) : (drainStores s).tea = s.tea := rfl
@[simp] theorem drainStores_devices (s : State) : (drainStores s).devices = s.devices := rfl
@[simp] theorem drainStores_storeQueue (s : State) : (drainStores s).storeQueue = [] := rfl
@[simp] theorem drainStores_busLog (s : State) : (drainStores s).busLog = s.busLog := rfl
@[simp] theorem drainStores_freeCtr (s : State) : (drainStores s).freeCtr = s.freeCtr := rfl
@[simp] theorem drainStores_excTaken (s : State) : (drainStores s).excTaken = s.excTaken := rfl
@[simp] theorem drainStores_traceDue (s : State) : (drainStores s).traceDue = s.traceDue := rfl
@[simp] theorem drainStores_powAsked (s : State) : (drainStores s).powAsked = s.powAsked := rfl
@[simp] theorem drainStores_ctx (s : State) : (drainStores s).ctx = s.ctx := rfl
@[simp] theorem drainStores_fetch (s : State) : (drainStores s).fetch = s.fetch := rfl
@[simp] theorem drainStores_seen (s : State) : (drainStores s).seen = s.seen := rfl
@[simp] theorem drainStores_supply (s : State) : (drainStores s).supply = s.supply := rfl
@[simp] theorem drainStores_env (s : State) : (drainStores s).env = s.env := rfl

/-! ## `notePage` -/

@[simp] theorem notePage_gpr (page : Option RunningAt) (s : State) : (notePage page s).gpr = s.gpr := rfl
@[simp] theorem notePage_fpr (page : Option RunningAt) (s : State) : (notePage page s).fpr = s.fpr := rfl
@[simp] theorem notePage_fprInit (page : Option RunningAt) (s : State) : (notePage page s).fprInit = s.fprInit := rfl
@[simp] theorem notePage_cr (page : Option RunningAt) (s : State) : (notePage page s).cr = s.cr := rfl
@[simp] theorem notePage_fpscr (page : Option RunningAt) (s : State) : (notePage page s).fpscr = s.fpscr := rfl
@[simp] theorem notePage_xer (page : Option RunningAt) (s : State) : (notePage page s).xer = s.xer := rfl
@[simp] theorem notePage_lr (page : Option RunningAt) (s : State) : (notePage page s).lr = s.lr := rfl
@[simp] theorem notePage_ctr (page : Option RunningAt) (s : State) : (notePage page s).ctr = s.ctr := rfl
@[simp] theorem notePage_pc (page : Option RunningAt) (s : State) : (notePage page s).pc = s.pc := rfl
@[simp] theorem notePage_msr (page : Option RunningAt) (s : State) : (notePage page s).msr = s.msr := rfl
@[simp] theorem notePage_sup (page : Option RunningAt) (s : State) : (notePage page s).sup = s.sup := rfl
@[simp] theorem notePage_mmu (page : Option RunningAt) (s : State) : (notePage page s).mmu = s.mmu := rfl
@[simp] theorem notePage_hid (page : Option RunningAt) (s : State) : (notePage page s).hid = s.hid := rfl
@[simp] theorem notePage_perf (page : Option RunningAt) (s : State) : (notePage page s).perf = s.perf := rfl
@[simp] theorem notePage_therm (page : Option RunningAt) (s : State) : (notePage page s).therm = s.therm := rfl
@[simp] theorem notePage_tim (page : Option RunningAt) (s : State) : (notePage page s).tim = s.tim := rfl
@[simp] theorem notePage_resv (page : Option RunningAt) (s : State) : (notePage page s).resv = s.resv := rfl
@[simp] theorem notePage_caches (page : Option RunningAt) (s : State) : (notePage page s).caches = s.caches := rfl
@[simp] theorem notePage_latch (page : Option RunningAt) (s : State) : (notePage page s).latch = s.latch := rfl
@[simp] theorem notePage_pins (page : Option RunningAt) (s : State) : (notePage page s).pins = s.pins := rfl
@[simp] theorem notePage_run (page : Option RunningAt) (s : State) : (notePage page s).run = s.run := rfl
@[simp] theorem notePage_mem (page : Option RunningAt) (s : State) : (notePage page s).mem = s.mem := rfl
@[simp] theorem notePage_tea (page : Option RunningAt) (s : State) : (notePage page s).tea = s.tea := rfl
@[simp] theorem notePage_devices (page : Option RunningAt) (s : State) : (notePage page s).devices = s.devices := rfl
@[simp] theorem notePage_storeQueue (page : Option RunningAt) (s : State) : (notePage page s).storeQueue = s.storeQueue := rfl
@[simp] theorem notePage_busLog (page : Option RunningAt) (s : State) : (notePage page s).busLog = s.busLog := rfl
@[simp] theorem notePage_freeCtr (page : Option RunningAt) (s : State) : (notePage page s).freeCtr = s.freeCtr := rfl
@[simp] theorem notePage_excTaken (page : Option RunningAt) (s : State) : (notePage page s).excTaken = s.excTaken := rfl
@[simp] theorem notePage_traceDue (page : Option RunningAt) (s : State) : (notePage page s).traceDue = s.traceDue := rfl
@[simp] theorem notePage_powAsked (page : Option RunningAt) (s : State) : (notePage page s).powAsked = s.powAsked := rfl
@[simp] theorem notePage_ctx (page : Option RunningAt) (s : State) : (notePage page s).ctx = s.ctx := rfl
@[simp] theorem notePage_fetch (page : Option RunningAt) (s : State) : (notePage page s).fetch = { s.fetch with page := page } := rfl
@[simp] theorem notePage_seen (page : Option RunningAt) (s : State) : (notePage page s).seen = s.seen := rfl
@[simp] theorem notePage_supply (page : Option RunningAt) (s : State) : (notePage page s).supply = s.supply := rfl
@[simp] theorem notePage_env (page : Option RunningAt) (s : State) : (notePage page s).env = s.env := rfl

/-! ## `firstFetchNext` -/

@[simp] theorem firstFetchNext_gpr (s : State) : (firstFetchNext s).gpr = s.gpr := rfl
@[simp] theorem firstFetchNext_fpr (s : State) : (firstFetchNext s).fpr = s.fpr := rfl
@[simp] theorem firstFetchNext_fprInit (s : State) : (firstFetchNext s).fprInit = s.fprInit := rfl
@[simp] theorem firstFetchNext_cr (s : State) : (firstFetchNext s).cr = s.cr := rfl
@[simp] theorem firstFetchNext_fpscr (s : State) : (firstFetchNext s).fpscr = s.fpscr := rfl
@[simp] theorem firstFetchNext_xer (s : State) : (firstFetchNext s).xer = s.xer := rfl
@[simp] theorem firstFetchNext_lr (s : State) : (firstFetchNext s).lr = s.lr := rfl
@[simp] theorem firstFetchNext_ctr (s : State) : (firstFetchNext s).ctr = s.ctr := rfl
@[simp] theorem firstFetchNext_pc (s : State) : (firstFetchNext s).pc = s.pc := rfl
@[simp] theorem firstFetchNext_msr (s : State) : (firstFetchNext s).msr = s.msr := rfl
@[simp] theorem firstFetchNext_sup (s : State) : (firstFetchNext s).sup = s.sup := rfl
@[simp] theorem firstFetchNext_mmu (s : State) : (firstFetchNext s).mmu = s.mmu := rfl
@[simp] theorem firstFetchNext_hid (s : State) : (firstFetchNext s).hid = s.hid := rfl
@[simp] theorem firstFetchNext_perf (s : State) : (firstFetchNext s).perf = s.perf := rfl
@[simp] theorem firstFetchNext_therm (s : State) : (firstFetchNext s).therm = s.therm := rfl
@[simp] theorem firstFetchNext_tim (s : State) : (firstFetchNext s).tim = s.tim := rfl
@[simp] theorem firstFetchNext_resv (s : State) : (firstFetchNext s).resv = s.resv := rfl
@[simp] theorem firstFetchNext_caches (s : State) : (firstFetchNext s).caches = s.caches := rfl
@[simp] theorem firstFetchNext_latch (s : State) : (firstFetchNext s).latch = s.latch := rfl
@[simp] theorem firstFetchNext_pins (s : State) : (firstFetchNext s).pins = s.pins := rfl
@[simp] theorem firstFetchNext_run (s : State) : (firstFetchNext s).run = s.run := rfl
@[simp] theorem firstFetchNext_mem (s : State) : (firstFetchNext s).mem = s.mem := rfl
@[simp] theorem firstFetchNext_tea (s : State) : (firstFetchNext s).tea = s.tea := rfl
@[simp] theorem firstFetchNext_devices (s : State) : (firstFetchNext s).devices = s.devices := rfl
@[simp] theorem firstFetchNext_storeQueue (s : State) : (firstFetchNext s).storeQueue = s.storeQueue := rfl
@[simp] theorem firstFetchNext_busLog (s : State) : (firstFetchNext s).busLog = s.busLog := rfl
@[simp] theorem firstFetchNext_freeCtr (s : State) : (firstFetchNext s).freeCtr = s.freeCtr := rfl
@[simp] theorem firstFetchNext_excTaken (s : State) : (firstFetchNext s).excTaken = s.excTaken := rfl
@[simp] theorem firstFetchNext_traceDue (s : State) : (firstFetchNext s).traceDue = s.traceDue := rfl
@[simp] theorem firstFetchNext_powAsked (s : State) : (firstFetchNext s).powAsked = s.powAsked := rfl
@[simp] theorem firstFetchNext_ctx (s : State) : (firstFetchNext s).ctx = s.ctx := rfl
@[simp] theorem firstFetchNext_fetch (s : State) : (firstFetchNext s).fetch = { s.fetch with single := true } := rfl
@[simp] theorem firstFetchNext_seen (s : State) : (firstFetchNext s).seen = s.seen := rfl
@[simp] theorem firstFetchNext_supply (s : State) : (firstFetchNext s).supply = s.supply := rfl
@[simp] theorem firstFetchNext_env (s : State) : (firstFetchNext s).env = s.env := rfl

/-! ## `passIabr` -/

@[simp] theorem passIabr_gpr (s : State) : (passIabr s).gpr = s.gpr := rfl
@[simp] theorem passIabr_fpr (s : State) : (passIabr s).fpr = s.fpr := rfl
@[simp] theorem passIabr_fprInit (s : State) : (passIabr s).fprInit = s.fprInit := rfl
@[simp] theorem passIabr_cr (s : State) : (passIabr s).cr = s.cr := rfl
@[simp] theorem passIabr_fpscr (s : State) : (passIabr s).fpscr = s.fpscr := rfl
@[simp] theorem passIabr_xer (s : State) : (passIabr s).xer = s.xer := rfl
@[simp] theorem passIabr_lr (s : State) : (passIabr s).lr = s.lr := rfl
@[simp] theorem passIabr_ctr (s : State) : (passIabr s).ctr = s.ctr := rfl
@[simp] theorem passIabr_pc (s : State) : (passIabr s).pc = s.pc := rfl
@[simp] theorem passIabr_msr (s : State) : (passIabr s).msr = s.msr := rfl
@[simp] theorem passIabr_sup (s : State) : (passIabr s).sup = s.sup := rfl
@[simp] theorem passIabr_mmu (s : State) : (passIabr s).mmu = s.mmu := rfl
@[simp] theorem passIabr_hid (s : State) : (passIabr s).hid = s.hid := rfl
@[simp] theorem passIabr_perf (s : State) : (passIabr s).perf = s.perf := rfl
@[simp] theorem passIabr_therm (s : State) : (passIabr s).therm = s.therm := rfl
@[simp] theorem passIabr_tim (s : State) : (passIabr s).tim = s.tim := rfl
@[simp] theorem passIabr_resv (s : State) : (passIabr s).resv = s.resv := rfl
@[simp] theorem passIabr_caches (s : State) : (passIabr s).caches = s.caches := rfl
@[simp] theorem passIabr_latch (s : State) : (passIabr s).latch = s.latch := rfl
@[simp] theorem passIabr_pins (s : State) : (passIabr s).pins = s.pins := rfl
@[simp] theorem passIabr_run (s : State) : (passIabr s).run = s.run := rfl
@[simp] theorem passIabr_mem (s : State) : (passIabr s).mem = s.mem := rfl
@[simp] theorem passIabr_tea (s : State) : (passIabr s).tea = s.tea := rfl
@[simp] theorem passIabr_devices (s : State) : (passIabr s).devices = s.devices := rfl
@[simp] theorem passIabr_storeQueue (s : State) : (passIabr s).storeQueue = s.storeQueue := rfl
@[simp] theorem passIabr_busLog (s : State) : (passIabr s).busLog = s.busLog := rfl
@[simp] theorem passIabr_freeCtr (s : State) : (passIabr s).freeCtr = s.freeCtr := rfl
@[simp] theorem passIabr_excTaken (s : State) : (passIabr s).excTaken = s.excTaken := rfl
@[simp] theorem passIabr_traceDue (s : State) : (passIabr s).traceDue = s.traceDue := rfl
@[simp] theorem passIabr_powAsked (s : State) : (passIabr s).powAsked = s.powAsked := rfl
@[simp] theorem passIabr_ctx (s : State) : (passIabr s).ctx = s.ctx := rfl
@[simp] theorem passIabr_fetch (s : State) : (passIabr s).fetch = { s.fetch with iabrNew := false } := rfl
@[simp] theorem passIabr_seen (s : State) : (passIabr s).seen = s.seen := rfl
@[simp] theorem passIabr_supply (s : State) : (passIabr s).supply = s.supply := rfl
@[simp] theorem passIabr_env (s : State) : (passIabr s).env = s.env := rfl

/-! ## `dropAhead` -/

@[simp] theorem dropAhead_gpr (s : State) : (dropAhead s).gpr = s.gpr := rfl
@[simp] theorem dropAhead_fpr (s : State) : (dropAhead s).fpr = s.fpr := rfl
@[simp] theorem dropAhead_fprInit (s : State) : (dropAhead s).fprInit = s.fprInit := rfl
@[simp] theorem dropAhead_cr (s : State) : (dropAhead s).cr = s.cr := rfl
@[simp] theorem dropAhead_fpscr (s : State) : (dropAhead s).fpscr = s.fpscr := rfl
@[simp] theorem dropAhead_xer (s : State) : (dropAhead s).xer = s.xer := rfl
@[simp] theorem dropAhead_lr (s : State) : (dropAhead s).lr = s.lr := rfl
@[simp] theorem dropAhead_ctr (s : State) : (dropAhead s).ctr = s.ctr := rfl
@[simp] theorem dropAhead_pc (s : State) : (dropAhead s).pc = s.pc := rfl
@[simp] theorem dropAhead_msr (s : State) : (dropAhead s).msr = s.msr := rfl
@[simp] theorem dropAhead_sup (s : State) : (dropAhead s).sup = s.sup := rfl
@[simp] theorem dropAhead_mmu (s : State) : (dropAhead s).mmu = s.mmu := rfl
@[simp] theorem dropAhead_hid (s : State) : (dropAhead s).hid = s.hid := rfl
@[simp] theorem dropAhead_perf (s : State) : (dropAhead s).perf = s.perf := rfl
@[simp] theorem dropAhead_therm (s : State) : (dropAhead s).therm = s.therm := rfl
@[simp] theorem dropAhead_tim (s : State) : (dropAhead s).tim = s.tim := rfl
@[simp] theorem dropAhead_resv (s : State) : (dropAhead s).resv = s.resv := rfl
@[simp] theorem dropAhead_caches (s : State) : (dropAhead s).caches = s.caches := rfl
@[simp] theorem dropAhead_latch (s : State) : (dropAhead s).latch = s.latch := rfl
@[simp] theorem dropAhead_pins (s : State) : (dropAhead s).pins = s.pins := rfl
@[simp] theorem dropAhead_run (s : State) : (dropAhead s).run = s.run := rfl
@[simp] theorem dropAhead_mem (s : State) : (dropAhead s).mem = s.mem := rfl
@[simp] theorem dropAhead_tea (s : State) : (dropAhead s).tea = s.tea := rfl
@[simp] theorem dropAhead_devices (s : State) : (dropAhead s).devices = s.devices := rfl
@[simp] theorem dropAhead_storeQueue (s : State) : (dropAhead s).storeQueue = s.storeQueue := rfl
@[simp] theorem dropAhead_busLog (s : State) : (dropAhead s).busLog = s.busLog := rfl
@[simp] theorem dropAhead_freeCtr (s : State) : (dropAhead s).freeCtr = s.freeCtr := rfl
@[simp] theorem dropAhead_excTaken (s : State) : (dropAhead s).excTaken = s.excTaken := rfl
@[simp] theorem dropAhead_traceDue (s : State) : (dropAhead s).traceDue = s.traceDue := rfl
@[simp] theorem dropAhead_powAsked (s : State) : (dropAhead s).powAsked = s.powAsked := rfl
@[simp] theorem dropAhead_ctx (s : State) : (dropAhead s).ctx = s.ctx := rfl
@[simp] theorem dropAhead_fetch (s : State) : (dropAhead s).fetch = { s.fetch with queue := [] } := rfl
@[simp] theorem dropAhead_seen (s : State) : (dropAhead s).seen = s.seen := rfl
@[simp] theorem dropAhead_supply (s : State) : (dropAhead s).supply = s.supply := rfl
@[simp] theorem dropAhead_env (s : State) : (dropAhead s).env = s.env := rfl

/-! ## `forget` -/

@[simp] theorem forget_gpr (p : Nat → Bool) (s : State) : (forget p s).gpr = s.gpr := rfl
@[simp] theorem forget_fpr (p : Nat → Bool) (s : State) : (forget p s).fpr = s.fpr := rfl
@[simp] theorem forget_fprInit (p : Nat → Bool) (s : State) : (forget p s).fprInit = s.fprInit := rfl
@[simp] theorem forget_cr (p : Nat → Bool) (s : State) : (forget p s).cr = s.cr := rfl
@[simp] theorem forget_fpscr (p : Nat → Bool) (s : State) : (forget p s).fpscr = s.fpscr := rfl
@[simp] theorem forget_xer (p : Nat → Bool) (s : State) : (forget p s).xer = s.xer := rfl
@[simp] theorem forget_lr (p : Nat → Bool) (s : State) : (forget p s).lr = s.lr := rfl
@[simp] theorem forget_ctr (p : Nat → Bool) (s : State) : (forget p s).ctr = s.ctr := rfl
@[simp] theorem forget_pc (p : Nat → Bool) (s : State) : (forget p s).pc = s.pc := rfl
@[simp] theorem forget_msr (p : Nat → Bool) (s : State) : (forget p s).msr = s.msr := rfl
@[simp] theorem forget_sup (p : Nat → Bool) (s : State) : (forget p s).sup = s.sup := rfl
@[simp] theorem forget_mmu (p : Nat → Bool) (s : State) : (forget p s).mmu = s.mmu := rfl
@[simp] theorem forget_hid (p : Nat → Bool) (s : State) : (forget p s).hid = s.hid := rfl
@[simp] theorem forget_perf (p : Nat → Bool) (s : State) : (forget p s).perf = s.perf := rfl
@[simp] theorem forget_therm (p : Nat → Bool) (s : State) : (forget p s).therm = s.therm := rfl
@[simp] theorem forget_tim (p : Nat → Bool) (s : State) : (forget p s).tim = s.tim := rfl
@[simp] theorem forget_resv (p : Nat → Bool) (s : State) : (forget p s).resv = s.resv := rfl
@[simp] theorem forget_caches (p : Nat → Bool) (s : State) : (forget p s).caches = s.caches := rfl
@[simp] theorem forget_latch (p : Nat → Bool) (s : State) : (forget p s).latch = s.latch := rfl
@[simp] theorem forget_pins (p : Nat → Bool) (s : State) : (forget p s).pins = s.pins := rfl
@[simp] theorem forget_run (p : Nat → Bool) (s : State) : (forget p s).run = s.run := rfl
@[simp] theorem forget_mem (p : Nat → Bool) (s : State) : (forget p s).mem = s.mem := rfl
@[simp] theorem forget_tea (p : Nat → Bool) (s : State) : (forget p s).tea = s.tea := rfl
@[simp] theorem forget_devices (p : Nat → Bool) (s : State) : (forget p s).devices = s.devices := rfl
@[simp] theorem forget_storeQueue (p : Nat → Bool) (s : State) : (forget p s).storeQueue =
    s.storeQueue.map fun g => { g with old := g.old.filter fun e => !p e.address } := rfl
@[simp] theorem forget_busLog (p : Nat → Bool) (s : State) : (forget p s).busLog = s.busLog := rfl
@[simp] theorem forget_freeCtr (p : Nat → Bool) (s : State) : (forget p s).freeCtr = s.freeCtr := rfl
@[simp] theorem forget_excTaken (p : Nat → Bool) (s : State) : (forget p s).excTaken = s.excTaken := rfl
@[simp] theorem forget_traceDue (p : Nat → Bool) (s : State) : (forget p s).traceDue = s.traceDue := rfl
@[simp] theorem forget_powAsked (p : Nat → Bool) (s : State) : (forget p s).powAsked = s.powAsked := rfl
@[simp] theorem forget_ctx (p : Nat → Bool) (s : State) : (forget p s).ctx = s.ctx := rfl
@[simp] theorem forget_fetch (p : Nat → Bool) (s : State) : (forget p s).fetch = s.fetch := rfl
@[simp] theorem forget_seen (p : Nat → Bool) (s : State) : (forget p s).seen = s.seen := rfl
@[simp] theorem forget_supply (p : Nat → Bool) (s : State) : (forget p s).supply = s.supply := rfl
@[simp] theorem forget_env (p : Nat → Bool) (s : State) : (forget p s).env = s.env := rfl

/-! ## `settleBlock` -/

@[simp] theorem settleBlock_gpr (b : BitVec 27) (s : State) : (settleBlock b s).gpr = s.gpr := rfl
@[simp] theorem settleBlock_fpr (b : BitVec 27) (s : State) : (settleBlock b s).fpr = s.fpr := rfl
@[simp] theorem settleBlock_fprInit (b : BitVec 27) (s : State) : (settleBlock b s).fprInit = s.fprInit := rfl
@[simp] theorem settleBlock_cr (b : BitVec 27) (s : State) : (settleBlock b s).cr = s.cr := rfl
@[simp] theorem settleBlock_fpscr (b : BitVec 27) (s : State) : (settleBlock b s).fpscr = s.fpscr := rfl
@[simp] theorem settleBlock_xer (b : BitVec 27) (s : State) : (settleBlock b s).xer = s.xer := rfl
@[simp] theorem settleBlock_lr (b : BitVec 27) (s : State) : (settleBlock b s).lr = s.lr := rfl
@[simp] theorem settleBlock_ctr (b : BitVec 27) (s : State) : (settleBlock b s).ctr = s.ctr := rfl
@[simp] theorem settleBlock_pc (b : BitVec 27) (s : State) : (settleBlock b s).pc = s.pc := rfl
@[simp] theorem settleBlock_msr (b : BitVec 27) (s : State) : (settleBlock b s).msr = s.msr := rfl
@[simp] theorem settleBlock_sup (b : BitVec 27) (s : State) : (settleBlock b s).sup = s.sup := rfl
@[simp] theorem settleBlock_mmu (b : BitVec 27) (s : State) : (settleBlock b s).mmu = s.mmu := rfl
@[simp] theorem settleBlock_hid (b : BitVec 27) (s : State) : (settleBlock b s).hid = s.hid := rfl
@[simp] theorem settleBlock_perf (b : BitVec 27) (s : State) : (settleBlock b s).perf = s.perf := rfl
@[simp] theorem settleBlock_therm (b : BitVec 27) (s : State) : (settleBlock b s).therm = s.therm := rfl
@[simp] theorem settleBlock_tim (b : BitVec 27) (s : State) : (settleBlock b s).tim = s.tim := rfl
@[simp] theorem settleBlock_resv (b : BitVec 27) (s : State) : (settleBlock b s).resv = s.resv := rfl
@[simp] theorem settleBlock_caches (b : BitVec 27) (s : State) : (settleBlock b s).caches = s.caches := rfl
@[simp] theorem settleBlock_latch (b : BitVec 27) (s : State) : (settleBlock b s).latch = s.latch := rfl
@[simp] theorem settleBlock_pins (b : BitVec 27) (s : State) : (settleBlock b s).pins = s.pins := rfl
@[simp] theorem settleBlock_run (b : BitVec 27) (s : State) : (settleBlock b s).run = s.run := rfl
@[simp] theorem settleBlock_mem (b : BitVec 27) (s : State) : (settleBlock b s).mem = s.mem := rfl
@[simp] theorem settleBlock_tea (b : BitVec 27) (s : State) : (settleBlock b s).tea = s.tea := rfl
@[simp] theorem settleBlock_devices (b : BitVec 27) (s : State) : (settleBlock b s).devices = s.devices := rfl
@[simp] theorem settleBlock_storeQueue (b : BitVec 27) (s : State) : (settleBlock b s).storeQueue =
    s.storeQueue.map (fun g => if g.push then { g with old := g.old.filter fun e => e.address / 32 != b.toNat } else g) := rfl
@[simp] theorem settleBlock_busLog (b : BitVec 27) (s : State) : (settleBlock b s).busLog = s.busLog := rfl
@[simp] theorem settleBlock_freeCtr (b : BitVec 27) (s : State) : (settleBlock b s).freeCtr = s.freeCtr := rfl
@[simp] theorem settleBlock_excTaken (b : BitVec 27) (s : State) : (settleBlock b s).excTaken = s.excTaken := rfl
@[simp] theorem settleBlock_traceDue (b : BitVec 27) (s : State) : (settleBlock b s).traceDue = s.traceDue := rfl
@[simp] theorem settleBlock_powAsked (b : BitVec 27) (s : State) : (settleBlock b s).powAsked = s.powAsked := rfl
@[simp] theorem settleBlock_ctx (b : BitVec 27) (s : State) : (settleBlock b s).ctx = s.ctx := rfl
@[simp] theorem settleBlock_fetch (b : BitVec 27) (s : State) : (settleBlock b s).fetch = s.fetch := rfl
@[simp] theorem settleBlock_seen (b : BitVec 27) (s : State) : (settleBlock b s).seen = s.seen := rfl
@[simp] theorem settleBlock_supply (b : BitVec 27) (s : State) : (settleBlock b s).supply = s.supply := rfl
@[simp] theorem settleBlock_env (b : BitVec 27) (s : State) : (settleBlock b s).env = s.env := rfl

/-! ## `queueOld` -/

@[simp] theorem queueOld_gpr (l2 : Bool) (pa : Word) (old : Byte) (s : State) : (queueOld l2 pa old s).gpr = s.gpr := rfl
@[simp] theorem queueOld_fpr (l2 : Bool) (pa : Word) (old : Byte) (s : State) : (queueOld l2 pa old s).fpr = s.fpr := rfl
@[simp] theorem queueOld_fprInit (l2 : Bool) (pa : Word) (old : Byte) (s : State) : (queueOld l2 pa old s).fprInit = s.fprInit := rfl
@[simp] theorem queueOld_cr (l2 : Bool) (pa : Word) (old : Byte) (s : State) : (queueOld l2 pa old s).cr = s.cr := rfl
@[simp] theorem queueOld_fpscr (l2 : Bool) (pa : Word) (old : Byte) (s : State) : (queueOld l2 pa old s).fpscr = s.fpscr := rfl
@[simp] theorem queueOld_xer (l2 : Bool) (pa : Word) (old : Byte) (s : State) : (queueOld l2 pa old s).xer = s.xer := rfl
@[simp] theorem queueOld_lr (l2 : Bool) (pa : Word) (old : Byte) (s : State) : (queueOld l2 pa old s).lr = s.lr := rfl
@[simp] theorem queueOld_ctr (l2 : Bool) (pa : Word) (old : Byte) (s : State) : (queueOld l2 pa old s).ctr = s.ctr := rfl
@[simp] theorem queueOld_pc (l2 : Bool) (pa : Word) (old : Byte) (s : State) : (queueOld l2 pa old s).pc = s.pc := rfl
@[simp] theorem queueOld_msr (l2 : Bool) (pa : Word) (old : Byte) (s : State) : (queueOld l2 pa old s).msr = s.msr := rfl
@[simp] theorem queueOld_sup (l2 : Bool) (pa : Word) (old : Byte) (s : State) : (queueOld l2 pa old s).sup = s.sup := rfl
@[simp] theorem queueOld_mmu (l2 : Bool) (pa : Word) (old : Byte) (s : State) : (queueOld l2 pa old s).mmu = s.mmu := rfl
@[simp] theorem queueOld_hid (l2 : Bool) (pa : Word) (old : Byte) (s : State) : (queueOld l2 pa old s).hid = s.hid := rfl
@[simp] theorem queueOld_perf (l2 : Bool) (pa : Word) (old : Byte) (s : State) : (queueOld l2 pa old s).perf = s.perf := rfl
@[simp] theorem queueOld_therm (l2 : Bool) (pa : Word) (old : Byte) (s : State) : (queueOld l2 pa old s).therm = s.therm := rfl
@[simp] theorem queueOld_tim (l2 : Bool) (pa : Word) (old : Byte) (s : State) : (queueOld l2 pa old s).tim = s.tim := rfl
@[simp] theorem queueOld_resv (l2 : Bool) (pa : Word) (old : Byte) (s : State) : (queueOld l2 pa old s).resv = s.resv := rfl
@[simp] theorem queueOld_caches (l2 : Bool) (pa : Word) (old : Byte) (s : State) : (queueOld l2 pa old s).caches = s.caches := rfl
@[simp] theorem queueOld_latch (l2 : Bool) (pa : Word) (old : Byte) (s : State) : (queueOld l2 pa old s).latch = s.latch := rfl
@[simp] theorem queueOld_pins (l2 : Bool) (pa : Word) (old : Byte) (s : State) : (queueOld l2 pa old s).pins = s.pins := rfl
@[simp] theorem queueOld_run (l2 : Bool) (pa : Word) (old : Byte) (s : State) : (queueOld l2 pa old s).run = s.run := rfl
@[simp] theorem queueOld_mem (l2 : Bool) (pa : Word) (old : Byte) (s : State) : (queueOld l2 pa old s).mem = s.mem := rfl
@[simp] theorem queueOld_tea (l2 : Bool) (pa : Word) (old : Byte) (s : State) : (queueOld l2 pa old s).tea = s.tea := rfl
@[simp] theorem queueOld_devices (l2 : Bool) (pa : Word) (old : Byte) (s : State) : (queueOld l2 pa old s).devices = s.devices := rfl
@[simp] theorem queueOld_storeQueue (l2 : Bool) (pa : Word) (old : Byte) (s : State) : (queueOld l2 pa old s).storeQueue =
    noteOld ⟨l2, pa.toNat, old⟩ s.storeQueue := rfl
@[simp] theorem queueOld_busLog (l2 : Bool) (pa : Word) (old : Byte) (s : State) : (queueOld l2 pa old s).busLog = s.busLog := rfl
@[simp] theorem queueOld_freeCtr (l2 : Bool) (pa : Word) (old : Byte) (s : State) : (queueOld l2 pa old s).freeCtr = s.freeCtr := rfl
@[simp] theorem queueOld_excTaken (l2 : Bool) (pa : Word) (old : Byte) (s : State) : (queueOld l2 pa old s).excTaken = s.excTaken := rfl
@[simp] theorem queueOld_traceDue (l2 : Bool) (pa : Word) (old : Byte) (s : State) : (queueOld l2 pa old s).traceDue = s.traceDue := rfl
@[simp] theorem queueOld_powAsked (l2 : Bool) (pa : Word) (old : Byte) (s : State) : (queueOld l2 pa old s).powAsked = s.powAsked := rfl
@[simp] theorem queueOld_ctx (l2 : Bool) (pa : Word) (old : Byte) (s : State) : (queueOld l2 pa old s).ctx = s.ctx := rfl
@[simp] theorem queueOld_fetch (l2 : Bool) (pa : Word) (old : Byte) (s : State) : (queueOld l2 pa old s).fetch = s.fetch := rfl
@[simp] theorem queueOld_seen (l2 : Bool) (pa : Word) (old : Byte) (s : State) : (queueOld l2 pa old s).seen = s.seen := rfl
@[simp] theorem queueOld_supply (l2 : Bool) (pa : Word) (old : Byte) (s : State) : (queueOld l2 pa old s).supply = s.supply := rfl
@[simp] theorem queueOld_env (l2 : Bool) (pa : Word) (old : Byte) (s : State) : (queueOld l2 pa old s).env = s.env := rfl

/-! ## `beginPush` -/

@[simp] theorem beginPush_gpr (b : BitVec 27) (s : State) : (beginPush b s).gpr = s.gpr := rfl
@[simp] theorem beginPush_fpr (b : BitVec 27) (s : State) : (beginPush b s).fpr = s.fpr := rfl
@[simp] theorem beginPush_fprInit (b : BitVec 27) (s : State) : (beginPush b s).fprInit = s.fprInit := rfl
@[simp] theorem beginPush_cr (b : BitVec 27) (s : State) : (beginPush b s).cr = s.cr := rfl
@[simp] theorem beginPush_fpscr (b : BitVec 27) (s : State) : (beginPush b s).fpscr = s.fpscr := rfl
@[simp] theorem beginPush_xer (b : BitVec 27) (s : State) : (beginPush b s).xer = s.xer := rfl
@[simp] theorem beginPush_lr (b : BitVec 27) (s : State) : (beginPush b s).lr = s.lr := rfl
@[simp] theorem beginPush_ctr (b : BitVec 27) (s : State) : (beginPush b s).ctr = s.ctr := rfl
@[simp] theorem beginPush_pc (b : BitVec 27) (s : State) : (beginPush b s).pc = s.pc := rfl
@[simp] theorem beginPush_msr (b : BitVec 27) (s : State) : (beginPush b s).msr = s.msr := rfl
@[simp] theorem beginPush_sup (b : BitVec 27) (s : State) : (beginPush b s).sup = s.sup := rfl
@[simp] theorem beginPush_mmu (b : BitVec 27) (s : State) : (beginPush b s).mmu = s.mmu := rfl
@[simp] theorem beginPush_hid (b : BitVec 27) (s : State) : (beginPush b s).hid = s.hid := rfl
@[simp] theorem beginPush_perf (b : BitVec 27) (s : State) : (beginPush b s).perf = s.perf := rfl
@[simp] theorem beginPush_therm (b : BitVec 27) (s : State) : (beginPush b s).therm = s.therm := rfl
@[simp] theorem beginPush_tim (b : BitVec 27) (s : State) : (beginPush b s).tim = s.tim := rfl
@[simp] theorem beginPush_resv (b : BitVec 27) (s : State) : (beginPush b s).resv = s.resv := rfl
@[simp] theorem beginPush_caches (b : BitVec 27) (s : State) : (beginPush b s).caches = s.caches := rfl
@[simp] theorem beginPush_latch (b : BitVec 27) (s : State) : (beginPush b s).latch = s.latch := rfl
@[simp] theorem beginPush_pins (b : BitVec 27) (s : State) : (beginPush b s).pins = s.pins := rfl
@[simp] theorem beginPush_run (b : BitVec 27) (s : State) : (beginPush b s).run = s.run := rfl
@[simp] theorem beginPush_mem (b : BitVec 27) (s : State) : (beginPush b s).mem = s.mem := rfl
@[simp] theorem beginPush_tea (b : BitVec 27) (s : State) : (beginPush b s).tea = s.tea := rfl
@[simp] theorem beginPush_devices (b : BitVec 27) (s : State) : (beginPush b s).devices = s.devices := rfl
@[simp] theorem beginPush_busLog (b : BitVec 27) (s : State) : (beginPush b s).busLog = s.busLog := rfl
@[simp] theorem beginPush_freeCtr (b : BitVec 27) (s : State) : (beginPush b s).freeCtr = s.freeCtr := rfl
@[simp] theorem beginPush_excTaken (b : BitVec 27) (s : State) : (beginPush b s).excTaken = s.excTaken := rfl
@[simp] theorem beginPush_traceDue (b : BitVec 27) (s : State) : (beginPush b s).traceDue = s.traceDue := rfl
@[simp] theorem beginPush_powAsked (b : BitVec 27) (s : State) : (beginPush b s).powAsked = s.powAsked := rfl
@[simp] theorem beginPush_ctx (b : BitVec 27) (s : State) : (beginPush b s).ctx = s.ctx := rfl
@[simp] theorem beginPush_fetch (b : BitVec 27) (s : State) : (beginPush b s).fetch = s.fetch := rfl
@[simp] theorem beginPush_seen (b : BitVec 27) (s : State) : (beginPush b s).seen = s.seen := rfl
@[simp] theorem beginPush_supply (b : BitVec 27) (s : State) : (beginPush b s).supply = s.supply := rfl
@[simp] theorem beginPush_env (b : BitVec 27) (s : State) : (beginPush b s).env = s.env := rfl

/-! ## `unqueue` -/

@[simp] theorem unqueue_gpr (s : State) : (unqueue s).gpr = s.gpr := rfl
@[simp] theorem unqueue_fpr (s : State) : (unqueue s).fpr = s.fpr := rfl
@[simp] theorem unqueue_fprInit (s : State) : (unqueue s).fprInit = s.fprInit := rfl
@[simp] theorem unqueue_cr (s : State) : (unqueue s).cr = s.cr := rfl
@[simp] theorem unqueue_fpscr (s : State) : (unqueue s).fpscr = s.fpscr := rfl
@[simp] theorem unqueue_xer (s : State) : (unqueue s).xer = s.xer := rfl
@[simp] theorem unqueue_lr (s : State) : (unqueue s).lr = s.lr := rfl
@[simp] theorem unqueue_ctr (s : State) : (unqueue s).ctr = s.ctr := rfl
@[simp] theorem unqueue_pc (s : State) : (unqueue s).pc = s.pc := rfl
@[simp] theorem unqueue_msr (s : State) : (unqueue s).msr = s.msr := rfl
@[simp] theorem unqueue_sup (s : State) : (unqueue s).sup = s.sup := rfl
@[simp] theorem unqueue_mmu (s : State) : (unqueue s).mmu = s.mmu := rfl
@[simp] theorem unqueue_hid (s : State) : (unqueue s).hid = s.hid := rfl
@[simp] theorem unqueue_perf (s : State) : (unqueue s).perf = s.perf := rfl
@[simp] theorem unqueue_therm (s : State) : (unqueue s).therm = s.therm := rfl
@[simp] theorem unqueue_tim (s : State) : (unqueue s).tim = s.tim := rfl
@[simp] theorem unqueue_resv (s : State) : (unqueue s).resv = s.resv := rfl
@[simp] theorem unqueue_caches (s : State) : (unqueue s).caches = s.caches := rfl
@[simp] theorem unqueue_latch (s : State) : (unqueue s).latch = s.latch := rfl
@[simp] theorem unqueue_pins (s : State) : (unqueue s).pins = s.pins := rfl
@[simp] theorem unqueue_run (s : State) : (unqueue s).run = s.run := rfl
@[simp] theorem unqueue_mem (s : State) : (unqueue s).mem = s.mem := rfl
@[simp] theorem unqueue_tea (s : State) : (unqueue s).tea = s.tea := rfl
@[simp] theorem unqueue_devices (s : State) : (unqueue s).devices = s.devices := rfl
@[simp] theorem unqueue_storeQueue (s : State) : (unqueue s).storeQueue = s.storeQueue := rfl
@[simp] theorem unqueue_busLog (s : State) : (unqueue s).busLog = s.busLog := rfl
@[simp] theorem unqueue_freeCtr (s : State) : (unqueue s).freeCtr = s.freeCtr := rfl
@[simp] theorem unqueue_excTaken (s : State) : (unqueue s).excTaken = s.excTaken := rfl
@[simp] theorem unqueue_traceDue (s : State) : (unqueue s).traceDue = s.traceDue := rfl
@[simp] theorem unqueue_powAsked (s : State) : (unqueue s).powAsked = s.powAsked := rfl
@[simp] theorem unqueue_ctx (s : State) : (unqueue s).ctx = s.ctx := rfl
@[simp] theorem unqueue_fetch (s : State) : (unqueue s).fetch = { s.fetch with queue := s.fetch.queue.filter fun e => e.1 != s.pc } := rfl
@[simp] theorem unqueue_seen (s : State) : (unqueue s).seen = s.seen := rfl
@[simp] theorem unqueue_supply (s : State) : (unqueue s).supply = s.supply := rfl
@[simp] theorem unqueue_env (s : State) : (unqueue s).env = s.env := rfl

/-! ## `endSupply` -/

@[simp] theorem endSupply_gpr (s : State) : (endSupply s).gpr = s.gpr := rfl
@[simp] theorem endSupply_fpr (s : State) : (endSupply s).fpr = s.fpr := rfl
@[simp] theorem endSupply_fprInit (s : State) : (endSupply s).fprInit = s.fprInit := rfl
@[simp] theorem endSupply_cr (s : State) : (endSupply s).cr = s.cr := rfl
@[simp] theorem endSupply_fpscr (s : State) : (endSupply s).fpscr = s.fpscr := rfl
@[simp] theorem endSupply_xer (s : State) : (endSupply s).xer = s.xer := rfl
@[simp] theorem endSupply_lr (s : State) : (endSupply s).lr = s.lr := rfl
@[simp] theorem endSupply_ctr (s : State) : (endSupply s).ctr = s.ctr := rfl
@[simp] theorem endSupply_pc (s : State) : (endSupply s).pc = s.pc := rfl
@[simp] theorem endSupply_msr (s : State) : (endSupply s).msr = s.msr := rfl
@[simp] theorem endSupply_sup (s : State) : (endSupply s).sup = s.sup := rfl
@[simp] theorem endSupply_mmu (s : State) : (endSupply s).mmu = s.mmu := rfl
@[simp] theorem endSupply_hid (s : State) : (endSupply s).hid = s.hid := rfl
@[simp] theorem endSupply_perf (s : State) : (endSupply s).perf = s.perf := rfl
@[simp] theorem endSupply_therm (s : State) : (endSupply s).therm = s.therm := rfl
@[simp] theorem endSupply_tim (s : State) : (endSupply s).tim = s.tim := rfl
@[simp] theorem endSupply_resv (s : State) : (endSupply s).resv = s.resv := rfl
@[simp] theorem endSupply_caches (s : State) : (endSupply s).caches = s.caches := rfl
@[simp] theorem endSupply_latch (s : State) : (endSupply s).latch = s.latch := rfl
@[simp] theorem endSupply_pins (s : State) : (endSupply s).pins = s.pins := rfl
@[simp] theorem endSupply_run (s : State) : (endSupply s).run = s.run := rfl
@[simp] theorem endSupply_mem (s : State) : (endSupply s).mem = s.mem := rfl
@[simp] theorem endSupply_tea (s : State) : (endSupply s).tea = s.tea := rfl
@[simp] theorem endSupply_devices (s : State) : (endSupply s).devices = s.devices := rfl
@[simp] theorem endSupply_storeQueue (s : State) : (endSupply s).storeQueue = s.storeQueue := rfl
@[simp] theorem endSupply_busLog (s : State) : (endSupply s).busLog = s.busLog := rfl
@[simp] theorem endSupply_freeCtr (s : State) : (endSupply s).freeCtr = s.freeCtr := rfl
@[simp] theorem endSupply_excTaken (s : State) : (endSupply s).excTaken = s.excTaken := rfl
@[simp] theorem endSupply_traceDue (s : State) : (endSupply s).traceDue = s.traceDue := rfl
@[simp] theorem endSupply_powAsked (s : State) : (endSupply s).powAsked = s.powAsked := rfl
@[simp] theorem endSupply_ctx (s : State) : (endSupply s).ctx = s.ctx := rfl
@[simp] theorem endSupply_fetch (s : State) : (endSupply s).fetch = s.fetch := rfl
@[simp] theorem endSupply_seen (s : State) : (endSupply s).seen = s.seen := rfl
@[simp] theorem endSupply_supply (s : State) : (endSupply s).supply = ⟨[], []⟩ := rfl
@[simp] theorem endSupply_env (s : State) : (endSupply s).env = s.env := rfl

/-! ## `setCrField` -/

@[simp] theorem setCrField_gpr (n : CrField) (v : BitVec 4) (s : State) : (setCrField n v s).gpr = s.gpr := rfl
@[simp] theorem setCrField_fpr (n : CrField) (v : BitVec 4) (s : State) : (setCrField n v s).fpr = s.fpr := rfl
@[simp] theorem setCrField_fprInit (n : CrField) (v : BitVec 4) (s : State) : (setCrField n v s).fprInit = s.fprInit := rfl
@[simp] theorem setCrField_cr (n : CrField) (v : BitVec 4) (s : State) : (setCrField n v s).cr = merge (crFieldMask n) s.cr ((v ++ (0 : BitVec 28)) >>> (4 * n.toNat)) := rfl
@[simp] theorem setCrField_fpscr (n : CrField) (v : BitVec 4) (s : State) : (setCrField n v s).fpscr = s.fpscr := rfl
@[simp] theorem setCrField_xer (n : CrField) (v : BitVec 4) (s : State) : (setCrField n v s).xer = s.xer := rfl
@[simp] theorem setCrField_lr (n : CrField) (v : BitVec 4) (s : State) : (setCrField n v s).lr = s.lr := rfl
@[simp] theorem setCrField_ctr (n : CrField) (v : BitVec 4) (s : State) : (setCrField n v s).ctr = s.ctr := rfl
@[simp] theorem setCrField_pc (n : CrField) (v : BitVec 4) (s : State) : (setCrField n v s).pc = s.pc := rfl
@[simp] theorem setCrField_msr (n : CrField) (v : BitVec 4) (s : State) : (setCrField n v s).msr = s.msr := rfl
@[simp] theorem setCrField_sup (n : CrField) (v : BitVec 4) (s : State) : (setCrField n v s).sup = s.sup := rfl
@[simp] theorem setCrField_mmu (n : CrField) (v : BitVec 4) (s : State) : (setCrField n v s).mmu = s.mmu := rfl
@[simp] theorem setCrField_hid (n : CrField) (v : BitVec 4) (s : State) : (setCrField n v s).hid = s.hid := rfl
@[simp] theorem setCrField_perf (n : CrField) (v : BitVec 4) (s : State) : (setCrField n v s).perf = s.perf := rfl
@[simp] theorem setCrField_therm (n : CrField) (v : BitVec 4) (s : State) : (setCrField n v s).therm = s.therm := rfl
@[simp] theorem setCrField_tim (n : CrField) (v : BitVec 4) (s : State) : (setCrField n v s).tim = s.tim := rfl
@[simp] theorem setCrField_resv (n : CrField) (v : BitVec 4) (s : State) : (setCrField n v s).resv = s.resv := rfl
@[simp] theorem setCrField_caches (n : CrField) (v : BitVec 4) (s : State) : (setCrField n v s).caches = s.caches := rfl
@[simp] theorem setCrField_latch (n : CrField) (v : BitVec 4) (s : State) : (setCrField n v s).latch = s.latch := rfl
@[simp] theorem setCrField_pins (n : CrField) (v : BitVec 4) (s : State) : (setCrField n v s).pins = s.pins := rfl
@[simp] theorem setCrField_run (n : CrField) (v : BitVec 4) (s : State) : (setCrField n v s).run = s.run := rfl
@[simp] theorem setCrField_mem (n : CrField) (v : BitVec 4) (s : State) : (setCrField n v s).mem = s.mem := rfl
@[simp] theorem setCrField_tea (n : CrField) (v : BitVec 4) (s : State) : (setCrField n v s).tea = s.tea := rfl
@[simp] theorem setCrField_devices (n : CrField) (v : BitVec 4) (s : State) : (setCrField n v s).devices = s.devices := rfl
@[simp] theorem setCrField_storeQueue (n : CrField) (v : BitVec 4) (s : State) : (setCrField n v s).storeQueue = s.storeQueue := rfl
@[simp] theorem setCrField_busLog (n : CrField) (v : BitVec 4) (s : State) : (setCrField n v s).busLog = s.busLog := rfl
@[simp] theorem setCrField_freeCtr (n : CrField) (v : BitVec 4) (s : State) : (setCrField n v s).freeCtr = s.freeCtr := rfl
@[simp] theorem setCrField_excTaken (n : CrField) (v : BitVec 4) (s : State) : (setCrField n v s).excTaken = s.excTaken := rfl
@[simp] theorem setCrField_traceDue (n : CrField) (v : BitVec 4) (s : State) : (setCrField n v s).traceDue = s.traceDue := rfl
@[simp] theorem setCrField_powAsked (n : CrField) (v : BitVec 4) (s : State) : (setCrField n v s).powAsked = s.powAsked := rfl
@[simp] theorem setCrField_ctx (n : CrField) (v : BitVec 4) (s : State) : (setCrField n v s).ctx = s.ctx := rfl
@[simp] theorem setCrField_fetch (n : CrField) (v : BitVec 4) (s : State) : (setCrField n v s).fetch = s.fetch := rfl
@[simp] theorem setCrField_seen (n : CrField) (v : BitVec 4) (s : State) : (setCrField n v s).seen = s.seen := rfl
@[simp] theorem setCrField_supply (n : CrField) (v : BitVec 4) (s : State) : (setCrField n v s).supply = s.supply := rfl
@[simp] theorem setCrField_env (n : CrField) (v : BitVec 4) (s : State) : (setCrField n v s).env = s.env := rfl

/-! ## `setCrBit` -/

@[simp] theorem setCrBit_gpr (n : Reg) (b : Bool) (s : State) : (setCrBit n b s).gpr = s.gpr := rfl
@[simp] theorem setCrBit_fpr (n : Reg) (b : Bool) (s : State) : (setCrBit n b s).fpr = s.fpr := rfl
@[simp] theorem setCrBit_fprInit (n : Reg) (b : Bool) (s : State) : (setCrBit n b s).fprInit = s.fprInit := rfl
@[simp] theorem setCrBit_cr (n : Reg) (b : Bool) (s : State) : (setCrBit n b s).cr = setBit s.cr n.toNat b := rfl
@[simp] theorem setCrBit_fpscr (n : Reg) (b : Bool) (s : State) : (setCrBit n b s).fpscr = s.fpscr := rfl
@[simp] theorem setCrBit_xer (n : Reg) (b : Bool) (s : State) : (setCrBit n b s).xer = s.xer := rfl
@[simp] theorem setCrBit_lr (n : Reg) (b : Bool) (s : State) : (setCrBit n b s).lr = s.lr := rfl
@[simp] theorem setCrBit_ctr (n : Reg) (b : Bool) (s : State) : (setCrBit n b s).ctr = s.ctr := rfl
@[simp] theorem setCrBit_pc (n : Reg) (b : Bool) (s : State) : (setCrBit n b s).pc = s.pc := rfl
@[simp] theorem setCrBit_msr (n : Reg) (b : Bool) (s : State) : (setCrBit n b s).msr = s.msr := rfl
@[simp] theorem setCrBit_sup (n : Reg) (b : Bool) (s : State) : (setCrBit n b s).sup = s.sup := rfl
@[simp] theorem setCrBit_mmu (n : Reg) (b : Bool) (s : State) : (setCrBit n b s).mmu = s.mmu := rfl
@[simp] theorem setCrBit_hid (n : Reg) (b : Bool) (s : State) : (setCrBit n b s).hid = s.hid := rfl
@[simp] theorem setCrBit_perf (n : Reg) (b : Bool) (s : State) : (setCrBit n b s).perf = s.perf := rfl
@[simp] theorem setCrBit_therm (n : Reg) (b : Bool) (s : State) : (setCrBit n b s).therm = s.therm := rfl
@[simp] theorem setCrBit_tim (n : Reg) (b : Bool) (s : State) : (setCrBit n b s).tim = s.tim := rfl
@[simp] theorem setCrBit_resv (n : Reg) (b : Bool) (s : State) : (setCrBit n b s).resv = s.resv := rfl
@[simp] theorem setCrBit_caches (n : Reg) (b : Bool) (s : State) : (setCrBit n b s).caches = s.caches := rfl
@[simp] theorem setCrBit_latch (n : Reg) (b : Bool) (s : State) : (setCrBit n b s).latch = s.latch := rfl
@[simp] theorem setCrBit_pins (n : Reg) (b : Bool) (s : State) : (setCrBit n b s).pins = s.pins := rfl
@[simp] theorem setCrBit_run (n : Reg) (b : Bool) (s : State) : (setCrBit n b s).run = s.run := rfl
@[simp] theorem setCrBit_mem (n : Reg) (b : Bool) (s : State) : (setCrBit n b s).mem = s.mem := rfl
@[simp] theorem setCrBit_tea (n : Reg) (b : Bool) (s : State) : (setCrBit n b s).tea = s.tea := rfl
@[simp] theorem setCrBit_devices (n : Reg) (b : Bool) (s : State) : (setCrBit n b s).devices = s.devices := rfl
@[simp] theorem setCrBit_storeQueue (n : Reg) (b : Bool) (s : State) : (setCrBit n b s).storeQueue = s.storeQueue := rfl
@[simp] theorem setCrBit_busLog (n : Reg) (b : Bool) (s : State) : (setCrBit n b s).busLog = s.busLog := rfl
@[simp] theorem setCrBit_freeCtr (n : Reg) (b : Bool) (s : State) : (setCrBit n b s).freeCtr = s.freeCtr := rfl
@[simp] theorem setCrBit_excTaken (n : Reg) (b : Bool) (s : State) : (setCrBit n b s).excTaken = s.excTaken := rfl
@[simp] theorem setCrBit_traceDue (n : Reg) (b : Bool) (s : State) : (setCrBit n b s).traceDue = s.traceDue := rfl
@[simp] theorem setCrBit_powAsked (n : Reg) (b : Bool) (s : State) : (setCrBit n b s).powAsked = s.powAsked := rfl
@[simp] theorem setCrBit_ctx (n : Reg) (b : Bool) (s : State) : (setCrBit n b s).ctx = s.ctx := rfl
@[simp] theorem setCrBit_fetch (n : Reg) (b : Bool) (s : State) : (setCrBit n b s).fetch = s.fetch := rfl
@[simp] theorem setCrBit_seen (n : Reg) (b : Bool) (s : State) : (setCrBit n b s).seen = s.seen := rfl
@[simp] theorem setCrBit_supply (n : Reg) (b : Bool) (s : State) : (setCrBit n b s).supply = s.supply := rfl
@[simp] theorem setCrBit_env (n : Reg) (b : Bool) (s : State) : (setCrBit n b s).env = s.env := rfl

/-! ## `setCa` -/

@[simp] theorem setCa_gpr (c : Bool) (s : State) : (setCa c s).gpr = s.gpr := rfl
@[simp] theorem setCa_fpr (c : Bool) (s : State) : (setCa c s).fpr = s.fpr := rfl
@[simp] theorem setCa_fprInit (c : Bool) (s : State) : (setCa c s).fprInit = s.fprInit := rfl
@[simp] theorem setCa_cr (c : Bool) (s : State) : (setCa c s).cr = s.cr := rfl
@[simp] theorem setCa_fpscr (c : Bool) (s : State) : (setCa c s).fpscr = s.fpscr := rfl
@[simp] theorem setCa_xer (c : Bool) (s : State) : (setCa c s).xer = setBit s.xer 2 c := rfl
@[simp] theorem setCa_lr (c : Bool) (s : State) : (setCa c s).lr = s.lr := rfl
@[simp] theorem setCa_ctr (c : Bool) (s : State) : (setCa c s).ctr = s.ctr := rfl
@[simp] theorem setCa_pc (c : Bool) (s : State) : (setCa c s).pc = s.pc := rfl
@[simp] theorem setCa_msr (c : Bool) (s : State) : (setCa c s).msr = s.msr := rfl
@[simp] theorem setCa_sup (c : Bool) (s : State) : (setCa c s).sup = s.sup := rfl
@[simp] theorem setCa_mmu (c : Bool) (s : State) : (setCa c s).mmu = s.mmu := rfl
@[simp] theorem setCa_hid (c : Bool) (s : State) : (setCa c s).hid = s.hid := rfl
@[simp] theorem setCa_perf (c : Bool) (s : State) : (setCa c s).perf = s.perf := rfl
@[simp] theorem setCa_therm (c : Bool) (s : State) : (setCa c s).therm = s.therm := rfl
@[simp] theorem setCa_tim (c : Bool) (s : State) : (setCa c s).tim = s.tim := rfl
@[simp] theorem setCa_resv (c : Bool) (s : State) : (setCa c s).resv = s.resv := rfl
@[simp] theorem setCa_caches (c : Bool) (s : State) : (setCa c s).caches = s.caches := rfl
@[simp] theorem setCa_latch (c : Bool) (s : State) : (setCa c s).latch = s.latch := rfl
@[simp] theorem setCa_pins (c : Bool) (s : State) : (setCa c s).pins = s.pins := rfl
@[simp] theorem setCa_run (c : Bool) (s : State) : (setCa c s).run = s.run := rfl
@[simp] theorem setCa_mem (c : Bool) (s : State) : (setCa c s).mem = s.mem := rfl
@[simp] theorem setCa_tea (c : Bool) (s : State) : (setCa c s).tea = s.tea := rfl
@[simp] theorem setCa_devices (c : Bool) (s : State) : (setCa c s).devices = s.devices := rfl
@[simp] theorem setCa_storeQueue (c : Bool) (s : State) : (setCa c s).storeQueue = s.storeQueue := rfl
@[simp] theorem setCa_busLog (c : Bool) (s : State) : (setCa c s).busLog = s.busLog := rfl
@[simp] theorem setCa_freeCtr (c : Bool) (s : State) : (setCa c s).freeCtr = s.freeCtr := rfl
@[simp] theorem setCa_excTaken (c : Bool) (s : State) : (setCa c s).excTaken = s.excTaken := rfl
@[simp] theorem setCa_traceDue (c : Bool) (s : State) : (setCa c s).traceDue = s.traceDue := rfl
@[simp] theorem setCa_powAsked (c : Bool) (s : State) : (setCa c s).powAsked = s.powAsked := rfl
@[simp] theorem setCa_ctx (c : Bool) (s : State) : (setCa c s).ctx = s.ctx := rfl
@[simp] theorem setCa_fetch (c : Bool) (s : State) : (setCa c s).fetch = s.fetch := rfl
@[simp] theorem setCa_seen (c : Bool) (s : State) : (setCa c s).seen = s.seen := rfl
@[simp] theorem setCa_supply (c : Bool) (s : State) : (setCa c s).supply = s.supply := rfl
@[simp] theorem setCa_env (c : Bool) (s : State) : (setCa c s).env = s.env := rfl

/-! ## `setOv` -/

@[simp] theorem setOv_gpr (v : Bool) (s : State) : (setOv v s).gpr = s.gpr := rfl
@[simp] theorem setOv_fpr (v : Bool) (s : State) : (setOv v s).fpr = s.fpr := rfl
@[simp] theorem setOv_fprInit (v : Bool) (s : State) : (setOv v s).fprInit = s.fprInit := rfl
@[simp] theorem setOv_cr (v : Bool) (s : State) : (setOv v s).cr = s.cr := rfl
@[simp] theorem setOv_fpscr (v : Bool) (s : State) : (setOv v s).fpscr = s.fpscr := rfl
@[simp] theorem setOv_xer (v : Bool) (s : State) : (setOv v s).xer = setBit (setBit s.xer 1 v) 0 (xerSo s || v) := rfl
@[simp] theorem setOv_lr (v : Bool) (s : State) : (setOv v s).lr = s.lr := rfl
@[simp] theorem setOv_ctr (v : Bool) (s : State) : (setOv v s).ctr = s.ctr := rfl
@[simp] theorem setOv_pc (v : Bool) (s : State) : (setOv v s).pc = s.pc := rfl
@[simp] theorem setOv_msr (v : Bool) (s : State) : (setOv v s).msr = s.msr := rfl
@[simp] theorem setOv_sup (v : Bool) (s : State) : (setOv v s).sup = s.sup := rfl
@[simp] theorem setOv_mmu (v : Bool) (s : State) : (setOv v s).mmu = s.mmu := rfl
@[simp] theorem setOv_hid (v : Bool) (s : State) : (setOv v s).hid = s.hid := rfl
@[simp] theorem setOv_perf (v : Bool) (s : State) : (setOv v s).perf = s.perf := rfl
@[simp] theorem setOv_therm (v : Bool) (s : State) : (setOv v s).therm = s.therm := rfl
@[simp] theorem setOv_tim (v : Bool) (s : State) : (setOv v s).tim = s.tim := rfl
@[simp] theorem setOv_resv (v : Bool) (s : State) : (setOv v s).resv = s.resv := rfl
@[simp] theorem setOv_caches (v : Bool) (s : State) : (setOv v s).caches = s.caches := rfl
@[simp] theorem setOv_latch (v : Bool) (s : State) : (setOv v s).latch = s.latch := rfl
@[simp] theorem setOv_pins (v : Bool) (s : State) : (setOv v s).pins = s.pins := rfl
@[simp] theorem setOv_run (v : Bool) (s : State) : (setOv v s).run = s.run := rfl
@[simp] theorem setOv_mem (v : Bool) (s : State) : (setOv v s).mem = s.mem := rfl
@[simp] theorem setOv_tea (v : Bool) (s : State) : (setOv v s).tea = s.tea := rfl
@[simp] theorem setOv_devices (v : Bool) (s : State) : (setOv v s).devices = s.devices := rfl
@[simp] theorem setOv_storeQueue (v : Bool) (s : State) : (setOv v s).storeQueue = s.storeQueue := rfl
@[simp] theorem setOv_busLog (v : Bool) (s : State) : (setOv v s).busLog = s.busLog := rfl
@[simp] theorem setOv_freeCtr (v : Bool) (s : State) : (setOv v s).freeCtr = s.freeCtr := rfl
@[simp] theorem setOv_excTaken (v : Bool) (s : State) : (setOv v s).excTaken = s.excTaken := rfl
@[simp] theorem setOv_traceDue (v : Bool) (s : State) : (setOv v s).traceDue = s.traceDue := rfl
@[simp] theorem setOv_powAsked (v : Bool) (s : State) : (setOv v s).powAsked = s.powAsked := rfl
@[simp] theorem setOv_ctx (v : Bool) (s : State) : (setOv v s).ctx = s.ctx := rfl
@[simp] theorem setOv_fetch (v : Bool) (s : State) : (setOv v s).fetch = s.fetch := rfl
@[simp] theorem setOv_seen (v : Bool) (s : State) : (setOv v s).seen = s.seen := rfl
@[simp] theorem setOv_supply (v : Bool) (s : State) : (setOv v s).supply = s.supply := rfl
@[simp] theorem setOv_env (v : Bool) (s : State) : (setOv v s).env = s.env := rfl

/-! ## `poke` -/

@[simp] theorem poke_gpr (s : State) (pa : Word) (v : Byte) : (poke s pa v).gpr = s.gpr := rfl
@[simp] theorem poke_fpr (s : State) (pa : Word) (v : Byte) : (poke s pa v).fpr = s.fpr := rfl
@[simp] theorem poke_fprInit (s : State) (pa : Word) (v : Byte) : (poke s pa v).fprInit = s.fprInit := rfl
@[simp] theorem poke_cr (s : State) (pa : Word) (v : Byte) : (poke s pa v).cr = s.cr := rfl
@[simp] theorem poke_fpscr (s : State) (pa : Word) (v : Byte) : (poke s pa v).fpscr = s.fpscr := rfl
@[simp] theorem poke_xer (s : State) (pa : Word) (v : Byte) : (poke s pa v).xer = s.xer := rfl
@[simp] theorem poke_lr (s : State) (pa : Word) (v : Byte) : (poke s pa v).lr = s.lr := rfl
@[simp] theorem poke_ctr (s : State) (pa : Word) (v : Byte) : (poke s pa v).ctr = s.ctr := rfl
@[simp] theorem poke_pc (s : State) (pa : Word) (v : Byte) : (poke s pa v).pc = s.pc := rfl
@[simp] theorem poke_msr (s : State) (pa : Word) (v : Byte) : (poke s pa v).msr = s.msr := rfl
@[simp] theorem poke_sup (s : State) (pa : Word) (v : Byte) : (poke s pa v).sup = s.sup := rfl
@[simp] theorem poke_mmu (s : State) (pa : Word) (v : Byte) : (poke s pa v).mmu = s.mmu := rfl
@[simp] theorem poke_hid (s : State) (pa : Word) (v : Byte) : (poke s pa v).hid = s.hid := rfl
@[simp] theorem poke_perf (s : State) (pa : Word) (v : Byte) : (poke s pa v).perf = s.perf := rfl
@[simp] theorem poke_therm (s : State) (pa : Word) (v : Byte) : (poke s pa v).therm = s.therm := rfl
@[simp] theorem poke_tim (s : State) (pa : Word) (v : Byte) : (poke s pa v).tim = s.tim := rfl
@[simp] theorem poke_resv (s : State) (pa : Word) (v : Byte) : (poke s pa v).resv = s.resv := rfl
@[simp] theorem poke_caches (s : State) (pa : Word) (v : Byte) : (poke s pa v).caches = s.caches := rfl
@[simp] theorem poke_latch (s : State) (pa : Word) (v : Byte) : (poke s pa v).latch = s.latch := rfl
@[simp] theorem poke_pins (s : State) (pa : Word) (v : Byte) : (poke s pa v).pins = s.pins := rfl
@[simp] theorem poke_run (s : State) (pa : Word) (v : Byte) : (poke s pa v).run = s.run := rfl
@[simp] theorem poke_mem (s : State) (pa : Word) (v : Byte) : (poke s pa v).mem = memWrite s.mem pa.toNat v := rfl
@[simp] theorem poke_tea (s : State) (pa : Word) (v : Byte) : (poke s pa v).tea = s.tea := rfl
@[simp] theorem poke_devices (s : State) (pa : Word) (v : Byte) : (poke s pa v).devices = s.devices := rfl
@[simp] theorem poke_storeQueue (s : State) (pa : Word) (v : Byte) : (poke s pa v).storeQueue = s.storeQueue := rfl
@[simp] theorem poke_busLog (s : State) (pa : Word) (v : Byte) : (poke s pa v).busLog = s.busLog := rfl
@[simp] theorem poke_freeCtr (s : State) (pa : Word) (v : Byte) : (poke s pa v).freeCtr = s.freeCtr := rfl
@[simp] theorem poke_excTaken (s : State) (pa : Word) (v : Byte) : (poke s pa v).excTaken = s.excTaken := rfl
@[simp] theorem poke_traceDue (s : State) (pa : Word) (v : Byte) : (poke s pa v).traceDue = s.traceDue := rfl
@[simp] theorem poke_powAsked (s : State) (pa : Word) (v : Byte) : (poke s pa v).powAsked = s.powAsked := rfl
@[simp] theorem poke_ctx (s : State) (pa : Word) (v : Byte) : (poke s pa v).ctx = s.ctx := rfl
@[simp] theorem poke_fetch (s : State) (pa : Word) (v : Byte) : (poke s pa v).fetch = s.fetch := rfl
@[simp] theorem poke_seen (s : State) (pa : Word) (v : Byte) : (poke s pa v).seen = s.seen := rfl
@[simp] theorem poke_supply (s : State) (pa : Word) (v : Byte) : (poke s pa v).supply = s.supply := rfl
@[simp] theorem poke_env (s : State) (pa : Word) (v : Byte) : (poke s pa v).env = s.env := rfl

/-! ## `raiseTea` -/

@[simp] theorem raiseTea_gpr (s : State) : (raiseTea s).gpr = s.gpr := rfl
@[simp] theorem raiseTea_fpr (s : State) : (raiseTea s).fpr = s.fpr := rfl
@[simp] theorem raiseTea_fprInit (s : State) : (raiseTea s).fprInit = s.fprInit := rfl
@[simp] theorem raiseTea_cr (s : State) : (raiseTea s).cr = s.cr := rfl
@[simp] theorem raiseTea_fpscr (s : State) : (raiseTea s).fpscr = s.fpscr := rfl
@[simp] theorem raiseTea_xer (s : State) : (raiseTea s).xer = s.xer := rfl
@[simp] theorem raiseTea_lr (s : State) : (raiseTea s).lr = s.lr := rfl
@[simp] theorem raiseTea_ctr (s : State) : (raiseTea s).ctr = s.ctr := rfl
@[simp] theorem raiseTea_pc (s : State) : (raiseTea s).pc = s.pc := rfl
@[simp] theorem raiseTea_msr (s : State) : (raiseTea s).msr = s.msr := rfl
@[simp] theorem raiseTea_sup (s : State) : (raiseTea s).sup = s.sup := rfl
@[simp] theorem raiseTea_mmu (s : State) : (raiseTea s).mmu = s.mmu := rfl
@[simp] theorem raiseTea_hid (s : State) : (raiseTea s).hid = s.hid := rfl
@[simp] theorem raiseTea_perf (s : State) : (raiseTea s).perf = s.perf := rfl
@[simp] theorem raiseTea_therm (s : State) : (raiseTea s).therm = s.therm := rfl
@[simp] theorem raiseTea_tim (s : State) : (raiseTea s).tim = s.tim := rfl
@[simp] theorem raiseTea_resv (s : State) : (raiseTea s).resv = s.resv := rfl
@[simp] theorem raiseTea_caches (s : State) : (raiseTea s).caches = s.caches := rfl
@[simp] theorem raiseTea_latch (s : State) : (raiseTea s).latch = { s.latch with machineCheck := true, mcCause := s.latch.mcCause ||| 0b00100 } := rfl
@[simp] theorem raiseTea_pins (s : State) : (raiseTea s).pins = s.pins := rfl
@[simp] theorem raiseTea_run (s : State) : (raiseTea s).run = s.run := rfl
@[simp] theorem raiseTea_mem (s : State) : (raiseTea s).mem = s.mem := rfl
@[simp] theorem raiseTea_tea (s : State) : (raiseTea s).tea = s.tea := rfl
@[simp] theorem raiseTea_devices (s : State) : (raiseTea s).devices = s.devices := rfl
@[simp] theorem raiseTea_storeQueue (s : State) : (raiseTea s).storeQueue = s.storeQueue := rfl
@[simp] theorem raiseTea_busLog (s : State) : (raiseTea s).busLog = s.busLog := rfl
@[simp] theorem raiseTea_freeCtr (s : State) : (raiseTea s).freeCtr = s.freeCtr := rfl
@[simp] theorem raiseTea_excTaken (s : State) : (raiseTea s).excTaken = s.excTaken := rfl
@[simp] theorem raiseTea_traceDue (s : State) : (raiseTea s).traceDue = s.traceDue := rfl
@[simp] theorem raiseTea_powAsked (s : State) : (raiseTea s).powAsked = s.powAsked := rfl
@[simp] theorem raiseTea_ctx (s : State) : (raiseTea s).ctx = s.ctx := rfl
@[simp] theorem raiseTea_fetch (s : State) : (raiseTea s).fetch = s.fetch := rfl
@[simp] theorem raiseTea_seen (s : State) : (raiseTea s).seen = s.seen := rfl
@[simp] theorem raiseTea_supply (s : State) : (raiseTea s).supply = s.supply := rfl
@[simp] theorem raiseTea_env (s : State) : (raiseTea s).env = s.env := rfl

/-! ## `logBus` -/

@[simp] theorem logBus_gpr (op : BusOp) (s : State) : (logBus op s).gpr = s.gpr := rfl
@[simp] theorem logBus_fpr (op : BusOp) (s : State) : (logBus op s).fpr = s.fpr := rfl
@[simp] theorem logBus_fprInit (op : BusOp) (s : State) : (logBus op s).fprInit = s.fprInit := rfl
@[simp] theorem logBus_cr (op : BusOp) (s : State) : (logBus op s).cr = s.cr := rfl
@[simp] theorem logBus_fpscr (op : BusOp) (s : State) : (logBus op s).fpscr = s.fpscr := rfl
@[simp] theorem logBus_xer (op : BusOp) (s : State) : (logBus op s).xer = s.xer := rfl
@[simp] theorem logBus_lr (op : BusOp) (s : State) : (logBus op s).lr = s.lr := rfl
@[simp] theorem logBus_ctr (op : BusOp) (s : State) : (logBus op s).ctr = s.ctr := rfl
@[simp] theorem logBus_pc (op : BusOp) (s : State) : (logBus op s).pc = s.pc := rfl
@[simp] theorem logBus_msr (op : BusOp) (s : State) : (logBus op s).msr = s.msr := rfl
@[simp] theorem logBus_sup (op : BusOp) (s : State) : (logBus op s).sup = s.sup := rfl
@[simp] theorem logBus_mmu (op : BusOp) (s : State) : (logBus op s).mmu = s.mmu := rfl
@[simp] theorem logBus_hid (op : BusOp) (s : State) : (logBus op s).hid = s.hid := rfl
@[simp] theorem logBus_perf (op : BusOp) (s : State) : (logBus op s).perf = s.perf := rfl
@[simp] theorem logBus_therm (op : BusOp) (s : State) : (logBus op s).therm = s.therm := rfl
@[simp] theorem logBus_tim (op : BusOp) (s : State) : (logBus op s).tim = s.tim := rfl
@[simp] theorem logBus_resv (op : BusOp) (s : State) : (logBus op s).resv = s.resv := rfl
@[simp] theorem logBus_caches (op : BusOp) (s : State) : (logBus op s).caches = s.caches := rfl
@[simp] theorem logBus_latch (op : BusOp) (s : State) : (logBus op s).latch = s.latch := rfl
@[simp] theorem logBus_pins (op : BusOp) (s : State) : (logBus op s).pins = s.pins := rfl
@[simp] theorem logBus_run (op : BusOp) (s : State) : (logBus op s).run = s.run := rfl
@[simp] theorem logBus_mem (op : BusOp) (s : State) : (logBus op s).mem = s.mem := rfl
@[simp] theorem logBus_tea (op : BusOp) (s : State) : (logBus op s).tea = s.tea := rfl
@[simp] theorem logBus_devices (op : BusOp) (s : State) : (logBus op s).devices = s.devices := rfl
@[simp] theorem logBus_storeQueue (op : BusOp) (s : State) : (logBus op s).storeQueue = s.storeQueue := rfl
@[simp] theorem logBus_busLog (op : BusOp) (s : State) : (logBus op s).busLog = op :: s.busLog := rfl
@[simp] theorem logBus_freeCtr (op : BusOp) (s : State) : (logBus op s).freeCtr = s.freeCtr := rfl
@[simp] theorem logBus_excTaken (op : BusOp) (s : State) : (logBus op s).excTaken = s.excTaken := rfl
@[simp] theorem logBus_traceDue (op : BusOp) (s : State) : (logBus op s).traceDue = s.traceDue := rfl
@[simp] theorem logBus_powAsked (op : BusOp) (s : State) : (logBus op s).powAsked = s.powAsked := rfl
@[simp] theorem logBus_ctx (op : BusOp) (s : State) : (logBus op s).ctx = s.ctx := rfl
@[simp] theorem logBus_fetch (op : BusOp) (s : State) : (logBus op s).fetch = s.fetch := rfl
@[simp] theorem logBus_seen (op : BusOp) (s : State) : (logBus op s).seen = s.seen := rfl
@[simp] theorem logBus_supply (op : BusOp) (s : State) : (logBus op s).supply = s.supply := rfl
@[simp] theorem logBus_env (op : BusOp) (s : State) : (logBus op s).env = s.env := rfl

/-! ## `fresh` -/

@[simp] theorem fresh_gpr (w : Nat) (s : State) : (fresh w s).2.gpr = s.gpr := rfl
@[simp] theorem fresh_fpr (w : Nat) (s : State) : (fresh w s).2.fpr = s.fpr := rfl
@[simp] theorem fresh_fprInit (w : Nat) (s : State) : (fresh w s).2.fprInit = s.fprInit := rfl
@[simp] theorem fresh_cr (w : Nat) (s : State) : (fresh w s).2.cr = s.cr := rfl
@[simp] theorem fresh_fpscr (w : Nat) (s : State) : (fresh w s).2.fpscr = s.fpscr := rfl
@[simp] theorem fresh_xer (w : Nat) (s : State) : (fresh w s).2.xer = s.xer := rfl
@[simp] theorem fresh_lr (w : Nat) (s : State) : (fresh w s).2.lr = s.lr := rfl
@[simp] theorem fresh_ctr (w : Nat) (s : State) : (fresh w s).2.ctr = s.ctr := rfl
@[simp] theorem fresh_pc (w : Nat) (s : State) : (fresh w s).2.pc = s.pc := rfl
@[simp] theorem fresh_msr (w : Nat) (s : State) : (fresh w s).2.msr = s.msr := rfl
@[simp] theorem fresh_sup (w : Nat) (s : State) : (fresh w s).2.sup = s.sup := rfl
@[simp] theorem fresh_mmu (w : Nat) (s : State) : (fresh w s).2.mmu = s.mmu := rfl
@[simp] theorem fresh_hid (w : Nat) (s : State) : (fresh w s).2.hid = s.hid := rfl
@[simp] theorem fresh_perf (w : Nat) (s : State) : (fresh w s).2.perf = s.perf := rfl
@[simp] theorem fresh_therm (w : Nat) (s : State) : (fresh w s).2.therm = s.therm := rfl
@[simp] theorem fresh_tim (w : Nat) (s : State) : (fresh w s).2.tim = s.tim := rfl
@[simp] theorem fresh_resv (w : Nat) (s : State) : (fresh w s).2.resv = s.resv := rfl
@[simp] theorem fresh_caches (w : Nat) (s : State) : (fresh w s).2.caches = s.caches := rfl
@[simp] theorem fresh_latch (w : Nat) (s : State) : (fresh w s).2.latch = s.latch := rfl
@[simp] theorem fresh_pins (w : Nat) (s : State) : (fresh w s).2.pins = s.pins := rfl
@[simp] theorem fresh_run (w : Nat) (s : State) : (fresh w s).2.run = s.run := rfl
@[simp] theorem fresh_mem (w : Nat) (s : State) : (fresh w s).2.mem = s.mem := rfl
@[simp] theorem fresh_tea (w : Nat) (s : State) : (fresh w s).2.tea = s.tea := rfl
@[simp] theorem fresh_devices (w : Nat) (s : State) : (fresh w s).2.devices = s.devices := rfl
@[simp] theorem fresh_storeQueue (w : Nat) (s : State) : (fresh w s).2.storeQueue = s.storeQueue := rfl
@[simp] theorem fresh_busLog (w : Nat) (s : State) : (fresh w s).2.busLog = s.busLog := rfl
@[simp] theorem fresh_freeCtr (w : Nat) (s : State) : (fresh w s).2.freeCtr = s.freeCtr + 1 := rfl
@[simp] theorem fresh_excTaken (w : Nat) (s : State) : (fresh w s).2.excTaken = s.excTaken := rfl
@[simp] theorem fresh_traceDue (w : Nat) (s : State) : (fresh w s).2.traceDue = s.traceDue := rfl
@[simp] theorem fresh_powAsked (w : Nat) (s : State) : (fresh w s).2.powAsked = s.powAsked := rfl
@[simp] theorem fresh_ctx (w : Nat) (s : State) : (fresh w s).2.ctx = s.ctx := rfl
@[simp] theorem fresh_fetch (w : Nat) (s : State) : (fresh w s).2.fetch = s.fetch := rfl
@[simp] theorem fresh_seen (w : Nat) (s : State) : (fresh w s).2.seen = s.seen := rfl
@[simp] theorem fresh_supply (w : Nat) (s : State) : (fresh w s).2.supply = s.supply := rfl
@[simp] theorem fresh_env (w : Nat) (s : State) : (fresh w s).2.env = s.env := rfl

/-! ## `dsetPut` -/

@[simp] theorem dsetPut_gpr (s : State) (i : Fin 128) (x : DSet) : (dsetPut s i x).gpr = s.gpr := rfl
@[simp] theorem dsetPut_fpr (s : State) (i : Fin 128) (x : DSet) : (dsetPut s i x).fpr = s.fpr := rfl
@[simp] theorem dsetPut_fprInit (s : State) (i : Fin 128) (x : DSet) : (dsetPut s i x).fprInit = s.fprInit := rfl
@[simp] theorem dsetPut_cr (s : State) (i : Fin 128) (x : DSet) : (dsetPut s i x).cr = s.cr := rfl
@[simp] theorem dsetPut_fpscr (s : State) (i : Fin 128) (x : DSet) : (dsetPut s i x).fpscr = s.fpscr := rfl
@[simp] theorem dsetPut_xer (s : State) (i : Fin 128) (x : DSet) : (dsetPut s i x).xer = s.xer := rfl
@[simp] theorem dsetPut_lr (s : State) (i : Fin 128) (x : DSet) : (dsetPut s i x).lr = s.lr := rfl
@[simp] theorem dsetPut_ctr (s : State) (i : Fin 128) (x : DSet) : (dsetPut s i x).ctr = s.ctr := rfl
@[simp] theorem dsetPut_pc (s : State) (i : Fin 128) (x : DSet) : (dsetPut s i x).pc = s.pc := rfl
@[simp] theorem dsetPut_msr (s : State) (i : Fin 128) (x : DSet) : (dsetPut s i x).msr = s.msr := rfl
@[simp] theorem dsetPut_sup (s : State) (i : Fin 128) (x : DSet) : (dsetPut s i x).sup = s.sup := rfl
@[simp] theorem dsetPut_mmu (s : State) (i : Fin 128) (x : DSet) : (dsetPut s i x).mmu = s.mmu := rfl
@[simp] theorem dsetPut_hid (s : State) (i : Fin 128) (x : DSet) : (dsetPut s i x).hid = s.hid := rfl
@[simp] theorem dsetPut_perf (s : State) (i : Fin 128) (x : DSet) : (dsetPut s i x).perf = s.perf := rfl
@[simp] theorem dsetPut_therm (s : State) (i : Fin 128) (x : DSet) : (dsetPut s i x).therm = s.therm := rfl
@[simp] theorem dsetPut_tim (s : State) (i : Fin 128) (x : DSet) : (dsetPut s i x).tim = s.tim := rfl
@[simp] theorem dsetPut_resv (s : State) (i : Fin 128) (x : DSet) : (dsetPut s i x).resv = s.resv := rfl
@[simp] theorem dsetPut_caches (s : State) (i : Fin 128) (x : DSet) : (dsetPut s i x).caches = { s.caches with dcache := s.caches.dcache.set i.val x i.isLt } := rfl
@[simp] theorem dsetPut_latch (s : State) (i : Fin 128) (x : DSet) : (dsetPut s i x).latch = s.latch := rfl
@[simp] theorem dsetPut_pins (s : State) (i : Fin 128) (x : DSet) : (dsetPut s i x).pins = s.pins := rfl
@[simp] theorem dsetPut_run (s : State) (i : Fin 128) (x : DSet) : (dsetPut s i x).run = s.run := rfl
@[simp] theorem dsetPut_mem (s : State) (i : Fin 128) (x : DSet) : (dsetPut s i x).mem = s.mem := rfl
@[simp] theorem dsetPut_tea (s : State) (i : Fin 128) (x : DSet) : (dsetPut s i x).tea = s.tea := rfl
@[simp] theorem dsetPut_devices (s : State) (i : Fin 128) (x : DSet) : (dsetPut s i x).devices = s.devices := rfl
@[simp] theorem dsetPut_storeQueue (s : State) (i : Fin 128) (x : DSet) : (dsetPut s i x).storeQueue = s.storeQueue := rfl
@[simp] theorem dsetPut_busLog (s : State) (i : Fin 128) (x : DSet) : (dsetPut s i x).busLog = s.busLog := rfl
@[simp] theorem dsetPut_freeCtr (s : State) (i : Fin 128) (x : DSet) : (dsetPut s i x).freeCtr = s.freeCtr := rfl
@[simp] theorem dsetPut_excTaken (s : State) (i : Fin 128) (x : DSet) : (dsetPut s i x).excTaken = s.excTaken := rfl
@[simp] theorem dsetPut_traceDue (s : State) (i : Fin 128) (x : DSet) : (dsetPut s i x).traceDue = s.traceDue := rfl
@[simp] theorem dsetPut_powAsked (s : State) (i : Fin 128) (x : DSet) : (dsetPut s i x).powAsked = s.powAsked := rfl
@[simp] theorem dsetPut_ctx (s : State) (i : Fin 128) (x : DSet) : (dsetPut s i x).ctx = s.ctx := rfl
@[simp] theorem dsetPut_fetch (s : State) (i : Fin 128) (x : DSet) : (dsetPut s i x).fetch = s.fetch := rfl
@[simp] theorem dsetPut_seen (s : State) (i : Fin 128) (x : DSet) : (dsetPut s i x).seen = s.seen := rfl
@[simp] theorem dsetPut_supply (s : State) (i : Fin 128) (x : DSet) : (dsetPut s i x).supply = s.supply := rfl
@[simp] theorem dsetPut_env (s : State) (i : Fin 128) (x : DSet) : (dsetPut s i x).env = s.env := rfl

/-! ## `isetPut` -/

@[simp] theorem isetPut_gpr (s : State) (i : Fin 128) (x : ISet) : (isetPut s i x).gpr = s.gpr := rfl
@[simp] theorem isetPut_fpr (s : State) (i : Fin 128) (x : ISet) : (isetPut s i x).fpr = s.fpr := rfl
@[simp] theorem isetPut_fprInit (s : State) (i : Fin 128) (x : ISet) : (isetPut s i x).fprInit = s.fprInit := rfl
@[simp] theorem isetPut_cr (s : State) (i : Fin 128) (x : ISet) : (isetPut s i x).cr = s.cr := rfl
@[simp] theorem isetPut_fpscr (s : State) (i : Fin 128) (x : ISet) : (isetPut s i x).fpscr = s.fpscr := rfl
@[simp] theorem isetPut_xer (s : State) (i : Fin 128) (x : ISet) : (isetPut s i x).xer = s.xer := rfl
@[simp] theorem isetPut_lr (s : State) (i : Fin 128) (x : ISet) : (isetPut s i x).lr = s.lr := rfl
@[simp] theorem isetPut_ctr (s : State) (i : Fin 128) (x : ISet) : (isetPut s i x).ctr = s.ctr := rfl
@[simp] theorem isetPut_pc (s : State) (i : Fin 128) (x : ISet) : (isetPut s i x).pc = s.pc := rfl
@[simp] theorem isetPut_msr (s : State) (i : Fin 128) (x : ISet) : (isetPut s i x).msr = s.msr := rfl
@[simp] theorem isetPut_sup (s : State) (i : Fin 128) (x : ISet) : (isetPut s i x).sup = s.sup := rfl
@[simp] theorem isetPut_mmu (s : State) (i : Fin 128) (x : ISet) : (isetPut s i x).mmu = s.mmu := rfl
@[simp] theorem isetPut_hid (s : State) (i : Fin 128) (x : ISet) : (isetPut s i x).hid = s.hid := rfl
@[simp] theorem isetPut_perf (s : State) (i : Fin 128) (x : ISet) : (isetPut s i x).perf = s.perf := rfl
@[simp] theorem isetPut_therm (s : State) (i : Fin 128) (x : ISet) : (isetPut s i x).therm = s.therm := rfl
@[simp] theorem isetPut_tim (s : State) (i : Fin 128) (x : ISet) : (isetPut s i x).tim = s.tim := rfl
@[simp] theorem isetPut_resv (s : State) (i : Fin 128) (x : ISet) : (isetPut s i x).resv = s.resv := rfl
@[simp] theorem isetPut_caches (s : State) (i : Fin 128) (x : ISet) : (isetPut s i x).caches = { s.caches with icache := s.caches.icache.set i.val x i.isLt } := rfl
@[simp] theorem isetPut_latch (s : State) (i : Fin 128) (x : ISet) : (isetPut s i x).latch = s.latch := rfl
@[simp] theorem isetPut_pins (s : State) (i : Fin 128) (x : ISet) : (isetPut s i x).pins = s.pins := rfl
@[simp] theorem isetPut_run (s : State) (i : Fin 128) (x : ISet) : (isetPut s i x).run = s.run := rfl
@[simp] theorem isetPut_mem (s : State) (i : Fin 128) (x : ISet) : (isetPut s i x).mem = s.mem := rfl
@[simp] theorem isetPut_tea (s : State) (i : Fin 128) (x : ISet) : (isetPut s i x).tea = s.tea := rfl
@[simp] theorem isetPut_devices (s : State) (i : Fin 128) (x : ISet) : (isetPut s i x).devices = s.devices := rfl
@[simp] theorem isetPut_storeQueue (s : State) (i : Fin 128) (x : ISet) : (isetPut s i x).storeQueue = s.storeQueue := rfl
@[simp] theorem isetPut_busLog (s : State) (i : Fin 128) (x : ISet) : (isetPut s i x).busLog = s.busLog := rfl
@[simp] theorem isetPut_freeCtr (s : State) (i : Fin 128) (x : ISet) : (isetPut s i x).freeCtr = s.freeCtr := rfl
@[simp] theorem isetPut_excTaken (s : State) (i : Fin 128) (x : ISet) : (isetPut s i x).excTaken = s.excTaken := rfl
@[simp] theorem isetPut_traceDue (s : State) (i : Fin 128) (x : ISet) : (isetPut s i x).traceDue = s.traceDue := rfl
@[simp] theorem isetPut_powAsked (s : State) (i : Fin 128) (x : ISet) : (isetPut s i x).powAsked = s.powAsked := rfl
@[simp] theorem isetPut_ctx (s : State) (i : Fin 128) (x : ISet) : (isetPut s i x).ctx = s.ctx := rfl
@[simp] theorem isetPut_fetch (s : State) (i : Fin 128) (x : ISet) : (isetPut s i x).fetch = s.fetch := rfl
@[simp] theorem isetPut_seen (s : State) (i : Fin 128) (x : ISet) : (isetPut s i x).seen = s.seen := rfl
@[simp] theorem isetPut_supply (s : State) (i : Fin 128) (x : ISet) : (isetPut s i x).supply = s.supply := rfl
@[simp] theorem isetPut_env (s : State) (i : Fin 128) (x : ISet) : (isetPut s i x).env = s.env := rfl

end Sys2Proof.Machine
end

