-- ==== Sys2Proof/Laws/Memory.lean ====
section
/-! SUPPORT. Memory: what a read after a write answers, and that every write keeps the canonical form (R200). -/

namespace Sys2Proof.Machine

/-! ## Reading after writing -/

/-- A byte below every listed address reads as an unlisted one. -/
theorem memRead_below {m : Mem} {k : Nat} {b : Byte} {a : Nat} (h : a < k) : memRead ((k, b) :: m) a = unlistedByte := by
  simp [memRead, Nat.ne_of_lt h, h]

/-- The tail of a canonical memory is canonical. -/
theorem memWf_tail {c : Host.Cell} {m : Mem} (h : memWf (c :: m) = true) : memWf m = true := by
  cases m with
  | nil => rfl
  | cons d m => simp [memWf] at h; exact h.2

/-- Every address of a canonical memory's tail lies above its head. -/
theorem memWf_head_lt {k : Nat} {b : Byte} {m : Mem} (h : memWf ((k, b) :: m) = true) :
    ∀ c ∈ m, k < c.1 := by
  induction m generalizing k b with
  | nil => simp
  | cons d m ih =>
    obtain ⟨k', b'⟩ := d
    simp only [memWf, Bool.and_eq_true, decide_eq_true_eq] at h
    intro c hc
    rcases List.mem_cons.1 hc with rfl | hc
    · exact h.1.1
    · exact Nat.lt_trans h.1.1 (ih h.2 c hc)

/-- An address below every listed one reads as unlisted. -/
theorem memRead_of_lt {m : Mem} {a : Nat} (h : ∀ c ∈ m, a < c.1) : memRead m a = unlistedByte := by
  cases m with
  | nil => rfl
  | cons c m => exact memRead_below (h c (List.mem_cons_self ..))

/-- A read of the byte just written gives it back. -/
theorem memRead_memWrite_same {m : Mem} (h : memWf m = true) (a : Nat) (v : Byte) : memRead (memWrite m a v) a = v := by
  induction m with
  | nil => by_cases hv : v = unlistedByte <;> simp [memWrite, memRead, hv]
  | cons c m ih =>
    obtain ⟨k, b⟩ := c
    have hm := ih (memWf_tail h)
    by_cases hak : a = k
    · subst hak
      by_cases hv : v = unlistedByte
      · simp [memWrite, hv, memRead_of_lt (memWf_head_lt h)]
      · simp [memWrite, memRead, hv]
    · by_cases hlt : a < k
      · by_cases hv : v = unlistedByte <;> simp [memWrite, memRead, hak, hlt, hv]
      · simp [memWrite, memRead, hak, hlt, hm]

/-- A write leaves every other byte alone. -/
theorem memRead_memWrite_other {m : Mem} (h : memWf m = true) {a x : Nat} (v : Byte) (hx : x ≠ a) :
    memRead (memWrite m a v) x = memRead m x := by
  induction m with
  | nil => by_cases hv : v = unlistedByte <;> simp [memWrite, memRead, hv, hx]
  | cons c m ih =>
    obtain ⟨k, b⟩ := c
    have hm := ih (memWf_tail h)
    have hup := memWf_head_lt h
    by_cases hak : a = k
    · subst hak
      by_cases hv : v = unlistedByte
      · simp only [memWrite, hv, if_pos]
        rcases Nat.lt_or_ge x a with hlt | hge
        · rw [memRead_below hlt, memRead_of_lt fun c hc => Nat.lt_trans hlt (hup c hc)]
        · simp [memRead, hx, Nat.not_lt.2 hge]
      · simp [memWrite, memRead, hv, hx]
    · by_cases hlt : a < k
      · by_cases hv : v = unlistedByte
        · simp [memWrite, hak, hlt, hv]
        · have e : memWrite ((k, b) :: m) a v = (a, v) :: (k, b) :: m := by simp [memWrite, hak, hlt, hv]
          rw [e]
          by_cases hxa : x < a
          · rw [memRead_below hxa, memRead_below (Nat.lt_trans hxa hlt)]
          · conv_lhs => rw [memRead]
            simp [hx, hxa]
      · simp only [memWrite, hak, hlt, if_false]
        simp only [memRead, hm]

/-! ## The canonical form -/

/-- A canonical memory with a smaller, listable byte put in front is canonical. -/
theorem memWf_cons {k : Nat} {b : Byte} {m : Mem} (hm : memWf m = true) (hlt : ∀ c ∈ m, k < c.1) (hb : b ≠ unlistedByte)
    (hk : k < 2 ^ 32) : memWf ((k, b) :: m) = true := by
  cases m with
  | nil => simpa [memWf, hb] using hk
  | cons c m =>
    obtain ⟨k', b'⟩ := c
    simp only [memWf, Bool.and_eq_true, decide_eq_true_eq]
    exact ⟨⟨hlt (k', b') (List.mem_cons_self ..), hb⟩, hm⟩

/-- The head of a canonical memory is listable. -/
theorem memWf_head {k : Nat} {b : Byte} {m : Mem} (h : memWf ((k, b) :: m) = true) : b ≠ unlistedByte ∧ k < 2 ^ 32 := by
  induction m generalizing k b with
  | nil => simp [memWf] at h; exact ⟨h.2, h.1⟩
  | cons c m ih =>
    obtain ⟨k', b'⟩ := c
    simp only [memWf, Bool.and_eq_true, decide_eq_true_eq] at h
    exact ⟨h.1.2, Nat.lt_trans h.1.1 (ih h.2).2⟩

/-- A write lists no address that was not listed, but its own. -/
theorem mem_memWrite {m : Mem} {a : Nat} {v : Byte} {c : Host.Cell} (h : c ∈ memWrite m a v) : c ∈ m ∨ c.1 = a := by
  induction m with
  | nil => by_cases hv : v = unlistedByte <;> simp_all [memWrite]
  | cons d m ih =>
    obtain ⟨k, b⟩ := d
    by_cases hak : a = k
    · by_cases hv : v = unlistedByte
      · simp only [memWrite, hak, hv, if_true] at h
        exact .inl (List.mem_cons_of_mem _ h)
      · simp only [memWrite, hak, hv, if_true, if_false, List.mem_cons] at h
        rcases h with rfl | h
        · exact .inr hak.symm
        · exact .inl (List.mem_cons_of_mem _ h)
    · by_cases hlt : a < k
      · by_cases hv : v = unlistedByte
        · simp only [memWrite, hak, hlt, hv, if_true, if_false] at h
          exact .inl h
        · simp only [memWrite, hak, hlt, hv, if_true, if_false, List.mem_cons] at h
          rcases h with rfl | h
          · exact .inr rfl
          · exact .inl (List.mem_cons.2 h)
      · simp only [memWrite, hak, hlt, if_false, List.mem_cons] at h
        rcases h with h | h
        · exact .inl (List.mem_cons.2 (.inl h))
        · rcases ih h with h | h
          · exact .inl (List.mem_cons.2 (.inr h))
          · exact .inr h

/-- A write keeps the canonical form. -/
theorem memWf_memWrite {m : Mem} (h : memWf m = true) {a : Nat} (ha : a < 2 ^ 32) (v : Byte) :
    memWf (memWrite m a v) = true := by
  induction m with
  | nil => by_cases hv : v = unlistedByte <;> simp [memWrite, memWf, hv]; omega
  | cons c m ih =>
    obtain ⟨k, b⟩ := c
    have hm := memWf_tail h
    have hup := memWf_head_lt h
    by_cases hak : a = k
    · subst hak
      by_cases hv : v = unlistedByte
      · simpa [memWrite, hv] using hm
      · simpa [memWrite, hv] using memWf_cons hm hup hv ha
    · by_cases hlt : a < k
      · by_cases hv : v = unlistedByte
        · simpa [memWrite, hak, hlt, hv] using h
        · have : memWf ((a, v) :: (k, b) :: m) = true :=
            memWf_cons h (fun c hc => by
              rcases List.mem_cons.1 hc with rfl | hc
              · exact hlt
              · exact Nat.lt_trans hlt (hup c hc)) hv ha
          simpa [memWrite, hak, hlt, hv] using this
      · have hk := memWf_head h
        have : memWf ((k, b) :: memWrite m a v) = true :=
          memWf_cons (ih hm) (fun c hc => by
            rcases mem_memWrite hc with hc | hc
            · exact hup c hc
            · omega) hk.1 hk.2
        simpa [memWrite, hak, hlt] using this

/-! ## The same for the machine's memory -/

/-- `poke` keeps memory canonical. -/
theorem poke_canonical {s : State} (h : MemoryCanonical s) (pa : Word) (v : Byte) : MemoryCanonical (poke s pa v) :=
  memWf_memWrite h pa.isLt v

/-- The byte just poked. -/
theorem peek_poke_same {s : State} (h : MemoryCanonical s) (pa : Word) (v : Byte) : peek (poke s pa v) pa = v :=
  memRead_memWrite_same h _ v

/-- Every other byte. -/
theorem peek_poke_other {s : State} (h : MemoryCanonical s) {pa x : Word} (v : Byte) (hx : x ≠ pa) :
    peek (poke s pa v) x = peek s x :=
  memRead_memWrite_other h v fun e => hx (BitVec.eq_of_toNat_eq e)

/-- `pokeBytes` changes memory only. -/
theorem pokeBytes_eq (bs : List Byte) (a : Word) (s : State) : pokeBytes bs a s = { s with mem := (pokeBytes bs a s).mem } := by
  induction bs generalizing a s with
  | nil => rfl
  | cons b bs ih => rw [pokeBytes, ih]; rfl

/-- `pokeBytes` keeps memory canonical. -/
theorem pokeBytes_canonical (bs : List Byte) (a : Word) {s : State} (h : MemoryCanonical s) :
    MemoryCanonical (pokeBytes bs a s) := by
  induction bs generalizing a s with
  | nil => exact h
  | cons b bs ih => exact ih _ (poke_canonical h a b)

/-- `pokeBytes` leaves every byte outside its range alone. -/
theorem peek_pokeBytes_outside (bs : List Byte) (a : Word) {s : State} (h : MemoryCanonical s) :
    MemoryOutside s (pokeBytes bs a s) a bs.length := by
  induction bs generalizing a s with
  | nil => intro x _; rfl
  | cons b bs ih =>
    intro x hx
    have h1 := ih (a + 1) (poke_canonical h a b) x fun k hk => by
      have := hx (k + 1) (by simpa using hk)
      rwa [show a + 1 + BitVec.ofNat 32 k = a + BitVec.ofNat 32 (k + 1) by
        rw [BitVec.add_assoc]; congr 1; apply BitVec.eq_of_toNat_eq; simp [Nat.add_comm]]
    have h2 : x ≠ a := by simpa using hx 0 (by simp)
    rw [pokeBytes, h1, peek_poke_other h b h2]

end Sys2Proof.Machine
end

