-- ==== Sys2Proof/Laws/Frame.lean ====
section
/-! SUPPORT. What the memory side can change: every operation on memory, caches, TLBs, the bus and the store queue
changes those, the machine check latch and the count of free values; another master's transaction in a gap also the
reservation and L2CR; and all of them keep memory canonical. -/

namespace Sys2Proof.Machine

/-- An operation of the memory side takes `s` to `t`. -/
structure MemSide (s t : State) : Prop where
  cpu : SameCpu s t
  mem : MemoryCanonical s → MemoryCanonical t

namespace MemSide

theorem refl (s : State) : MemSide s s := ⟨⟨rfl, fun h => ⟨h, rfl, rfl⟩, fun _ => rfl⟩, id⟩

theorem trans {s t u : State} (h : MemSide s t) (k : MemSide t u) : MemSide s u := by
  have h1 := h.cpu.frame
  have k1 := k.cpu.frame
  refine ⟨⟨by rw [k1, h1], fun a => ?_, fun e => ?_⟩, k.mem ∘ h.mem⟩
  · obtain ⟨a1, r1, d1⟩ := h.cpu.alone a
    obtain ⟨a2, r2, d2⟩ := k.cpu.alone a1
    exact ⟨a2, r2.trans r1, d2.trans d1⟩
  · have e1 := h.cpu.settled e
    exact (k.cpu.settled (by rw [e1]; exact e)).trans e1

/-- An update of the memory side that leaves memory itself alone, and what only another master or a use may change. -/
theorem of_eq {s t : State} (h : t = { s with
      caches := t.caches, mem := t.mem, latch := t.latch, freeCtr := t.freeCtr, busLog := t.busLog
      storeQueue := t.storeQueue, supply := t.supply, resv := t.resv
      hid := { s.hid with l2cr := t.hid.l2cr }
      mmu := { s.mmu with itlb := t.mmu.itlb, dtlb := t.mmu.dtlb }
      ctx := { s.ctx with inForce := t.ctx.inForce } })
    (hm : t.mem = s.mem) (hg : t.supply.gaps = s.supply.gaps) (hr : t.resv = s.resv) (hh : t.hid = s.hid)
    (hc : t.ctx = s.ctx) : MemSide s t :=
  ⟨⟨h, fun a => ⟨hg.trans a, hr, hh⟩, fun _ => hc⟩, fun k => by unfold MemoryCanonical at *; rw [hm]; exact k⟩

variable {s t : State} (h : MemSide s t)
include h

/-- The relation as the equation it is. -/
theorem eqn : t = { s with
    caches := t.caches, mem := t.mem, latch := t.latch, freeCtr := t.freeCtr, busLog := t.busLog
    storeQueue := t.storeQueue, supply := t.supply, resv := t.resv
    hid := { s.hid with l2cr := t.hid.l2cr }
    mmu := { s.mmu with itlb := t.mmu.itlb, dtlb := t.mmu.dtlb }
    ctx := { s.ctx with inForce := t.ctx.inForce } } := h.cpu.frame

theorem gpr : t.gpr = s.gpr := by rw [h.eqn]
theorem fpr : t.fpr = s.fpr := by rw [h.eqn]
theorem fprInit : t.fprInit = s.fprInit := by rw [h.eqn]
theorem cr : t.cr = s.cr := by rw [h.eqn]
theorem fpscr : t.fpscr = s.fpscr := by rw [h.eqn]
theorem xer : t.xer = s.xer := by rw [h.eqn]
theorem lr : t.lr = s.lr := by rw [h.eqn]
theorem ctr : t.ctr = s.ctr := by rw [h.eqn]
theorem pc : t.pc = s.pc := by rw [h.eqn]
theorem msr : t.msr = s.msr := by rw [h.eqn]
theorem sup : t.sup = s.sup := by rw [h.eqn]
theorem hid0 : t.hid.hid0 = s.hid.hid0 := by rw [h.eqn]
theorem hid1 : t.hid.hid1 = s.hid.hid1 := by rw [h.eqn]
theorem hid2 : t.hid.hid2 = s.hid.hid2 := by rw [h.eqn]
theorem iabr : t.hid.iabr = s.hid.iabr := by rw [h.eqn]
theorem ictc : t.hid.ictc = s.hid.ictc := by rw [h.eqn]
theorem perf : t.perf = s.perf := by rw [h.eqn]
theorem therm : t.therm = s.therm := by rw [h.eqn]
theorem tim : t.tim = s.tim := by rw [h.eqn]
theorem pins : t.pins = s.pins := by rw [h.eqn]
theorem run : t.run = s.run := by rw [h.eqn]
theorem tea : t.tea = s.tea := by rw [h.eqn]
theorem excTaken : t.excTaken = s.excTaken := by rw [h.eqn]
theorem traceDue : t.traceDue = s.traceDue := by rw [h.eqn]
theorem devices : t.devices = s.devices := by rw [h.eqn]
theorem powAsked : t.powAsked = s.powAsked := by rw [h.eqn]
theorem fetch : t.fetch = s.fetch := by rw [h.eqn]
theorem seen : t.seen = s.seen := by rw [h.eqn]
theorem stale : t.ctx.stale = s.ctx.stale := by rw [h.eqn]
theorem env : t.env = s.env := by rw [h.eqn]
theorem sr : t.mmu.sr = s.mmu.sr := by rw [h.eqn]
theorem sdr1 : t.mmu.sdr1 = s.mmu.sdr1 := by rw [h.eqn]
theorem ibat : t.mmu.ibat = s.mmu.ibat := by rw [h.eqn]
theorem dbat : t.mmu.dbat = s.mmu.dbat := by rw [h.eqn]
theorem tlbReady : t.mmu.tlbReady = s.mmu.tlbReady := by rw [h.eqn]

end MemSide

/-! ## Memory and the bus -/

theorem fresh_side (w : Nat) (s : State) : MemSide s (fresh w s).2 := .of_eq rfl rfl rfl rfl rfl rfl

theorem freshBytes_side (n : Nat) (s : State) : MemSide s (freshBytes n s).2 := by
  induction n generalizing s with
  | zero => exact .refl s
  | succ n ih => exact (fresh_side 8 s).trans (ih _)

theorem raiseTea_side (s : State) : MemSide s (raiseTea s) := .of_eq rfl rfl rfl rfl rfl rfl

theorem poke_side (s : State) (pa : Word) (v : Byte) : MemSide s (poke s pa v) :=
  ⟨⟨rfl, fun h => ⟨h, rfl, rfl⟩, fun _ => rfl⟩, fun h => poke_canonical h pa v⟩

theorem pokeBytes_side (bs : List Byte) (a : Word) (s : State) : MemSide s (pokeBytes bs a s) := by
  induction bs generalizing a s with
  | nil => exact .refl s
  | cons b bs ih => exact (poke_side s a b).trans (ih _ _)

theorem logBus_side (op : BusOp) (s : State) : MemSide s (logBus op s) := .of_eq rfl rfl rfl rfl rfl rfl

theorem deviceRead_side (pa : Word) (s : State) : MemSide s (deviceRead pa s).2 := by
  unfold deviceRead
  dsimp only
  split
  · exact (logBus_side _ s).trans (.of_eq rfl rfl rfl rfl rfl rfl)
  · exact (logBus_side _ s).trans (fresh_side _ _)

theorem deviceReads_side (n : Nat) (pa : Word) (s : State) : MemSide s (deviceReads n pa s).2 := by
  induction n generalizing pa s with
  | zero => exact .refl s
  | succ n ih => exact (deviceRead_side pa s).trans (ih _ _)

theorem deviceWrites_side (vs : List Byte) (pa : Word) (s : State) : MemSide s (deviceWrites vs pa s) := by
  induction vs generalizing pa s with
  | nil => exact .refl s
  | cons v vs ih => exact (logBus_side _ s).trans (ih _ _)

theorem beginStore_side (s : State) : MemSide s (beginStore s) := .of_eq rfl rfl rfl rfl rfl rfl

theorem settleBlock_side (b : BitVec 27) (s : State) : MemSide s (settleBlock b s) := .of_eq rfl rfl rfl rfl rfl rfl

theorem drainStores_side (s : State) : MemSide s (drainStores s) := .of_eq rfl rfl rfl rfl rfl rfl

theorem forget_side (p : Nat → Bool) (s : State) : MemSide s (forget p s) := .of_eq rfl rfl rfl rfl rfl rfl

theorem restore_side (l : List Replaced) (s : State) : MemSide s (restore l s) := by
  induction l generalizing s with
  | nil => exact .refl s
  | cons e l ih =>
    refine MemSide.trans ?_ (ih _)
    split
    · exact .refl s
    · exact poke_side _ _ _

theorem someNewest_side (s : State) : MemSide s (someNewest s).2 := fresh_side 32 s

theorem loseStores_side (s : State) : MemSide s (loseStores s) := by
  unfold loseStores
  split
  · exact .refl s
  · exact (someNewest_side s).trans (restore_side _ _)

theorem queueOld_side (l2 : Bool) (pa : Word) (old : Byte) (s : State) : MemSide s (queueOld l2 pa old s) :=
  .of_eq rfl rfl rfl rfl rfl rfl

theorem busReadByte_side (pa : Word) (s : State) : MemSide s (busReadByte pa s).2 := by
  unfold busReadByte
  split
  · exact (raiseTea_side s).trans (fresh_side _ _)
  · split
    · exact deviceRead_side _ _
    · exact .refl s

theorem busWriteByte_side (pa : Word) (v : Byte) (s : State) : MemSide s (busWriteByte pa v s) := by
  unfold busWriteByte
  split
  · exact raiseTea_side s
  · split
    · exact logBus_side _ _
    · exact (queueOld_side _ _ _ _).trans (poke_side _ _ _)

theorem busReadBlock_side (b : BitVec 27) (s : State) : MemSide s (busReadBlock b s).2 := by
  unfold busReadBlock
  split
  · exact (raiseTea_side s).trans (freshBytes_side 32 _)
  · split
    · exact deviceReads_side _ _ _
    · exact .refl s

theorem busWriteBlock_side (b : BitVec 27) (d : BlockData) (s : State) : MemSide s (busWriteBlock b d s) := by
  unfold busWriteBlock
  split
  · exact raiseTea_side s
  · split
    · exact deviceWrites_side _ _ _
    · exact pokeBytes_side _ _ _

theorem busReadWord_side (pa : Word) (s : State) : MemSide s (busReadWord pa s).2 :=
  (((busReadByte_side pa s).trans (busReadByte_side _ _)).trans (busReadByte_side _ _)).trans (busReadByte_side _ _)

/-! ## The caches -/

theorem dsetPut_side (s : State) (i : Fin 128) (x : DSet) : MemSide s (dsetPut s i x) := .of_eq rfl rfl rfl rfl rfl rfl
theorem isetPut_side (s : State) (i : Fin 128) (x : ISet) : MemSide s (isetPut s i x) := .of_eq rfl rfl rfl rfl rfl rfl
theorem dWayPut_side (s : State) (pa : Word) (w : Fin 8) (b : Option DBlock) : MemSide s (dWayPut s pa w b) := .of_eq rfl rfl rfl rfl rfl rfl
theorem dTouch_side (s : State) (pa : Word) (w : Fin 8) : MemSide s (dTouch s pa w) := .of_eq rfl rfl rfl rfl rfl rfl
theorem l2SetPut_side (s : State) (pa : Word) (x : L2Set) : MemSide s (l2SetPut s pa x) := .of_eq rfl rfl rfl rfl rfl rfl
theorem l2SectorPut_side (s : State) (pa : Word) (w : Fin 2) (x : Option L2Sector) : MemSide s (l2SectorPut s pa w x) :=
  .of_eq rfl rfl rfl rfl rfl rfl
theorem l2Touch_side (s : State) (pa : Word) (w : Fin 2) : MemSide s (l2Touch s pa w) := .of_eq rfl rfl rfl rfl rfl rfl
theorem l2LinePut_side (s : State) (pa : Word) (w : Fin 2) (l : L2Line) : MemSide s (l2LinePut s pa w l) :=
  .of_eq rfl rfl rfl rfl rfl rfl

theorem beginPush_side (b : BitVec 27) (s : State) : MemSide s (beginPush b s) := .of_eq rfl rfl rfl rfl rfl rfl

theorem push_side (b : BitVec 27) (d : BlockData) (s : State) : MemSide s (push b d s) := by
  unfold push
  dsimp only
  split
  · split
    · exact (busWriteBlock_side _ _ _).trans (l2SectorPut_side _ _ _ _)
    · exact busWriteBlock_side _ _ _
  · exact busWriteBlock_side _ _ _

theorem ownPush_side (b : BitVec 27) (d : BlockData) (s : State) : MemSide s (ownPush b d s) :=
  (beginPush_side _ _).trans (push_side _ _ _)

theorem pushIf_side (b : BitVec 27) (d : BlockData) (c : Bool) (s : State) :
    MemSide s (if c = true then push b d s else s) := by
  split
  · exact push_side _ _ _
  · exact .refl s

theorem flashInvalidateD_side (s : State) : MemSide s (flashInvalidateD s) := .of_eq rfl rfl rfl rfl rfl rfl
theorem flashInvalidateI_side (s : State) : MemSide s (flashInvalidateI s) := .of_eq rfl rfl rfl rfl rfl rfl
theorem clearL2_side (s : State) : MemSide s (clearL2 s) := .of_eq rfl rfl rfl rfl rfl rfl
theorem invalidateISet_side (ea : Word) (s : State) : MemSide s (invalidateISet ea s) := .of_eq rfl rfl rfl rfl rfl rfl

/-! ## Old or new (R1140) -/

theorem chooseAll_side (p : Control → Bool) (l : List (Control × Word)) (s : State) (hs : s.ctx.stale ≠ []) :
    MemSide s (chooseAll p l s) := by
  induction l generalizing s with
  | nil => exact .refl s
  | cons e l ih =>
    obtain ⟨c, old⟩ := e
    unfold chooseAll
    split
    · refine MemSide.trans ?_ (ih _ ?_)
      · exact ⟨⟨rfl, fun h => ⟨h, rfl, rfl⟩, fun h => absurd h hs⟩, id⟩
      · exact hs
    · exact ih s hs

/-- All a use can do: choose anew what is in force, where a window is open. -/
theorem rechoose_side (p : Control → Bool) (s : State) : MemSide s (rechoose p s) := by
  unfold rechoose
  split
  · exact .refl s
  · next h =>
    have hs : s.ctx.stale ≠ [] := by simpa using h
    refine MemSide.trans ?_ (chooseAll_side p _ _ hs)
    exact ⟨⟨rfl, fun h => ⟨h, rfl, rfl⟩, fun h => absurd h hs⟩, id⟩

theorem newUse_side (s : State) : MemSide s (newUse s) := rechoose_side _ s
theorem furtherUse_side (s : State) : MemSide s (furtherUse s) := rechoose_side _ s
theorem iabrUse_side (s : State) : MemSide s (iabrUse s) := rechoose_side _ s

section Settled

variable {s : State} (h : Settled s)
include h

theorem settled_rechoose (p : Control → Bool) : rechoose p s = s := by simp [rechoose, h.stale]
theorem settled_newUse : newUse s = s := settled_rechoose h _
theorem settled_furtherUse : furtherUse s = s := settled_rechoose h _
theorem settled_iabrUse : iabrUse s = s := settled_rechoose h _

/-- Where nothing is open every control is the register. -/
theorem settled_control (c : Control) : control s c = held s c := by simp [control, h.inForce]

end Settled

/-! ## Other masters (R250, R370) -/

/-- A transaction of another master takes `s` to `t`: the memory side, the reservation, L2CR. -/
structure OtherSide (s t : State) : Prop where
  frame : t = { s with
    caches := t.caches, mem := t.mem, latch := t.latch, freeCtr := t.freeCtr, busLog := t.busLog
    storeQueue := t.storeQueue, supply := t.supply, resv := t.resv
    hid := { s.hid with l2cr := t.hid.l2cr }
    mmu := { s.mmu with itlb := t.mmu.itlb, dtlb := t.mmu.dtlb }
    ctx := { s.ctx with inForce := t.ctx.inForce } }
  settled : s.ctx.stale = [] → t.ctx = s.ctx
  mem : MemoryCanonical s → MemoryCanonical t

theorem OtherSide.trans {s t u : State} (h : OtherSide s t) (k : OtherSide t u) : OtherSide s u := by
  have h1 := h.frame
  have k1 := k.frame
  refine ⟨by rw [k1, h1], fun e => ?_, k.mem ∘ h.mem⟩
  have e1 := h.settled e
  exact (k.settled (by rw [e1]; exact e)).trans e1

theorem MemSide.other {s t : State} (h : MemSide s t) : OtherSide s t := ⟨h.cpu.frame, h.cpu.settled, h.mem⟩

theorem otherWrites_other (bs : List Byte) (pa : Word) (s : State) : OtherSide s (otherWrites bs pa s) := by
  induction bs generalizing pa s with
  | nil => exact (MemSide.refl s).other
  | cons b bs ih =>
    unfold otherWrites
    refine OtherSide.trans ?_ (ih _ _)
    split
    · exact (MemSide.refl s).other
    · exact ((forget_side _ _).trans (poke_side _ _ _)).other

theorem snoopL1_side (act : SnoopAction) (pa : Word) (s : State) : MemSide s (snoopL1 act pa s) := by
  unfold snoopL1
  split
  · split
    · have h := fun c => pushIf_side (blockOf pa) ‹DBlock›.data c s
      cases act
      · exact .refl s
      · exact (h _).trans (dWayPut_side _ _ _ _)
      · exact (h _).trans (dWayPut_side _ _ _ _)
      · exact (h _).trans (dWayPut_side _ _ _ _)
    · exact .refl s
  · exact .refl s

theorem snoopL2_side (act : SnoopAction) (pa : Word) (s : State) : MemSide s (snoopL2 act pa s) := by
  have h : ∀ (c : Bool) (d : BlockData), MemSide s (if c = true then busWriteBlock (blockOf pa) d s else s) := by
    intro c d
    split
    · exact busWriteBlock_side _ _ _
    · exact .refl s
  unfold snoopL2
  split
  · split
    · cases act
      · exact .refl s
      · exact (h _ _).trans (l2SectorPut_side _ _ _ _)
      · exact (h _ _).trans (l2SectorPut_side _ _ _ _)
      · exact (h _ _).trans (l2SectorPut_side _ _ _ _)
    · exact .refl s
  · exact .refl s

theorem snoopLocked_other (pa : Word) (before s : State) : OtherSide s (snoopLocked pa before s) := by
  unfold snoopLocked
  split
  · split
    · exact ⟨rfl, fun _ => rfl, id⟩
    · exact (MemSide.refl s).other
  · exact (MemSide.refl s).other

theorem snoopCaches_other (act : SnoopAction) (g : Bool) (pa : Word) (s : State) :
    OtherSide s (snoopCaches act g pa s) := by
  unfold snoopCaches
  split
  · exact (((snoopL1_side _ _ _).trans (snoopL2_side _ _ _)).other.trans (snoopLocked_other _ _ _)).trans
      (settleBlock_side _ _).other
  · exact (MemSide.refl _).other

theorem snooped_other (act : SnoopAction) (x : Snoop) (s : State) : OtherSide s (snooped act x s) := by
  unfold snooped
  split
  · refine OtherSide.trans ?_ (snoopCaches_other _ _ _ _)
    split
    · exact ⟨rfl, fun _ => rfl, id⟩
    · exact (MemSide.refl s).other
  · exact (MemSide.refl s).other

theorem applySnoop_other (x : Snoop) (s : State) : OtherSide s (applySnoop x s) := by
  unfold applySnoop
  split
  · exact (MemSide.refl s).other
  · exact (snooped_other _ _ _).trans (otherWrites_other _ _ _)

theorem applySnoops_other (l : List Snoop) (s : State) : OtherSide s (applySnoops l s) := by
  induction l generalizing s with
  | nil => exact (MemSide.refl s).other
  | cons x l ih => exact (applySnoop_other x s).trans (ih _)

/-- No gap, no other master. -/
theorem gap_alone {s : State} (h : Alone s) : gap s = s := by
  unfold Alone at h
  simp [gap, h]

/-- All a gap can do. -/
theorem gap_side (s : State) : MemSide s (gap s) := by
  have k : OtherSide s (gap s) := by
    unfold gap
    split
    · exact (MemSide.refl s).other
    · refine OtherSide.trans ?_ (applySnoops_other _ _)
      exact ⟨rfl, fun _ => rfl, id⟩
  exact ⟨⟨k.frame, fun a => by rw [gap_alone a]; exact ⟨a, rfl, rfl⟩, k.settled⟩, k.mem⟩

/-! ## The paths of an access (Machine/Paths.lean) -/

theorem l2CastoutSector_side (pa : Word) (w k : Fin 2) (s : State) : MemSide s (l2CastoutSector pa w k s) := by
  unfold l2CastoutSector
  dsimp only
  split
  · exact .refl s
  · split
    · exact ((gap_side s).trans ((beginPush_side _ _).trans (busWriteBlock_side _ _ _))).trans (l2LinePut_side _ _ _ _)
    · exact gap_side s

theorem l2Evict_side (pa : Word) (w : Fin 2) (s : State) : MemSide s (l2Evict pa w s) := by
  unfold l2Evict
  dsimp only
  split
  · exact .refl s
  · exact ((l2CastoutSector_side _ _ _ _).trans (l2CastoutSector_side _ _ _ _)).trans (l2LinePut_side _ _ _ _)

theorem l2Room_side (pa : Word) (s : State) : MemSide s (l2Room pa s).2 := by
  unfold l2Room
  split
  · split
    · exact .refl s
    · split
      · exact l2Evict_side _ _ _
      · exact .refl s
  · exact .refl s

theorem fetchBlock_side (useL2 : Bool) (pa : Word) (s : State) : MemSide s (fetchBlock useL2 pa s).2 := by
  unfold fetchBlock
  split
  · split
    · exact l2Touch_side _ _ _
    · have h := ((l2Room_side pa s).trans (gap_side _)).trans (busReadBlock_side (blockOf pa) _)
      dsimp only
      split
      · exact h.trans (l2SectorPut_side _ _ _ _)
      · exact h
  · exact (gap_side s).trans (busReadBlock_side _ _)

theorem castout_side (room : Option (Fin 2)) (b : BitVec 27) (d : BlockData) (s : State) :
    MemSide s (castout room b d s) := by
  unfold castout
  dsimp only
  refine (beginPush_side b s).trans ?_
  split
  · split
    · exact (l2SectorPut_side _ _ _ _).trans (busWriteBlock_side _ _ _)
    · exact l2SectorPut_side _ _ _ _
  · exact busWriteBlock_side _ _ _

theorem castoutWay_side (pa : Word) (w : Fin 8) (s : State) : MemSide s (castoutWay pa w s) := by
  unfold castoutWay
  dsimp only
  split
  · have h := fun p => (gap_side s).trans (l2Room_side p (gap s))
    split
    · exact ((h _).trans (castout_side _ _ _ _)).trans (dWayPut_side _ _ _ _)
    · exact h _
  · exact .refl s

theorem dFill_side (pa : Word) (s : State) : MemSide s (dFill pa s).2 :=
  (((castoutWay_side _ _ s).trans (fetchBlock_side _ _ _)).trans (dWayPut_side _ _ _ _)).trans (dTouch_side _ _ _)

theorem pushRoom_side (pa : Word) (s : State) : MemSide s (pushRoom pa s).2 := by
  unfold pushRoom
  split
  · split
    · split
      · exact l2Room_side _ _
      · split
        · exact .refl s
        · exact .refl s
    · exact .refl s
  · exact .refl s

theorem pushByInstr_side (room : Option (Fin 2)) (b : BitVec 27) (d : BlockData) (s : State) :
    MemSide s (pushByInstr room b d s) := by
  unfold pushByInstr
  split
  · exact castout_side _ _ _ _
  · exact ownPush_side _ _ _

theorem dEvictParadox_side (pa : Word) (s : State) : MemSide s (dEvictParadox pa s) := by
  unfold dEvictParadox
  split
  · split
    · dsimp only
      split
      · exact (((ownPush_side _ _ _).trans (dWayPut_side _ _ _ _)).trans (dTouch_side _ _ _)).trans (gap_side _)
      · exact (dWayPut_side _ _ _ _).trans (dTouch_side _ _ _)
    · exact .refl s
  · exact .refl s

theorem singleRead_side (pa : Word) (s : State) : MemSide s (singleRead pa s).2 := by
  unfold singleRead
  split
  · split
    · exact l2Touch_side _ _ _
    · exact busReadByte_side _ _
  · exact busReadByte_side _ _

theorem dataReadByte_side (pa : Word) (wimg : BitVec 4) (s : State) : MemSide s (dataReadByte pa wimg s).2 := by
  unfold dataReadByte
  split
  · exact (dEvictParadox_side pa s).trans (busReadByte_side _ _)
  · split
    · split
      · exact dTouch_side _ _ _
      · split
        · exact singleRead_side _ _
        · dsimp only
          split
          · exact dFill_side _ _
          · exact (dFill_side _ _).trans (busReadByte_side _ _)
    · exact singleRead_side _ _

theorem l2StoreByte_side (w : Fin 2) (sec : L2Sector) (m : Bool) (pa : Word) (v : Byte) (s : State) :
    MemSide s (l2StoreByte w sec m pa v s) := (queueOld_side _ _ _ _).trans (l2SectorPut_side _ _ _ _)

theorem writeThrough_side (pa : Word) (v : Byte) (s : State) : MemSide s (writeThrough pa v s) := by
  unfold writeThrough
  dsimp only
  refine MemSide.trans ?_ (busWriteByte_side _ _ _)
  split
  · split
    · exact l2StoreByte_side _ _ _ _ _ _
    · exact .refl s
  · exact .refl s

theorem singleWrite_side (pa : Word) (v : Byte) (s : State) : MemSide s (singleWrite pa v s) := by
  unfold singleWrite
  split
  · split
    · split
      · exact (l2StoreByte_side _ _ _ _ _ _).trans (busWriteByte_side _ _ _)
      · exact l2StoreByte_side _ _ _ _ _ _
    · split
      · exact .refl s
      · exact busWriteByte_side _ _ _
  · split
    · exact .refl s
    · exact busWriteByte_side _ _ _

theorem pushWritten_side (pa : Word) (wimg : BitVec 4) (s : State) : MemSide s (pushWritten pa wimg s) := by
  unfold pushWritten
  split
  · split
    · split
      · exact (ownPush_side _ _ _).trans (gap_side _)
      · exact .refl s
    · exact .refl s
  · exact .refl s

theorem dataWriteByte_side (pa : Word) (wimg : BitVec 4) (v : Byte) (s : State) :
    MemSide s (dataWriteByte pa wimg v s) := by
  unfold dataWriteByte
  split
  · exact (dEvictParadox_side pa s).trans (busWriteByte_side _ _ _)
  · split
    · split
      · split
        · exact ((dWayPut_side _ _ _ _).trans (dTouch_side _ _ _)).trans (writeThrough_side _ _ _)
        · exact (dWayPut_side _ _ _ _).trans (dTouch_side _ _ _)
      · split
        · exact writeThrough_side _ _ _
        · split
          · exact singleWrite_side _ _ _
          · dsimp only
            split
            · exact (dFill_side _ _).trans (dWayPut_side _ _ _ _)
            · exact dFill_side _ _
    · split
      · exact writeThrough_side _ _ _
      · exact singleWrite_side _ _ _

theorem condPush_side (way : Option (Fin 2)) (pa : Word) (wimg : BitVec 4) (s : State) :
    MemSide s (condPush way pa wimg s) := by
  unfold condPush
  split
  · exact dEvictParadox_side _ _
  · split
    · split
      · split
        · split
          · exact (((beginPush_side _ _).trans (busWriteBlock_side _ _ _)).trans (l2SectorPut_side _ _ _ _)).trans (gap_side _)
          · exact (ownPush_side _ _ _).trans (gap_side _)
        · exact .refl s
      · exact .refl s
    · exact .refl s

theorem condStoreL1_side (pa : Word) (wimg : BitVec 4) (v : Byte) (s : State) : MemSide s (condStoreL1 pa wimg v s) := by
  unfold condStoreL1
  split
  · split
    · exact (dWayPut_side _ _ _ _).trans (dTouch_side _ _ _)
    · exact .refl s
  · exact .refl s

theorem condStoreL2_side (way : Option (Fin 2)) (pa : Word) (wimg : BitVec 4) (v : Byte) (s : State) :
    MemSide s (condStoreL2 way pa wimg v s) := by
  unfold condStoreL2
  split
  · exact l2StoreByte_side _ _ _ _ _ _
  · split
    · split
      · exact (l2SectorPut_side _ _ _ _).trans (busWriteByte_side _ _ _)
      · exact busWriteByte_side _ _ _
    · exact busWriteByte_side _ _ _

theorem condStoreByte_side (way : Option (Fin 2)) (pa : Word) (wimg : BitVec 4) (v : Byte) (s : State) :
    MemSide s (condStoreByte way pa wimg v s) := (condStoreL1_side _ _ _ _).trans (condStoreL2_side _ _ _ _ _)

theorem fetchView_side (looks hit : Bool) (s : State) : MemSide s (fetchView looks hit s).2 := by
  unfold fetchView
  split
  · exact .refl s
  · exact someNewest_side s

theorem fetchSingle_side (pa : Word) (wimg : BitVec 4) (s : State) : MemSide s (fetchSingle pa wimg s).2 := by
  unfold fetchSingle
  dsimp only
  refine MemSide.trans ?_ (fetchView_side _ _ _)
  split
  · split
    · exact l2Touch_side _ _ _
    · exact busReadWord_side _ _
  · exact (gap_side s).trans (busReadWord_side _ _)

theorem fetchFill_side (pa : Word) (wimg : BitVec 4) (s : State) : MemSide s (fetchFill pa wimg s).2 :=
  ((fetchBlock_side _ _ _).trans (fetchView_side _ _ _)).trans (isetPut_side _ _ _)

theorem fetchMiss_side (pa : Word) (wimg : BitVec 4) (s : State) : MemSide s (fetchMiss pa wimg s).2 := by
  unfold fetchMiss
  split
  · exact fetchSingle_side _ _ _
  · exact fetchFill_side _ _ _

theorem fetchLeaving_side (old : BlockData) (pa : Word) (wimg : BitVec 4) (s : State) :
    MemSide s (fetchLeaving old pa wimg s).2 := by
  unfold fetchLeaving
  dsimp only
  split
  · exact fresh_side 1 s
  · exact (fresh_side 1 s).trans (fetchMiss_side _ _ _)

theorem fetchPhys_side (pa : Word) (wimg : BitVec 4) (s : State) : MemSide s (fetchPhys pa wimg s).2 := by
  unfold fetchPhys
  dsimp only
  split
  · split
    · split
      · exact isetPut_side _ _ _
      · exact fetchSingle_side pa _ s
    · split
      · exact fetchLeaving_side _ _ _ _
      · exact fetchMiss_side _ _ _
  · exact fetchSingle_side pa _ s

end Sys2Proof.Machine
end

