-- ==== Sys2Proof/Laws/Access.lean ====
section
/-! SUPPORT. What translation and the access primitives can do: they change the memory side, or take a DSI from such a
state, or meet a condition the spec gives no effect for. -/

namespace Sys2Proof.Machine

/-! ## Translation -/

theorem tableReadWord_side (pa : Word) (s : State) : MemSide s (tableReadWord pa s).2 := by
  unfold tableReadWord
  exact ((((gap_side s).trans (dataReadByte_side _ _ _)).trans (dataReadByte_side _ _ _)).trans
    (dataReadByte_side _ _ _)).trans (dataReadByte_side _ _ _)

theorem searchGroup_side (want : Word) (n : Nat) (pa : Word) (s : State) : MemSide s (searchGroup want n pa s).2 := by
  induction n generalizing pa s with
  | zero => exact .refl s
  | succ n ih =>
    unfold searchGroup
    dsimp only
    split
    · exact (tableReadWord_side _ _).trans (tableReadWord_side _ _)
    · exact (tableReadWord_side _ _).trans (ih _ _)

theorem tableSearch_side (vsid : BitVec 24) (ea : Word) (s : State) : MemSide s (tableSearch vsid ea s).2 := by
  unfold tableSearch
  dsimp only
  have h := searchGroup_side (pteWord0 vsid false ea) 8 (ptegAddr (control s .sdr1) (hashPrimary vsid ea)) s
  split
  · next r t e => rw [e] at h; exact h
  · next t e => rw [e] at h; exact h.trans (searchGroup_side _ _ _ _)

theorem setReferenced_side (pte w1 : Word) (s : State) : MemSide s (setReferenced pte w1 s) := by
  unfold setReferenced
  split
  · exact .refl s
  · exact (gap_side s).trans (dataWriteByte_side _ _ _ _)

theorem setChanged_side (pte w1 : Word) (s : State) : MemSide s (setChanged pte w1 s) := by
  unfold setChanged
  split
  · exact .refl s
  · exact (gap_side s).trans (dataWriteByte_side _ _ _ _)

theorem tlbSetPut_side (s : State) (k : Access) (ea : Word) (x : TlbSet) : MemSide s (tlbSetPut s k ea x) := by
  cases k <;> exact .of_eq rfl rfl rfl rfl rfl rfl

theorem tlbPut_side (s : State) (k : Access) (ea : Word) (w : Fin 2) (e : TlbEntry) : MemSide s (tlbPut s k ea w e) :=
  tlbSetPut_side _ _ _ _

/-- The state a translation leaves is `s` but for the memory side. -/
def XlatSide (s : State) : Xlat → Prop
  | .ok _ _ t => MemSide s t
  | .viol _ t => MemSide s t
  | .fault _ => True

theorem reload_side (w : Fin 2) (vsid : BitVec 24) (key : Bool) (k : Access) (ea : Word) (s : State) :
    XlatSide s (reload w vsid key k ea s) := by
  unfold reload
  have h := tableSearch_side vsid ea s
  split
  · next t e => rw [e] at h; exact h
  · next pte w1 t e =>
    rw [e] at h
    dsimp only
    split
    · exact (h.trans (setReferenced_side _ _ _)).trans (tlbPut_side _ _ _ _ _)
    · split
      · exact ((h.trans (setReferenced_side _ _ _)).trans (setChanged_side _ _ _)).trans (tlbPut_side _ _ _ _ _)
      · exact (h.trans (setReferenced_side _ _ _)).trans (tlbPut_side _ _ _ _ _)

theorem pageTranslate_side (search : Bool) (k : Access) (ea : Word) (s : State) :
    XlatSide s (pageTranslate search k ea s) := by
  unfold pageTranslate
  dsimp only
  split
  · exact .refl s
  · split
    · exact .refl s
    · split
      · split
        · split
          · exact tlbPut_side _ _ _ _ _
          · split
            · exact reload_side _ _ _ _ _ _
            · exact tlbPut_side _ _ _ _ _
        · exact .refl s
      · split
        · exact reload_side _ _ _ _ _ _
        · exact .refl s

theorem batTranslate_side (b : BatPair) (k : Access) (ea : Word) (s : State) : XlatSide s (batTranslate b k ea s) := by
  unfold batTranslate
  dsimp only
  split
  · exact .refl s
  · split <;> exact .refl s

theorem translateWith_side (search : Bool) (k : Access) (ea : Word) (s : State) :
    XlatSide s (translateWith search k ea s) := by
  unfold translateWith
  split
  · exact .refl s
  · split
    · trivial
    · split
      · exact pageTranslate_side _ _ _ _
      · exact batTranslate_side _ _ _ _
      · trivial

theorem translate_side (k : Access) (ea : Word) (s : State) : XlatSide s (translate k ea s) := translateWith_side _ _ _ _

/-! ## The bytes of an operand -/

theorem pieceGap_side (bus : Bool) (ea a : Word) (s : State) : MemSide s (pieceGap bus ea a s) := by
  unfold pieceGap
  split
  · exact gap_side s
  · exact .refl s

theorem readList_side (t : Span) (ea : Word) (as : List Word) (s : State) : MemSide s (readList t ea as s).2 := by
  induction as generalizing s with
  | nil => exact .refl s
  | cons a as ih => exact ((pieceGap_side _ _ _ _).trans (dataReadByte_side _ _ _)).trans (ih _)

theorem readList_length (t : Span) (ea : Word) (as : List Word) (s : State) :
    (readList t ea as s).1.length = as.length := by
  induction as generalizing s with
  | nil => rfl
  | cons a as ih => simp [readList, ih]

theorem writePieceByte_side (p : Word × BitVec 4) (ea a : Word) (b : Byte) (s : State) :
    MemSide s (writePieceByte p ea a b s) := by
  unfold writePieceByte
  refine (pieceGap_side (towardBus true p.1 p.2 s) ea a s).trans (MemSide.trans ?_ (dataWriteByte_side _ _ _ _))
  split
  · exact pushWritten_side _ _ _
  · exact .refl _

theorem writeList_side (t : Span) (ea a : Word) (bs : List Byte) (s : State) : MemSide s (writeList t ea a bs s) := by
  induction bs generalizing a s with
  | nil => exact .refl s
  | cons b bs ih => exact (writePieceByte_side _ _ _ _ _).trans (ih _ _)

theorem condStoreList_side (way : Option (Fin 2)) (t : Span) (ea a : Word) (bs : List Byte) (s : State) :
    MemSide s (condStoreList way t ea a bs s) := by
  induction bs generalizing a s with
  | nil => exact .refl s
  | cons b bs ih => exact (condStoreByte_side _ _ _ _ _).trans (ih _ _)

/-! ## Accesses -/

/-- A DSI taken from a state that differs from `s` on the memory side only. -/
def DsiFrom (s t : State) : Prop := ∃ u dar dsisr, MemSide s u ∧ t = takeDsi dar dsisr u

theorem DsiFrom.after {s u t : State} (h : MemSide s u) (k : DsiFrom u t) : DsiFrom s t := by
  obtain ⟨v, dar, dsisr, hv, rfl⟩ := k
  exact ⟨v, dar, dsisr, h.trans hv, rfl⟩

/-- Everything an access can do: go on, the memory side changed; take a DSI; meet a condition without an effect. -/
def ResSide {α : Type} (s : State) : Res α → Prop
  | .ok _ t => MemSide s t
  | .exc t => DsiFrom s t
  | .fault _ => True

theorem ResSide.after {α : Type} {s u : State} {r : Res α} (h : MemSide s u) (k : ResSide u r) : ResSide s r := by
  cases r with
  | ok a t => exact h.trans k
  | exc t => exact DsiFrom.after h k
  | fault f => trivial

theorem andThen_side {α β : Type} {s : State} {r : Res α} {f : α → State → Res β} (h : ResSide s r)
    (k : ∀ a t, ResSide t (f a t)) : ResSide s (andThen r f) := by
  cases r with
  | ok a t => exact (k a t).after h
  | exc t => exact h
  | fault e => trivial

theorem movePart_side (k : Access) (t : Span) (ea : Word) (n : Nat) (data : List Byte) (s : State) :
    MemSide s (movePart k t ea n data s) := by
  unfold movePart
  split
  · exact (beginStore_side _).trans (writeList_side _ _ _ _ _)
  · exact readList_side _ _ _ _

theorem firstPortion_side (part : Bool) (k : Access) (t : Span) (ea : Word) (n : Nat) (data : List Byte) (s : State) :
    MemSide s (firstPortion part k t ea n data s) := by
  unfold firstPortion
  split
  · dsimp only
    split
    · exact ((fresh_side _ _).trans (gap_side _)).trans (movePart_side _ _ _ _ _ _)
    · exact fresh_side _ _
  · exact .refl s

theorem firstFails_side (k : Access) (ea : Word) (n : Nat) (v : Violation) (s : State) :
    ResSide s (firstFails k ea n v s) := by
  have h : ∀ dar dsisr, DsiFrom s (takeDsi dar dsisr s) := fun dar dsisr => ⟨s, dar, dsisr, .refl s, rfl⟩
  unfold firstFails
  dsimp only
  split
  · exact h _ _
  · split
    · split
      · exact h _ _
      · exact h _ _
    · exact h _ _

theorem translateSpan_side (k : Access) (ea : Word) (n : Nat) (part : Bool) (data : List Byte) (s : State) :
    ResSide s (translateSpan k ea n part data s) := by
  unfold translateSpan
  have h := translate_side k ea s
  split
  · trivial
  · next v t e => rw [e] at h; exact (firstFails_side _ _ _ _ _).after h
  · next pa1 w1 t e =>
    rw [e] at h
    dsimp only
    split
    · exact h
    · have h2 := translate_side k (pageOf (lastEa ea n) ++ (0 : BitVec 12)) (furtherUse t)
      have h := h.trans (furtherUse_side t)
      split
      · trivial
      · next v u e2 => rw [e2] at h2; exact ⟨_, _, _, (h.trans h2).trans (firstPortion_side _ _ _ _ _ _ _), rfl⟩
      · next pa2 w2 u e2 => rw [e2] at h2; exact h.trans h2

theorem dabrCheck_side (k : Access) (ea : Word) (n : Nat) (s : State) : ResSide s (dabrCheck k ea n s) := by
  unfold dabrCheck
  split
  · exact ⟨s, _, _, .refl s, rfl⟩
  · dsimp only
    split
    · exact ⟨s, _, _, .refl s, rfl⟩
    · exact .refl s

theorem dataAccess_side (k : Access) (ea : Word) (n : Nat) (part : Bool) (data : List Byte) (s : State) :
    ResSide s (dataAccess k ea n part data s) := by
  refine andThen_side (translateSpan_side _ _ _ _ _ _) fun _ t => ResSide.after (furtherUse_side t) ?_
  exact andThen_side (dabrCheck_side _ _ _ _) fun _ u => gap_side u

/-- Everything `dataLoad` can do. -/
theorem dataLoad_side (ea : Word) (n : Nat) (s : State) : ResSide s (dataLoad ea n s) := by
  refine ResSide.after (newUse_side s) ?_
  exact andThen_side (dataAccess_side _ _ _ _ _ _) fun _ _ => readList_side _ _ _ _

/-- Everything `dataStore` can do. -/
theorem dataStore_side (ea : Word) (bs : List Byte) (s : State) : ResSide s (dataStore ea bs s) := by
  refine ResSide.after (newUse_side s) ?_
  exact andThen_side (dataAccess_side _ _ _ _ _ _) fun _ t => (beginStore_side t).trans (writeList_side _ _ _ _ _)

theorem storeSeq_side (lim : Nat) (ea : Word) (ps : List (List Byte)) (s : State) :
    ResSide s (storeSeq lim ea ps s) := by
  induction ps generalizing lim ea s with
  | nil => cases lim <;> exact .refl s
  | cons p ps ih =>
    cases lim with
    | zero => exact (andThen_side (dataAccess_side _ _ _ _ _ _) fun _ t => ih _ _ t).after (newUse_side s)
    | succ lim => exact andThen_side (dataStore_side _ _ _) fun _ t => ih _ _ t

/-- Everything `storePieces` can do. -/
theorem storePieces_side (ea : Word) (ps : List (List Byte)) (s : State) : ResSide s (storePieces ea ps s) := by
  unfold storePieces
  have h := storeSeq_side ps.length ea ps s
  split
  · next t e =>
    rw [e] at h
    have k := (storeSeq_side (fresh 8 s).1.toNat ea ps (fresh 8 s).2).after (fresh_side 8 s)
    dsimp only
    split
    · next u e' => rw [e'] at k; exact k
    · exact h
  · exact h

/-! ## Plain data accesses (R203, R210, R263, R368) -/

section Plain

variable {s : State} (h : PlainData s)
include h

theorem plain_translate (k : Access) (hk : k ≠ .fetch) (ea : Word) : translate k ea s = .ok ea realWimg s := by
  have hr : realMode s k = true := by cases k <;> simp_all [realMode, h.real]
  simp [translate, translateWith, hr]

theorem plain_control (c : Control) : control s c = held s c := settled_control h.settled c

theorem plain_busRead (pa : Word) : busReadByte pa s = (peek s pa, s) := by
  simp [busReadByte, isTea, h.tea, isDevice, h.devices]

theorem plain_busWrite (pa : Word) (v : Byte) : busWriteByte pa v s = poke (queueOld false pa (peek s pa) s) pa v := by
  simp [busWriteByte, isTea, h.tea, isDevice, h.devices]

theorem plain_read (pa : Word) : dataReadByte pa realWimg s = (peek s pa, s) := by
  have hi : attrI realWimg = false := by decide
  simp [dataReadByte, hi, h.l1, singleRead, h.l2, plain_busRead h]

theorem plain_write (pa : Word) (v : Byte) :
    dataWriteByte pa realWimg v s = poke (queueOld false pa (peek s pa) s) pa v := by
  have hi : attrI realWimg = false := by decide
  have hw : attrW realWimg = false := by decide
  simp [dataWriteByte, hi, hw, h.l1, singleWrite, h.l2, h.test, plain_busWrite h]

theorem plain_dabr (k : Access) (a : Word) : dabrMatches k a s = false := by
  have h1 : bitAt s.sup.dabr 30 = false := by
    have := congrArg (fun x => BitVec.getMsbD x 0) h.dabr
    simpa [field, bitAt, BitVec.getMsbD] using this
  have h2 : bitAt s.sup.dabr 31 = false := by
    have := congrArg (fun x => BitVec.getMsbD x 1) h.dabr
    simpa [field, bitAt, BitVec.getMsbD] using this
  cases k <;> simp [dabrMatches, plain_control h, held, h1, h2]

theorem plain_pieceGap (bus : Bool) (ea a : Word) : pieceGap bus ea a s = s := by simp [pieceGap, gap_alone h.alone]

theorem plain_writePieceByte (pa ea a : Word) (b : Byte) :
    writePieceByte (pa, realWimg) ea a b s = poke (queueOld false pa (peek s pa) s) pa b := by
  have hp : pushWritten pa realWimg s = s := by simp [pushWritten, h.l1]
  simp only [writePieceByte, plain_pieceGap h, hp, ite_self, plain_write h]

/-- A new memory and a new store queue leave the conditions in force. -/
theorem plain_stored (m : Mem) (q : List Queued) : PlainData { s with mem := m, storeQueue := q } :=
  ⟨⟨h.settled.stale, h.settled.inForce⟩, h.alone, h.real, h.big, h.l1, h.l2, h.test, h.dabr, h.tea, h.devices⟩

omit h in
/-- Cutting a word in its page and its offset and joining them gives it back. -/
theorem page_join (a : Word) : pageOf a ++ field a 20 12 = a := by
  unfold pageOf field
  apply BitVec.eq_of_getLsbD_eq
  intro i hi
  simp only [BitVec.getLsbD_append, BitVec.getLsbD_extractLsb']
  by_cases h : i < 12
  · simp [h]
  · have h1 : i - 12 < 20 := by omega
    have h2 : (32 - 0 - 20) + (i - 12) = i := by omega
    simp [h, h1, h2]

theorem plain_spanByte (t : Span) (ea a : Word) (ht : t.wimg1 = realWimg ∧ t.wimg2 = realWimg)
    (hp : (if pageOf a = pageOf ea then t.page1 else t.page2) = pageOf a) : spanByte t ea a s = (a, realWimg) := by
  have hb : placed s a = a := by simp [placed, h.big]
  unfold spanByte
  split at hp
  · next e => rw [if_pos e, hb, hp, page_join, ht.1]
  · next e => rw [if_neg e, hb, hp, page_join, ht.2]

omit h in
/-- The number of a page. -/
theorem pageOf_toNat (a : Word) : (pageOf a).toNat = a.toNat / 4096 := by
  have : a.toNat / 4096 < 2 ^ 20 := by omega
  simp [pageOf, field, BitVec.extractLsb'_toNat, Nat.shiftRight_eq_div_pow]
  omega

omit h in
/-- An operand of at most a page's size lies in the page of its first byte and the page of its last. -/
theorem page_cases {ea : Word} {n k : Nat} (hn : n ≤ 4096) (hk : k < n) :
    pageOf (ea + BitVec.ofNat 32 k) = pageOf ea ∨ pageOf (ea + BitVec.ofNat 32 k) = pageOf (lastEa ea n) := by
  have hlt := ea.isLt
  have e1 : (pageOf (ea + BitVec.ofNat 32 k)).toNat = (ea.toNat + k) % 2 ^ 32 / 4096 := by
    rw [pageOf_toNat, BitVec.toNat_add, BitVec.toNat_ofNat, Nat.mod_eq_of_lt (by omega : k < 2 ^ 32)]
  have e2 : (pageOf (lastEa ea n)).toNat = (ea.toNat + (n - 1)) % 2 ^ 32 / 4096 := by
    rw [lastEa, pageOf_toNat, BitVec.toNat_add, BitVec.toNat_ofNat, Nat.mod_eq_of_lt (by omega : n - 1 < 2 ^ 32)]
  have e0 := pageOf_toNat ea
  have : (ea.toNat + k) % 2 ^ 32 / 4096 = ea.toNat / 4096 ∨
      (ea.toNat + k) % 2 ^ 32 / 4096 = (ea.toNat + (n - 1)) % 2 ^ 32 / 4096 := by omega
  rcases this with e | e
  · exact .inl (BitVec.eq_of_toNat_eq (by rw [e1, e0, e]))
  · exact .inr (BitVec.eq_of_toNat_eq (by rw [e1, e2, e]))

/-- The span of a plain operand. -/
def plainSpan (ea : Word) (n : Nat) : Span := ⟨pageOf ea, realWimg, pageOf (lastEa ea n), realWimg⟩

theorem plain_translateSpan (k : Access) (hk : k ≠ .fetch) (ea : Word) (n : Nat) (part : Bool) (data : List Byte) :
    translateSpan k ea n part data s = .ok (plainSpan ea n) s := by
  unfold translateSpan
  rw [plain_translate h k hk]
  dsimp only
  split
  · next e => rw [plainSpan, e]
  · rw [settled_furtherUse h.settled, plain_translate h k hk]
    have : pageOf (pageOf (lastEa ea n) ++ (0 : BitVec 12)) = pageOf (lastEa ea n) := by
      have e := page_join (lastEa ea n)
      unfold pageOf field
      apply BitVec.eq_of_getLsbD_eq
      intro i hi
      simp only [BitVec.getLsbD_extractLsb', BitVec.getLsbD_append]
      simp [hi]
    dsimp only
    rw [this, plainSpan]

theorem plain_dataAccess (k : Access) (hk : k ≠ .fetch) (ea : Word) (n : Nat) (part : Bool) (data : List Byte) :
    dataAccess k ea n part data s = .ok (plainSpan ea n) s := by
  simp [dataAccess, plain_translateSpan h k hk, andThen, settled_furtherUse h.settled, dabrCheck, plain_dabr h,
    gap_alone h.alone]

omit h in
theorem plainSpan_page {ea : Word} {n k : Nat} (hn : n ≤ 4096) (hk : k < n) :
    (if pageOf (ea + BitVec.ofNat 32 k) = pageOf ea then (plainSpan ea n).page1 else (plainSpan ea n).page2) =
      pageOf (ea + BitVec.ofNat 32 k) := by
  split
  · next e => exact e.symm
  · next e =>
    rcases page_cases hn hk with e' | e'
    · exact absurd e' e
    · exact e'.symm

omit h in
theorem succ_offset (ea : Word) (j : Nat) : ea + BitVec.ofNat 32 j + 1 = ea + BitVec.ofNat 32 (j + 1) := by
  rw [BitVec.add_assoc]
  congr 1
  apply BitVec.eq_of_toNat_eq
  simp

theorem plain_readList {ea : Word} {n : Nat} (hn : n ≤ 4096) (m j : Nat) (hj : j + m ≤ n) :
    readList (plainSpan ea n) ea (byteEas (ea + BitVec.ofNat 32 j) m) s =
      (bytesAt s (ea + BitVec.ofNat 32 j) m, s) := by
  induction m generalizing j with
  | zero => rfl
  | succ m ih =>
    simp only [byteEas, readList, bytesAt]
    rw [plain_spanByte h _ _ _ ⟨rfl, rfl⟩ (plainSpan_page hn (by omega)), plain_pieceGap h, plain_read h]
    dsimp only
    rw [succ_offset, ih (j + 1) (by omega)]

/-- What a plain load answers: the bytes of memory, most significant first; nothing changes. -/
theorem plain_dataLoad (ea : Word) {n : Nat} (hn : n ≤ 4096) : dataLoad ea n s = .ok (bytesAt s ea n) s := by
  have e := plain_readList h (ea := ea) hn n 0 (by omega)
  simp only [BitVec.add_zero] at e
  simp only [dataLoad, settled_newUse h.settled, plain_dataAccess h .load (by decide), andThen]
  rw [e]
  simp [inOrder, h.big]

end Plain

/-- Writing bytes does not look at the store queue. -/
theorem pokeBytes_queue (bs : List Byte) (a : Word) (s : State) (q q' : List Queued) :
    { pokeBytes bs a { s with storeQueue := q } with storeQueue := q' } = { pokeBytes bs a s with storeQueue := q' } := by
  induction bs generalizing a s with
  | nil => rfl
  | cons b bs ih => exact ih (a + 1) (poke s a b)

/-! ## The queue of writes (R94) -/

theorem newestStores_pushes (n : Nat) (q : List Queued) : pushesIn (newestStores n q) = pushesIn q := by
  induction q generalizing n with
  | nil => cases n <;> rfl
  | cons g q ih =>
    simp only [newestStores]
    split
    · next h => simp only [pushesIn, List.filter_cons, h, if_true]; exact congrArg _ (ih n)
    · next h => cases n <;> simp only [pushesIn, List.filter_cons, h] <;> exact ih _

theorem newestStores_stores (n : Nat) (q : List Queued) : (storesIn (newestStores n q)).length ≤ n := by
  induction q generalizing n with
  | nil => cases n <;> simp [newestStores, storesIn]
  | cons g q ih =>
    simp only [newestStores]
    split
    · next h => simpa [storesIn, h] using ih n
    · next h =>
      cases n with
      | zero => exact ih 0
      | succ n => simpa [storesIn, h] using ih n

theorem enqueueStore_enqueued (old : List Replaced) (q : List Queued) : Enqueued q (enqueueStore old q) :=
  ⟨newestStores_stores _ _, newestStores_pushes _ _⟩

/-- Noting a replaced byte adds no store beyond three, and no push. -/
theorem noteOld_enqueued (e : Replaced) {p q : List Queued} (h : Enqueued p q) : Enqueued p (noteOld e q) := by
  cases q with
  | nil => exact h
  | cons g q =>
    simp only [noteOld]
    split
    · exact ⟨(enqueueStore_enqueued _ _).stores, (enqueueStore_enqueued _ _).pushes.trans h.pushes⟩
    · next hg =>
      have h1 := h.stores
      have h2 := h.pushes
      simp only [storesIn, pushesIn, List.filter_cons, hg] at h1 h2
      exact ⟨by simpa [storesIn, hg] using h1, by simpa [pushesIn, hg] using h2⟩

theorem plain_writeList {s : State} (h : PlainData s) {p : List Queued} {ea : Word} {n : Nat} (hn : n ≤ 4096)
    (bs : List Byte) (j : Nat) (hj : j + bs.length ≤ n) (hq : Enqueued p s.storeQueue) :
    ∃ q, Enqueued p q ∧ writeList (plainSpan ea n) ea (ea + BitVec.ofNat 32 j) bs s =
      { pokeBytes bs (ea + BitVec.ofNat 32 j) s with storeQueue := q } := by
  induction bs generalizing s j with
  | nil => exact ⟨s.storeQueue, hq, rfl⟩
  | cons b bs ih =>
    simp only [List.length_cons] at hj
    simp only [writeList, pokeBytes]
    rw [plain_spanByte h _ _ _ ⟨rfl, rfl⟩ (plainSpan_page hn (by omega)), plain_writePieceByte h, succ_offset]
    let pa := ea + BitVec.ofNat 32 j
    let q := noteOld ⟨false, pa.toNat, peek s pa⟩ s.storeQueue
    have e : poke (queueOld false pa (peek s pa) s) pa b = { poke s pa b with storeQueue := q } := rfl
    rw [e]
    obtain ⟨q', hq', e'⟩ := ih (plain_stored h _ q) (j + 1) (by omega) (noteOld_enqueued _ hq)
    exact ⟨q', hq', e'.trans (pokeBytes_queue bs _ (poke s pa b) q q')⟩

/-- What a plain store does: the bytes are in memory, most significant first; nothing else changes but the queue of
writes. -/
theorem plain_dataStore {s : State} (h : PlainData s) (ea : Word) {bs : List Byte} (hn : bs.length ≤ 4096) :
    ∃ q, Enqueued s.storeQueue q ∧ dataStore ea bs s = .ok () { pokeBytes bs ea s with storeQueue := q } := by
  have hi : inOrder s bs = bs := by simp [inOrder, h.big]
  obtain ⟨q, hq, e⟩ := plain_writeList (plain_stored h s.mem (enqueueStore [] s.storeQueue)) (ea := ea) hn bs 0 (by omega)
    (enqueueStore_enqueued _ _)
  simp only [BitVec.add_zero] at e
  refine ⟨q, hq, ?_⟩
  simp only [dataStore, settled_newUse h.settled, hi, plain_dataAccess h .store (by decide), andThen]
  rw [beginStore, e, pokeBytes_queue]

end Sys2Proof.Machine
end

