-- ==== Sys2Proof/Laws/Registers.lean ====
section
/-! SUPPORT. What reading a register gives after a write, for the register files, the condition register fields and bits,
and the XER flags; and what recording does. -/

namespace Sys2Proof

/-! ## Bits of words -/

theorem bitAt_maskBit (i k : Nat) (hk : k < 32) : bitAt (maskBit i) k = decide (k = i) := by
  by_cases hi : i < 32
  · have : ∀ a b : Fin 32, bitAt (maskBit a.val) b.val = decide (b.val = a.val) := by decide
    exact this ⟨i, hi⟩ ⟨k, hk⟩
  · have : maskBit i = 0 := by
      unfold maskBit
      apply BitVec.eq_of_toNat_eq
      have h2 : (2147483648 : Nat) < 2 ^ i :=
        Nat.lt_of_lt_of_le (by decide) (Nat.pow_le_pow_right (by decide) (by omega : 32 ≤ i))
      simp [BitVec.toNat_ushiftRight, Nat.shiftRight_eq_div_pow, Nat.div_eq_of_lt h2]
    rw [this]
    have : k ≠ i := by omega
    simp [bitAt, this]

theorem bitAt_or {w : Nat} (x y : BitVec w) (k : Nat) : bitAt (x ||| y) k = (bitAt x k || bitAt y k) := by
  simp only [bitAt, BitVec.getMsbD_or]

theorem bitAt_and {w : Nat} (x y : BitVec w) (k : Nat) : bitAt (x &&& y) k = (bitAt x k && bitAt y k) := by
  simp only [bitAt, BitVec.getMsbD_and]

theorem bitAt_xor {w : Nat} (x y : BitVec w) (k : Nat) : bitAt (x ^^^ y) k = (bitAt x k != bitAt y k) := by
  simp only [bitAt, BitVec.getMsbD_xor]

theorem bitAt_not {w : Nat} (x : BitVec w) {k : Nat} (hk : k < w) : bitAt (~~~ x) k = !bitAt x k := by
  simp [bitAt, BitVec.getMsbD_not, hk]

/-- A bit of a word after one bit is set. -/
theorem bitAt_setBit (x : Word) (i : Nat) (b : Bool) {k : Nat} (hk : k < 32) :
    bitAt (setBit x i b) k = if k = i then b else bitAt x k := by
  unfold setBit
  cases b
  · simp only [Bool.false_eq_true, ↓reduceIte, bitAt_and, bitAt_not _ hk, bitAt_maskBit _ _ hk]
    by_cases h : k = i <;> simp [h]
  · simp only [↓reduceIte, bitAt_or, bitAt_maskBit _ _ hk]
    by_cases h : k = i <;> simp [h]

/-- A bit of a merged value. -/
theorem bitAt_merge {w : Nat} (m x y : BitVec w) {k : Nat} (hk : k < w) :
    bitAt (merge m x y) k = if bitAt m k then bitAt y k else bitAt x k := by
  simp only [merge, bitAt_or, bitAt_and, bitAt_not _ hk]
  cases bitAt m k <;> simp

/-- Values equal in every bit are equal. -/
theorem eq_of_bitAt {w : Nat} {x y : BitVec w} (h : ∀ k, k < w → bitAt x k = bitAt y k) : x = y :=
  BitVec.eq_of_getMsbD_eq fun k hk => h k hk

/-- A bit of a field is a bit of the word. -/
theorem bitAt_field {w : Nat} (x : BitVec w) {first len k : Nat} (h : first + len ≤ w) (hk : k < len) :
    bitAt (field x first len) k = bitAt x (first + k) := by
  simp only [bitAt, field, BitVec.getMsbD, BitVec.getLsbD_extractLsb']
  have h1 : len - 1 - k < len := by omega
  have h2 : first + k < w := by omega
  simp only [hk, h1, h2, decide_true, Bool.true_and]
  congr 1
  omega

/-- A field of a word all of whose bits in it are unchanged is unchanged. -/
theorem field_congr {w : Nat} {x y : BitVec w} {first len : Nat} (hl : first + len ≤ w)
    (h : ∀ k, k < len → bitAt x (first + k) = bitAt y (first + k)) : field x first len = field y first len :=
  eq_of_bitAt fun k hk => by rw [bitAt_field _ hl hk, bitAt_field _ hl hk, h k hk]

end Sys2Proof

namespace Sys2Proof.Machine

/-! ## General and floating-point registers -/

@[simp] theorem gprGet_gprSet (s : State) (r q : Reg) (v : Word) :
    gprGet (gprSet s r v) q = if q = r then v else gprGet s q := by
  simp only [gprGet, gprSet_gpr, Vector.getElem_set]
  by_cases h : q = r
  · simp [h]
  · have : ¬ r.toNat = q.toNat := fun e => h (BitVec.eq_of_toNat_eq e.symm)
    simp [h, this]

@[simp] theorem fprGet_fprSet (s : State) (r q : Reg) (v : DWord) :
    fprGet (fprSet s r v) q = if q = r then v else fprGet s q := by
  simp only [fprGet, fprSet, Vector.getElem_set]
  by_cases h : q = r
  · simp [h]
  · have : ¬ r.toNat = q.toNat := fun e => h (BitVec.eq_of_toNat_eq e.symm)
    simp [h, this]

@[simp] theorem fprReady_fprSet (s : State) (r q : Reg) (v : DWord) :
    fprReady (fprSet s r v) q = (q == r || fprReady s q) := by
  simp only [fprReady, fprSet, bitAt_or, bitAt_maskBit _ _ q.isLt]
  by_cases h : q = r
  · simp [h]
  · have : ¬ q.toNat = r.toNat := fun e => h (BitVec.eq_of_toNat_eq e)
    simp [h, this]

@[simp] theorem srGet_srSet (s : State) (n m : BitVec 4) (v : Word) :
    srGet (srSet s n v) m = if m = n then v else srGet s m := by
  simp only [srGet, srSet, Vector.getElem_set]
  by_cases h : m = n
  · simp [h]
  · have : ¬ n.toNat = m.toNat := fun e => h (BitVec.eq_of_toNat_eq e.symm)
    simp [h, this]

/-- Reading goes by the register file alone. -/
theorem gprGet_congr {s t : State} (h : t.gpr = s.gpr) (r : Reg) : gprGet t r = gprGet s r := by simp only [gprGet, h]

theorem fprGet_congr {s t : State} (h : t.fpr = s.fpr) (r : Reg) : fprGet t r = fprGet s r := by simp only [fprGet, h]

/-! ## The condition register -/

theorem bitAt_crFieldMask (n : CrField) {k : Nat} (hk : k < 32) :
    bitAt (crFieldMask n) k = decide (k / 4 = n.toNat) := by
  have : ∀ (n : CrField) (k : Fin 32), bitAt (crFieldMask n) k.val = decide (k.val / 4 = n.toNat) := by decide
  exact this n ⟨k, hk⟩

/-- A bit of a CR field is a bit of the register. -/
theorem bitAt_crField (s : State) (n : CrField) {k : Nat} (hk : k < 4) :
    bitAt (crField s n) k = bitAt s.cr (4 * n.toNat + k) := by
  have := n.isLt
  exact bitAt_field _ (by omega) hk

/-- A bit of a value moved to a CR field's place. -/
theorem bitAt_placed (v : BitVec 4) (n : CrField) {k : Nat} (hk : k < 32) (h : k / 4 = n.toNat) :
    bitAt ((v ++ (0 : BitVec 28)) >>> (4 * n.toNat)) k = bitAt v (k % 4) := by
  have hn := n.isLt
  have h1 : ¬ k < 4 * n.toNat := by omega
  have h2 : k - 4 * n.toNat = k % 4 := by omega
  have h3 : k % 4 < 4 := by omega
  simp only [bitAt, BitVec.getMsbD_ushiftRight, h1, hk, decide_true, Bool.true_and, h2, BitVec.getMsbD_append,
    decide_false, Bool.not_false]
  simp [h3]

/-- A CR bit after a field is written. -/
theorem bitAt_setCrField (s : State) (n : CrField) (v : BitVec 4) {k : Nat} (hk : k < 32) :
    bitAt (setCrField n v s).cr k = if k / 4 = n.toNat then bitAt v (k % 4) else bitAt s.cr k := by
  simp only [setCrField, bitAt_merge _ _ _ hk, bitAt_crFieldMask _ hk]
  by_cases h : k / 4 = n.toNat
  · rw [bitAt_placed v n hk h]
    simp [h]
  · simp [h]

/-- A CR field after a field is written. -/
theorem crField_setCrField (s : State) (n m : CrField) (v : BitVec 4) :
    crField (setCrField n v s) m = if m = n then v else crField s m := by
  have hm := m.isLt
  apply eq_of_bitAt
  intro k hk
  rw [bitAt_crField _ _ hk, bitAt_setCrField _ _ _ (by omega)]
  have e1 : (4 * m.toNat + k) / 4 = m.toNat := by omega
  have e2 : (4 * m.toNat + k) % 4 = k := by omega
  rw [e1, e2]
  by_cases h : m = n
  · simp [h]
  · have : m.toNat ≠ n.toNat := fun e => h (BitVec.eq_of_toNat_eq e)
    simp [h, this, bitAt_crField _ _ hk]

/-- What writing a CR field does, as the statements say it. -/
theorem setCrField_is (s : State) (n : CrField) (v : BitVec 4) : CrFieldIs s (setCrField n v s) n v :=
  fun m => crField_setCrField s n m v

theorem CrFieldIs.outside {s t : State} {n : CrField} {v : BitVec 4} (h : CrFieldIs s t n v) : CrOutside s t n :=
  fun m hm => by rw [h m, if_neg hm]

/-- Reading CR goes by the register alone. -/
theorem crField_congr {s t : State} (h : t.cr = s.cr) (n : CrField) : crField t n = crField s n := by
  simp only [crField, h]

theorem CrOutside.of_eq {s t : State} (h : t.cr = s.cr) (n : CrField) : CrOutside s t n := fun m _ => crField_congr h m

/-! ## XER -/

theorem setCa_flags (c : Bool) (s : State) : XerFlags s (setCa c s) (xerSo s) (xerOv s) c :=
  ⟨by simp [xerSo, setCa, bitAt_setBit], by simp [xerOv, setCa, bitAt_setBit], by simp [xerCa, setCa, bitAt_setBit],
    field_congr (by decide) fun k hk => by
      simp only [setCa]
      rw [bitAt_setBit _ _ _ (by omega), if_neg (by omega)]⟩

theorem setOv_flags (v : Bool) (s : State) : XerFlags s (setOv v s) (xerSo s || v) v (xerCa s) :=
  ⟨by simp [xerSo, setOv, bitAt_setBit], by simp [xerOv, setOv, bitAt_setBit], by simp [xerCa, setOv, bitAt_setBit],
    field_congr (by decide) fun k hk => by
      simp only [setOv]
      rw [bitAt_setBit _ _ _ (by omega), if_neg (by omega), bitAt_setBit _ _ _ (by omega), if_neg (by omega)]⟩

theorem XerFlags.refl (s : State) : XerFlags s s (xerSo s) (xerOv s) (xerCa s) := ⟨rfl, rfl, rfl, rfl⟩

theorem XerFlags.congr {s t t' : State} {a b c : Bool} (h : XerFlags s t a b c) (e : t'.xer = t.xer) :
    XerFlags s t' a b c :=
  ⟨by simp only [xerSo, e]; exact h.so, by simp only [xerOv, e]; exact h.ov, by simp only [xerCa, e]; exact h.ca,
    by rw [e]; exact h.rest⟩

/-! ## Recording -/

/-- The sign of a word is its bit 0. -/
theorem toInt_neg_iff (x : Word) : x.toInt < 0 ↔ bitAt x 0 = true := by
  simp only [bitAt, BitVec.getMsbD, BitVec.toInt_neg_iff, BitVec.getLsbD_eq_getElem (show 31 < 32 by decide)]
  simp
  rw [← BitVec.getLsbD_eq_getElem, BitVec.getLsbD, Nat.testBit_eq_decide_div_mod_eq]
  have := x.isLt
  constructor
  · intro h
    simp only [decide_eq_true_eq]
    omega
  · intro h
    have : x.toNat / 2 ^ 31 % 2 = 1 := by simpa using h
    omega

/-- The three bits of a result against 0, as an order. -/
theorem signBits_order (r : Word) (so : Bool) :
    signBits r ++ ofBit so = orderField (decide (r.toInt < 0)) (decide (0 < r.toInt)) so := by
  unfold signBits
  by_cases h0 : r = 0
  · subst h0; cases so <;> decide
  · have hz : r.toInt ≠ 0 := fun e => h0 (BitVec.eq_of_toInt_eq (by simpa using e))
    by_cases hb : bitAt r 0 = true
    · have hl := (toInt_neg_iff r).2 hb
      have hg : ¬ 0 < r.toInt := by omega
      simp only [h0, hb, hl, hg]; cases so <;> decide
    · have hl : ¬ r.toInt < 0 := fun h => hb ((toInt_neg_iff r).1 h)
      have hg : 0 < r.toInt := by omega
      simp only [h0, hb, hl, hg]; cases so <;> decide

theorem setCompare_signed (n : CrField) (a b : Word) (s : State) :
    CrFieldIs s (setCompare n (compareSigned a b) s) n
      (orderField (decide (a.toInt < b.toInt)) (decide (b.toInt < a.toInt)) (xerSo s)) := by
  have e : compareSigned a b ++ ofBit (xerSo s) =
      orderField (decide (a.toInt < b.toInt)) (decide (b.toInt < a.toInt)) (xerSo s) := by
    unfold compareSigned
    simp only [BitVec.slt_iff_toInt_lt]
    by_cases h1 : a.toInt < b.toInt <;> by_cases h2 : b.toInt < a.toInt
    · omega
    all_goals (simp only [h1, h2]; cases xerSo s <;> decide)
  rw [← e]
  exact setCrField_is _ _ _

theorem setCompare_unsigned (n : CrField) (a b : Word) (s : State) :
    CrFieldIs s (setCompare n (compareUnsigned a b) s) n
      (orderField (decide (a.toNat < b.toNat)) (decide (b.toNat < a.toNat)) (xerSo s)) := by
  have e : compareUnsigned a b ++ ofBit (xerSo s) =
      orderField (decide (a.toNat < b.toNat)) (decide (b.toNat < a.toNat)) (xerSo s) := by
    unfold compareUnsigned
    simp only [BitVec.ult, decide_eq_true_eq]
    by_cases h1 : a.toNat < b.toNat <;> by_cases h2 : b.toNat < a.toNat
    · omega
    all_goals (simp only [h1, h2]; cases xerSo s <;> decide)
  rw [← e]
  exact setCrField_is _ _ _

end Sys2Proof.Machine
end

