-- ==== Sys2Proof/Laws/Exceptions.lean ====
section
/-! SUPPORT. What taking an exception and returning from one can do, once for every exception, and what either leaves of
the invariant. -/

namespace Sys2Proof.Machine

/-- What taking an exception does: everything `Entered` says, and nothing else. -/
theorem takeException_entered (vec a info : Word) (s : State) : Entered s (takeException vec a info s) vec a info :=
  { srr0 := rfl
    srr1 := rfl
    msr := by simp only [takeException, contextSync, dropAhead, enterWith, msrAfterEntry, msrIle]
    pc := rfl
    frame := rfl }

theorem takeProgram_entered (info : Word) (s : State) : Entered s (takeProgram info s) 0x700 s.pc info :=
  takeException_entered _ _ _ _

theorem takePrivileged_entered (s : State) : Entered s (takePrivileged s) 0x700 s.pc 0x00040000 := takeProgram_entered _ _

theorem takeIllegal_entered (s : State) : Entered s (takeIllegal s) 0x700 s.pc 0x00080000 := takeProgram_entered _ _

theorem takeTrap_entered (s : State) : Entered s (takeTrap s) 0x700 s.pc 0x00020000 := takeProgram_entered _ _

theorem takeFpEnabled_entered (s : State) : Entered s (takeFpEnabled s) 0x700 s.pc 0x00100000 := takeProgram_entered _ _

theorem takeFpUnavailable_entered (s : State) : Entered s (takeFpUnavailable s) 0x800 s.pc 0 := takeException_entered _ _ _ _

theorem takeDsi_entered (dar dsisr : Word) (s : State) : Entered (withDar s dar dsisr) (takeDsi dar dsisr s) 0x300 s.pc 0 :=
  takeException_entered _ _ _ _

theorem takeAlignment_entered (dar dsisr : Word) (s : State) :
    Entered (withDar s dar dsisr) (takeAlignment dar dsisr s) 0x600 s.pc 0 := takeException_entered _ _ _ _

/-- An outcome that is an entry goes on with that entry. -/
theorem goes_next {t : State} {P : State → Prop} (h : P t) {o : Out} (e : o = .next t) : Goes o P := ⟨t, e, h⟩

/-- After an entry the MSR holds no bit but ILE, ME, IP and LE. -/
theorem Entered.msrLegal {s t : State} {vec a info : Word} (h : Entered s t vec a info) : MsrLegal t := by
  show t.msr &&& ~~~ msrMask = 0
  rw [h.msr]
  apply eq_of_bitAt
  intro k hk
  have h1 : bitAt ((0x00011040 : Word) &&& ~~~ msrMask) k = bitAt (0 : Word) k := by
    rw [show (0x00011040 : Word) &&& ~~~ msrMask = 0 from by decide]
  have h2 : ∀ b : Bool, bitAt (boolWord b &&& ~~~ msrMask) k = bitAt (0 : Word) k := fun b => by
    rw [show boolWord b &&& ~~~ msrMask = 0 from by cases b <;> decide]
  have h3 := h2 (msrIle s)
  rw [bitAt_and] at h1 h3
  rw [bitAt_and, bitAt_or, bitAt_and]
  have h0 : bitAt (0 : Word) k = false := by simp [bitAt]
  rw [h0] at h1 h3 ⊢
  revert h1 h3
  cases bitAt s.msr k <;> cases bitAt (0x00011040 : Word) k <;> cases bitAt (boolWord (msrIle s)) k <;>
    cases bitAt (~~~ msrMask) k <;> simp

/-- An entry leaves supervisor mode. -/
theorem Entered.supervisor {s t : State} {vec a info : Word} (h : Entered s t vec a info) : msrPr t = false := by
  have e : msrPr t = bitAt t.msr 17 := by
    have c : t.ctx = ⟨[], []⟩ := by rw [h.frame]
    simp [msrPr, control, c, held]
  rw [e, h.msr, bitAt_or, bitAt_and]
  have h1 : bitAt (0x00011040 : Word) 17 = false := by decide
  have h2 : ∀ b : Bool, bitAt (boolWord b) 17 = false := by decide
  simp only [h1, h2, Bool.and_false, Bool.or_false]

/-- The invariant holds of a state with the invariant's parts of another, and a legal MSR and an aligned pc. -/
theorem Invariant.congr {s t : State} (h : Invariant s) (mem : t.mem = s.mem) (xer : t.xer = s.xer) (fpscr : t.fpscr = s.fpscr)
    (msr : MsrLegal t) (pc : PcAligned t) : Invariant t :=
  { memory := by simpa only [MemoryCanonical, mem] using h.memory
    pc := pc
    msr := msr
    xer := by simpa only [XerLegal, xer] using h.xer
    fpscr := by simpa only [FpscrLegal, fpscr] using h.fpscr }

end Sys2Proof.Machine
end

