-- ==== Sys2Proof/Laws/Integer.lean ====
section
/-! SUPPORT. What the shared operations of the integer instructions do: one law for each way a result is written. -/

namespace Sys2Proof.Machine

/-- Recording writes CR alone. -/
theorem recordIf_eq (rc : Bool) (r : Word) (s : State) : recordIf rc r s = { s with cr := (recordIf rc r s).cr } := by
  cases rc <;> rfl

/-- Recording a result, as the statements say it. -/
theorem recordIf_recorded (rc : Bool) (r : Word) {s u : State} (hcr : u.cr = s.cr) :
    if rc then CrFieldIs s (recordIf rc r u) 0
      (orderField (decide (r.toInt < 0)) (decide (0 < r.toInt)) (xerSo u)) else (recordIf rc r u).cr = s.cr := by
  cases rc
  · exact hcr
  · simp only [recordIf, record, ite_true]
    rw [signBits_order]
    intro m
    rw [crField_setCrField]
    split
    · rfl
    · exact crField_congr hcr m

/-- One register written, as the statements say it. -/
theorem gprs_one {s t : State} {r : Reg} {v : Word} (h : t.gpr = (gprSet s r v).gpr) : Gprs s t [(r, v)] := by
  intro q
  rw [gprGet_congr h, gprGet_gprSet]
  by_cases e : q = r
  · simp [List.lookup, e]
  · simp [List.lookup, e, beq_false_of_ne e]

/-- No register written. -/
theorem gprs_none {s t : State} (h : t.gpr = s.gpr) : Gprs s t [] := fun q => gprGet_congr h q

/-- Two registers written, the second last. -/
theorem gprs_two {s t : State} {r q : Reg} {v w : Word} (h : t.gpr = (gprSet (gprSet s r v) q w).gpr) (hne : q ≠ r) :
    Gprs s t [(r, v), (q, w)] := by
  intro p
  rw [gprGet_congr h, gprGet_gprSet, gprGet_gprSet]
  by_cases e : p = r
  · subst e
    have : ¬ p = q := fun e => hne e.symm
    simp [List.lookup, this]
  · by_cases e' : p = q
    · subst e'
      simp [List.lookup, beq_false_of_ne e]
    · simp [List.lookup, e, e', beq_false_of_ne e, beq_false_of_ne e']

/-- The end of an integer instruction: the result in its register, the flags given by a value of XER. -/
theorem intOutcome_of (s : State) (rD : Reg) (v x : Word) (oe ovf ca rc : Bool)
    (hf : XerFlags s { s with xer := x } (xerSo s || (oe && ovf)) (if oe then ovf else xerOv s) ca) :
    IntOutcome s (advance (recordIf rc v { gprSet s rD v with xer := x })) rD v oe ovf ca rc := by
  have hr := recordIf_recorded rc v (s := s) (u := { gprSet s rD v with xer := x }) rfl
  cases rc
  · exact ⟨gprs_one rfl, hf.congr rfl, rfl, rfl⟩
  · exact ⟨gprs_one rfl, hf.congr rfl, hr, rfl⟩

/-- What `addInto` does, its carry and overflow still as the machine computes them. -/
theorem addInto_outcome (rD : Reg) (x y : Word) (c ca oe rc : Bool) (s : State) :
    Goes (addInto rD x y c ca oe rc s) fun t =>
      IntOutcome s t rD (sumWord x y c) oe (sumOvf x y c) (if ca then carryOut x y c else xerCa s) rc := by
  refine ⟨_, rfl, ?_⟩
  cases ca <;> cases oe
  · exact intOutcome_of s rD _ s.xer false _ _ rc (by rw [Bool.false_and, Bool.or_false]; exact XerFlags.refl s)
  · exact intOutcome_of s rD _ (setOv (sumOvf x y c) s).xer true _ _ rc ((setOv_flags (sumOvf x y c) s).congr rfl)
  · exact intOutcome_of s rD _ (setCa (carryOut x y c) s).xer false _ _ rc (by rw [Bool.false_and, Bool.or_false]; exact (setCa_flags (carryOut x y c) s).congr rfl)
  · have h1 := setCa_flags (carryOut x y c) s
    have h2 := setOv_flags (sumOvf x y c) (setCa (carryOut x y c) s)
    exact intOutcome_of s rD _ (setOv (sumOvf x y c) (setCa (carryOut x y c) s)).xer true _ _ rc
      ⟨h2.so.trans (by rw [h1.so]; rfl), h2.ov, h2.ca.trans h1.ca, h2.rest.trans h1.rest⟩

/-- What `resultInto` does. -/
theorem resultInto_outcome (rD : Reg) (r : Word) (ovf oe rc : Bool) (s : State) :
    Goes (resultInto rD r ovf oe rc s) fun t => IntOutcome s t rD r oe ovf (xerCa s) rc := by
  refine ⟨_, rfl, ?_⟩
  cases oe
  · exact intOutcome_of s rD _ s.xer false _ _ rc (by rw [Bool.false_and, Bool.or_false]; exact XerFlags.refl s)
  · exact intOutcome_of s rD _ (setOv ovf s).xer true _ _ rc ((setOv_flags ovf s).congr rfl)

/-- What `logicInto` does. -/
theorem logicInto_outcome (rA : Reg) (r : Word) (rc : Bool) (s : State) :
    Goes (logicInto rA r rc s) fun t => IntOutcome s t rA r false false (xerCa s) rc :=
  ⟨_, rfl, intOutcome_of s rA _ s.xer false false _ rc (by rw [Bool.false_and, Bool.or_false]; exact XerFlags.refl s)⟩

/-- What `shiftInto` does. -/
theorem shiftInto_outcome (rA : Reg) (r : Word) (ca rc : Bool) (s : State) :
    Goes (shiftInto rA r ca rc s) fun t => IntOutcome s t rA r false false ca rc :=
  ⟨_, rfl, intOutcome_of s rA _ (setCa ca s).xer false false _ rc (by rw [Bool.false_and, Bool.or_false]; exact (setCa_flags ca s).congr rfl)⟩

/-- An instruction that only writes a general register. -/
theorem gprSet_outcome (rD : Reg) (r : Word) (s : State) :
    Goes (nextInstr (gprSet s rD r)) fun t => IntOutcome s t rD r false false (xerCa s) false :=
  logicInto_outcome rD r false s

/-! ## The exact meaning of the 33-bit sum -/

theorem sum33_toNat (x y : Word) (c : Bool) : (sum33 x y c).toNat = x.toNat + y.toNat + (if c then 1 else 0) := by
  have hx := x.isLt
  have hy := y.isLt
  cases c <;> simp [sum33] <;> omega

theorem sumWord_eq (x y : Word) (c : Bool) :
    sumWord x y c = BitVec.ofNat 32 (x.toNat + y.toNat + (if c then 1 else 0)) := by
  apply BitVec.eq_of_toNat_eq
  simp [sumWord, field, BitVec.extractLsb'_toNat, sum33_toNat]

/-- The carry of a sum: the exact unsigned sum does not fit. -/
theorem carryOut_eq (x y : Word) (c : Bool) :
    carryOut x y c = decide (2 ^ 32 ≤ x.toNat + y.toNat + (if c then 1 else 0)) := by
  have hx := x.isLt
  have hy := y.isLt
  have h := sum33_toNat x y c
  have hc : (if c then 1 else 0) ≤ 1 := by cases c <;> decide
  simp only [carryOut, bitAt, BitVec.getMsbD, BitVec.getLsbD, Nat.testBit_eq_decide_div_mod_eq, h]
  simp only [decide_true, Nat.add_one_sub_one, Nat.sub_zero, Bool.true_and, Nat.reducePow, Nat.zero_lt_succ]
  apply decide_eq_decide.2
  omega

/-- The overflow of a sum: the exact signed sum is no signed word. -/
theorem sumOvf_eq (x y : Word) (c : Bool) :
    sumOvf x y c = !fitsWord (x.toInt + y.toInt + (if c then 1 else 0)) := by
  have hx := x.isLt
  have hy := y.isLt
  have ex := BitVec.toInt_eq_toNat_cond x
  have ey := BitVec.toInt_eq_toNat_cond y
  have hr : (sumWord x y c).toNat = (x.toNat + y.toNat + (if c then 1 else 0)) % 2 ^ 32 := by
    rw [sumWord_eq]; simp
  have b (z : Word) : bitAt z 0 = decide (2 ^ 31 ≤ z.toNat) := by
    have := z.isLt
    simp only [bitAt, BitVec.getMsbD, BitVec.getLsbD, Nat.testBit_eq_decide_div_mod_eq]
    simp
    omega
  obtain ⟨k, hk, e1, e2⟩ : ∃ k : Nat, k ≤ 1 ∧ (if c = true then 1 else 0 : Nat) = k ∧
      (if c = true then 1 else 0 : Int) = (k : Int) := by
    cases c
    · exact ⟨0, by decide, rfl, rfl⟩
    · exact ⟨1, by decide, rfl, rfl⟩
  rw [e1] at hr
  simp only [sumOvf, b, hr, fitsWord, e2]
  generalize x.toNat = a at *
  generalize y.toNat = d at *
  rw [Bool.eq_iff_iff]
  simp only [Bool.and_eq_true, beq_iff_eq, bne_iff_ne, ne_eq, decide_eq_decide, Bool.not_eq_true', decide_eq_false_iff_not]
  split at ex <;> split at ey <;> omega

end Sys2Proof.Machine
end

