-- ==== Sys2Proof/Laws/LoadStore.lean ====
section
/-! SUPPORT. What the shared operations of loads and stores do when data go straight to memory (PlainData): the bytes that
arrive, the bytes that are then in memory, and the end of the instruction. -/

namespace Sys2Proof.Machine

/-! ## Values of bytes -/

theorem foldl_valueBig (bs : List Byte) (acc : Nat) :
    bs.foldl (fun a b => a * 256 + b.toNat) acc = acc * 256 ^ bs.length + valueBig bs := by
  induction bs generalizing acc with
  | nil => simp [valueBig]
  | cons b bs ih =>
    simp only [List.foldl_cons, ih, valueBig, List.length_cons, Nat.pow_succ, Nat.add_mul, Nat.mul_assoc,
      Nat.mul_comm (256 ^ bs.length) 256, Nat.add_assoc]

/-- The value the machine makes of bytes is their value. -/
theorem bytesVal_eq (w : Nat) (bs : List Byte) : bytesVal w bs = BitVec.ofNat w (valueBig bs) := by
  simp [bytesVal, foldl_valueBig]

theorem valueBig_append (as bs : List Byte) : valueBig (as ++ bs) = valueBig as * 256 ^ bs.length + valueBig bs := by
  have h := foldl_valueBig (as ++ bs) 0
  rw [List.foldl_append, foldl_valueBig, foldl_valueBig] at h
  simpa using h.symm

theorem bytesAt_length (s : State) (a : Word) (n : Nat) : (bytesAt s a n).length = n := by
  induction n generalizing a with
  | zero => rfl
  | succ n ih => simp [bytesAt, ih]

theorem field_toNat {w : Nat} (x : BitVec w) (first len : Nat) :
    (field x first len).toNat = x.toNat / 2 ^ (w - first - len) % 2 ^ len := by
  simp [field, BitVec.extractLsb'_toNat, Nat.shiftRight_eq_div_pow]

theorem valueBig_wordBytes (x : Word) : valueBig (wordBytes x) = x.toNat := by
  have := x.isLt
  simp [wordBytes, valueBig, field_toNat]
  omega

theorem valueBig_wordBytes_reverse (x : Word) :
    valueBig (wordBytes x).reverse =
      x.toNat % 256 * 2 ^ 24 + x.toNat / 2 ^ 8 % 256 * 2 ^ 16 + x.toNat / 2 ^ 16 % 256 * 2 ^ 8 + x.toNat / 2 ^ 24 := by
  have := x.isLt
  simp [wordBytes, valueBig, field_toNat]
  omega

theorem valueBig_halfOf (x : Word) : valueBig (halfOf x) = x.toNat % 65536 := by
  have := x.isLt
  simp [halfOf, halfBytes, valueBig, field_toNat]
  omega

theorem valueBig_halfOf_reverse (x : Word) :
    valueBig (halfOf x).reverse = x.toNat % 256 * 256 + x.toNat / 256 % 256 := by
  have := x.isLt
  simp [halfOf, halfBytes, valueBig, field_toNat]
  omega

theorem valueBig_byteOf (x : Word) : valueBig (byteOf x) = x.toNat % 256 := by
  simp [byteOf, valueBig, field_toNat]

theorem valueBig_dwordBytes (x : DWord) : valueBig (dwordBytes x) = x.toNat := by
  have := x.isLt
  simp [dwordBytes, valueBig, field_toNat]
  omega

/-! ## Stored bytes are there -/

/-- The bytes of memory go by memory alone. -/
theorem bytesAt_congr {s t : State} (h : t.mem = s.mem) (a : Word) (n : Nat) : bytesAt t a n = bytesAt s a n := by
  induction n generalizing a with
  | zero => rfl
  | succ n ih => simp only [bytesAt, ih, peek, h]

/-- What has been poked is there. -/
theorem bytesAt_pokeBytes (bs : List Byte) (a : Word) {s : State} (h : MemoryCanonical s) (hn : bs.length ≤ 2 ^ 32) :
    bytesAt (pokeBytes bs a s) a bs.length = bs := by
  induction bs generalizing a s with
  | nil => rfl
  | cons b bs ih =>
    simp only [List.length_cons, bytesAt, pokeBytes] at *
    rw [ih _ (poke_canonical h a b) (by omega)]
    congr 1
    rw [peek_pokeBytes_outside bs (a + 1) (poke_canonical h a b), peek_poke_same h]
    intro k hk e
    have := congrArg BitVec.toNat e
    have ha := a.isLt
    simp only [BitVec.toNat_add, BitVec.toNat_ofNat] at this
    have h1 : (1 : Word).toNat = 1 := rfl
    rw [h1] at this
    omega

/-! ## The ends of loads and stores -/

/-- A free CR0, as the statements say it. -/
theorem recordAny_eq (rc : Bool) (s : State) :
    recordAny rc s = { s with cr := (recordAny rc s).cr, freeCtr := (recordAny rc s).freeCtr } := by
  cases rc <;> rfl

theorem recordAny_outside (rc : Bool) (s : State) : CrOutside s (recordAny rc s) 0 := by
  cases rc
  · exact CrOutside.of_eq rfl 0
  · exact (setCrField_is (fresh 4 s).2 0 _).outside

/-- The end of an integer load. -/
theorem loadOutcome_of {s : State} {g : Vector Word 32} {l : List (Reg × Word)} (rc : Bool)
    (h : Gprs s { s with gpr := g } l) : LoadOutcome s (advance (recordAny rc { s with gpr := g })) l rc := by
  cases rc
  · exact ⟨h, fun _ => ⟨rfl, rfl⟩, CrOutside.of_eq rfl 0, rfl⟩
  · exact ⟨h, (fun e => nomatch e), recordAny_outside true { s with gpr := g }, rfl⟩

/-- A plain load. -/
theorem loadOp_plain {s : State} (h : PlainData s) (ea : Word) {n : Nat} (hn : n ≤ 4096) (rc : Bool)
    (f : List Byte → State → State) : loadOp ea n rc f s = .next (advance (recordAny rc (f (bytesAt s ea n) s))) := by
  simp [loadOp, plain_dataLoad h ea hn, finish, nextInstr]

/-- A plain store. -/
theorem storeOp_plain {s : State} (h : PlainData s) (ea : Word) {bs : List Byte} (hn : bs.length ≤ 4096) (rc : Bool)
    (f : State → State) : ∃ q, Enqueued s.storeQueue q ∧
      storeOp ea bs rc f s = .next (advance (recordAny rc (f { pokeBytes bs ea s with storeQueue := q }))) := by
  obtain ⟨q, hq, e⟩ := plain_dataStore h ea hn
  exact ⟨q, hq, by simp [storeOp, e, finish, nextInstr]⟩

/-- The end of a store that updates the registers `g`. -/
theorem storeOutcome_of {s : State} (hc : MemoryCanonical s) {ea : Word} {bs : List Byte} (hn : bs.length ≤ 4096)
    {g : Vector Word 32} {q : List Queued} (hq : Enqueued s.storeQueue q) {l : List (Reg × Word)} (rc : Bool)
    (h : Gprs s { s with gpr := g } l) :
    StoreOutcome s (advance (recordAny rc { pokeBytes bs ea s with gpr := g, storeQueue := q })) ea bs.length (valueBig bs)
      l rc := by
  have hb : bytesAt (pokeBytes bs ea s) ea bs.length = bs := bytesAt_pokeBytes bs ea hc (by omega)
  have ho := peek_pokeBytes_outside bs ea hc
  obtain ⟨m, e⟩ : ∃ m, pokeBytes bs ea s = { s with mem := m } := ⟨_, pokeBytes_eq bs ea s⟩
  rw [e] at hb ho ⊢
  have h' : ∀ t : State, t.mem = m → valueBig (bytesAt t ea bs.length) = valueBig bs := fun t ht => by
    rw [bytesAt_congr (s := { s with mem := m }) ht, hb]
  cases rc
  · exact ⟨h' _ rfl, ho, h, fun _ => ⟨rfl, rfl⟩, CrOutside.of_eq rfl 0, .inl hq, rfl⟩
  · exact ⟨h' _ rfl, ho, h, (fun e => nomatch e), recordAny_outside true { s with gpr := g }, .inl hq, rfl⟩

end Sys2Proof.Machine
end

