-- ==== Sys2Proof/Laws/Monitor.lean ====
section
/-! SUPPORT. What the performance monitor's operations can do: they change its registers, its record of completed
instructions, and the count of free values; what follows an instruction also sets the trace flag. -/

namespace Sys2Proof.Machine

/-- `t` is `s` but for the performance monitor and the count of free values. -/
structure PerfSide (s t : State) : Prop where
  frame : t = { s with perf := t.perf, seen := t.seen, freeCtr := t.freeCtr }

namespace PerfSide

theorem refl (s : State) : PerfSide s s := ⟨rfl⟩

theorem trans {s t u : State} (h : PerfSide s t) (k : PerfSide t u) : PerfSide s u := by
  have h1 := h.frame
  have k1 := k.frame
  exact ⟨by rw [k1, h1]⟩

end PerfSide

theorem pmcPut_side (s : State) (n : Fin 4) (v : Word) : PerfSide s (pmcPut s n v) := by
  unfold pmcPut; split <;> exact ⟨rfl⟩

theorem pmAdd_side (n : Fin 4) (k : Nat) (s : State) : PerfSide s (pmAdd n k s) := by
  unfold pmAdd; split
  · exact pmcPut_side s n _
  · exact .refl s

theorem pmEvent_side (n : Fin 4) (k : Nat) (s : State) : PerfSide s (pmEvent n k s) := by
  unfold pmEvent; split
  · exact pmAdd_side n 1 s
  · exact .refl s

theorem pmEventIf_side (c : Bool) (n : Fin 4) (k : Nat) (s : State) : PerfSide s (pmEventIf c n k s) := by
  unfold pmEventIf; split
  · exact pmEvent_side n k s
  · exact .refl s

theorem siaNear_side (m : Moment) (s : State) : PerfSide s (siaNear m s).2 := by
  unfold siaNear; dsimp only; split <;> exact ⟨rfl⟩

theorem pmSignal_side (trans : Bool) (m : Moment) (s : State) : PerfSide s (pmSignal trans m s) := by
  unfold pmSignal; split
  · exact (siaNear_side m s).trans ⟨rfl⟩
  · exact .refl s

theorem pmTransition_side (m : Moment) (s : State) : PerfSide s (pmTransition m s) :=
  ((((pmEvent_side 0 3 s).trans (pmEvent_side 1 3 _)).trans (pmEvent_side 2 3 _)).trans (pmEvent_side 3 3 _)).trans
    (pmSignal_side true m _)

theorem noteCompleted_side (a : Word) (load : Bool) (s : State) : PerfSide s (noteCompleted a load s) := ⟨rfl⟩

theorem countCompleted_side (n : Fin 4) (k : Nat) (s : State) : PerfSide s (countCompleted n k s) :=
  (PerfSide.mk rfl : PerfSide s { s with seen := { s.seen with
      credit := s.seen.credit.set n.val (s.seen.credit[n] - min k s.seen.credit[n]) n.isLt } }).trans
    ((pmAdd_side n _ _).trans (pmSignal_side false .between _))

theorem countSampled_side (k sampled : Nat) (s : State) : PerfSide s (countSampled k sampled s) := by
  unfold countSampled; split
  · exact .refl s
  · dsimp only; split
    · exact (pmAdd_side 0 k s).trans ⟨rfl⟩
    · exact pmAdd_side 0 k s

/-- What the environment's counts can change. -/
theorem countEvents_side (n : Fin 4) (k sampled : Nat) (s : State) : PerfSide s (countEvents n k sampled s) := by
  unfold countEvents
  split
  · split
    · exact countCompleted_side n k s
    · split
      · exact countSampled_side k sampled s
      · exact (pmAdd_side n k s).trans (pmSignal_side false .between _)
  · exact .refl s

theorem completionEvents_side (i : Instr) (before s : State) : PerfSide s (completionEvents i before s) := by
  unfold completionEvents
  exact (((((((((pmEventIf_side _ _ _ s).trans (pmEventIf_side _ _ _ _)).trans (pmEventIf_side _ _ _ _)).trans
    (pmEventIf_side _ _ _ _)).trans (pmEventIf_side _ _ _ _)).trans (pmEventIf_side _ _ _ _)).trans
    (pmEventIf_side _ _ _ _)).trans (pmEventIf_side _ _ _ _)).trans (pmEventIf_side _ _ _ _)).trans (pmEventIf_side _ _ _ _)

theorem completed_side (i : Instr) (before s : State) : PerfSide s (completed i before s) :=
  (noteCompleted_side _ _ s).trans (completionEvents_side i before _)

/-- What follows an instruction changes the monitor and the trace flag, nothing else. -/
theorem complete_side (i : Instr) (before after : State) :
    PerfSide { after with traceDue := (complete i before after).traceDue } (complete i before after) := by
  unfold complete
  split
  · split
    · have h := ((completed_side i before after).trans (pmEventIf_side (togglesBetween i after) 1 9 _)).trans
        (pmEventIf_side (togglesBetween i after) 1 9 _)
      exact ⟨by dsimp only; rw [h.frame]⟩
    · exact .refl _
  · split
    · exact .refl _
    · have h := completed_side i before after
      exact ⟨by dsimp only; rw [h.frame]⟩

/-- The end of a step changes the monitor, the L2 while an invalidation runs, and drops what the environment laid ready. -/
theorem endStep_side (before after : State) :
    endStep before after = { after with
      perf := (endStep before after).perf, seen := (endStep before after).seen, freeCtr := (endStep before after).freeCtr
      caches := (endStep before after).caches, supply := ⟨[], []⟩ } := by
  unfold endStep
  dsimp only
  split
  · rfl
  · have hl : l2Progress (endSupply after) =
        { after with caches := (l2Progress (endSupply after)).caches, supply := ⟨[], []⟩ } := by
      unfold l2Progress; split
      · rfl
      · split <;> rfl
    have h := (pmEventIf_side (userMode before != userMode (endSupply after)) 1 9 (l2Progress (endSupply after))).trans
      (pmSignal_side false (stepMoment before (endSupply after)) _)
    rw [h.frame, hl]

end Sys2Proof.Machine
end

