-- ==== Sys2Proof/Laws/PerInstr.lean ====
section
/-! SUPPORT. A statement about every instruction as syntax: its encoding has the opcode bits of its row of the opcode table
(R442 to R450). -/

namespace Sys2Proof.Laws

/-- The row of the opcode table: the mask of the opcode bits, and the opcode bits themselves. -/
def row : Instr → Word × Word
  | .addi _ _ _ => (0xFC000000, 0x38000000)
  | .addis _ _ _ => (0xFC000000, 0x3C000000)
  | .addic _ _ _ => (0xFC000000, 0x30000000)
  | .addicRc _ _ _ => (0xFC000000, 0x34000000)
  | .subfic _ _ _ => (0xFC000000, 0x20000000)
  | .mulli _ _ _ => (0xFC000000, 0x1C000000)
  | .add _ _ _ _ _ => (0xFC0003FE, 0x7C000214)
  | .subf _ _ _ _ _ => (0xFC0003FE, 0x7C000050)
  | .addc _ _ _ _ _ => (0xFC0003FE, 0x7C000014)
  | .subfc _ _ _ _ _ => (0xFC0003FE, 0x7C000010)
  | .adde _ _ _ _ _ => (0xFC0003FE, 0x7C000114)
  | .subfe _ _ _ _ _ => (0xFC0003FE, 0x7C000110)
  | .addme _ _ _ _ => (0xFC0003FE, 0x7C0001D4)
  | .subfme _ _ _ _ => (0xFC0003FE, 0x7C0001D0)
  | .addze _ _ _ _ => (0xFC0003FE, 0x7C000194)
  | .subfze _ _ _ _ => (0xFC0003FE, 0x7C000190)
  | .neg _ _ _ _ => (0xFC0003FE, 0x7C0000D0)
  | .mullw _ _ _ _ _ => (0xFC0003FE, 0x7C0001D6)
  | .mulhw _ _ _ _ => (0xFC0003FE, 0x7C000096)
  | .mulhwu _ _ _ _ => (0xFC0003FE, 0x7C000016)
  | .divw _ _ _ _ _ => (0xFC0003FE, 0x7C0003D6)
  | .divwu _ _ _ _ _ => (0xFC0003FE, 0x7C000396)
  | .cmpi _ _ _ _ => (0xFC000000, 0x2C000000)
  | .cmp _ _ _ _ => (0xFC0007FE, 0x7C000000)
  | .cmpli _ _ _ _ => (0xFC000000, 0x28000000)
  | .cmpl _ _ _ _ => (0xFC0007FE, 0x7C000040)
  | .andiRc _ _ _ => (0xFC000000, 0x70000000)
  | .andisRc _ _ _ => (0xFC000000, 0x74000000)
  | .ori _ _ _ => (0xFC000000, 0x60000000)
  | .oris _ _ _ => (0xFC000000, 0x64000000)
  | .xori _ _ _ => (0xFC000000, 0x68000000)
  | .xoris _ _ _ => (0xFC000000, 0x6C000000)
  | .and _ _ _ _ => (0xFC0007FE, 0x7C000038)
  | .or _ _ _ _ => (0xFC0007FE, 0x7C000378)
  | .xor _ _ _ _ => (0xFC0007FE, 0x7C000278)
  | .nand _ _ _ _ => (0xFC0007FE, 0x7C0003B8)
  | .nor _ _ _ _ => (0xFC0007FE, 0x7C0000F8)
  | .eqv _ _ _ _ => (0xFC0007FE, 0x7C000238)
  | .andc _ _ _ _ => (0xFC0007FE, 0x7C000078)
  | .orc _ _ _ _ => (0xFC0007FE, 0x7C000338)
  | .extsb _ _ _ => (0xFC0007FE, 0x7C000774)
  | .extsh _ _ _ => (0xFC0007FE, 0x7C000734)
  | .cntlzw _ _ _ => (0xFC0007FE, 0x7C000034)
  | .rlwinm _ _ _ _ _ _ => (0xFC000000, 0x54000000)
  | .rlwnm _ _ _ _ _ _ => (0xFC000000, 0x5C000000)
  | .rlwimi _ _ _ _ _ _ => (0xFC000000, 0x50000000)
  | .slw _ _ _ _ => (0xFC0007FE, 0x7C000030)
  | .srw _ _ _ _ => (0xFC0007FE, 0x7C000430)
  | .srawi _ _ _ _ => (0xFC0007FE, 0x7C000670)
  | .sraw _ _ _ _ => (0xFC0007FE, 0x7C000630)
  | .fadd _ _ _ _ => (0xFC00003E, 0xFC00002A)
  | .fadds _ _ _ _ => (0xFC00003E, 0xEC00002A)
  | .fsub _ _ _ _ => (0xFC00003E, 0xFC000028)
  | .fsubs _ _ _ _ => (0xFC00003E, 0xEC000028)
  | .fmul _ _ _ _ => (0xFC00003E, 0xFC000032)
  | .fmuls _ _ _ _ => (0xFC00003E, 0xEC000032)
  | .fdiv _ _ _ _ => (0xFC00003E, 0xFC000024)
  | .fdivs _ _ _ _ => (0xFC00003E, 0xEC000024)
  | .fres _ _ _ => (0xFC00003E, 0xEC000030)
  | .frsqrte _ _ _ => (0xFC00003E, 0xFC000034)
  | .fsel _ _ _ _ _ => (0xFC00003E, 0xFC00002E)
  | .fmadd _ _ _ _ _ => (0xFC00003E, 0xFC00003A)
  | .fmadds _ _ _ _ _ => (0xFC00003E, 0xEC00003A)
  | .fmsub _ _ _ _ _ => (0xFC00003E, 0xFC000038)
  | .fmsubs _ _ _ _ _ => (0xFC00003E, 0xEC000038)
  | .fnmadd _ _ _ _ _ => (0xFC00003E, 0xFC00003E)
  | .fnmadds _ _ _ _ _ => (0xFC00003E, 0xEC00003E)
  | .fnmsub _ _ _ _ _ => (0xFC00003E, 0xFC00003C)
  | .fnmsubs _ _ _ _ _ => (0xFC00003E, 0xEC00003C)
  | .frsp _ _ _ => (0xFC0007FE, 0xFC000018)
  | .fctiw _ _ _ => (0xFC0007FE, 0xFC00001C)
  | .fctiwz _ _ _ => (0xFC0007FE, 0xFC00001E)
  | .fcmpu _ _ _ _ => (0xFC0007FE, 0xFC000000)
  | .fcmpo _ _ _ _ => (0xFC0007FE, 0xFC000040)
  | .mffs _ _ => (0xFC0007FE, 0xFC00048E)
  | .mcrfs _ _ => (0xFC0007FE, 0xFC000080)
  | .mtfsfi _ _ _ => (0xFC0007FE, 0xFC00010C)
  | .mtfsf _ _ _ => (0xFC0007FE, 0xFC00058E)
  | .mtfsb0 _ _ => (0xFC0007FE, 0xFC00008C)
  | .mtfsb1 _ _ => (0xFC0007FE, 0xFC00004C)
  | .fmr _ _ _ => (0xFC0007FE, 0xFC000090)
  | .fneg _ _ _ => (0xFC0007FE, 0xFC000050)
  | .fabs _ _ _ => (0xFC0007FE, 0xFC000210)
  | .fnabs _ _ _ => (0xFC0007FE, 0xFC000110)
  | .lbz _ _ _ => (0xFC000000, 0x88000000)
  | .lbzx _ _ _ _ => (0xFC0007FE, 0x7C0000AE)
  | .lbzu _ _ _ => (0xFC000000, 0x8C000000)
  | .lbzux _ _ _ _ => (0xFC0007FE, 0x7C0000EE)
  | .lhz _ _ _ => (0xFC000000, 0xA0000000)
  | .lhzx _ _ _ _ => (0xFC0007FE, 0x7C00022E)
  | .lhzu _ _ _ => (0xFC000000, 0xA4000000)
  | .lhzux _ _ _ _ => (0xFC0007FE, 0x7C00026E)
  | .lha _ _ _ => (0xFC000000, 0xA8000000)
  | .lhax _ _ _ _ => (0xFC0007FE, 0x7C0002AE)
  | .lhau _ _ _ => (0xFC000000, 0xAC000000)
  | .lhaux _ _ _ _ => (0xFC0007FE, 0x7C0002EE)
  | .lwz _ _ _ => (0xFC000000, 0x80000000)
  | .lwzx _ _ _ _ => (0xFC0007FE, 0x7C00002E)
  | .lwzu _ _ _ => (0xFC000000, 0x84000000)
  | .lwzux _ _ _ _ => (0xFC0007FE, 0x7C00006E)
  | .stb _ _ _ => (0xFC000000, 0x98000000)
  | .stbx _ _ _ _ => (0xFC0007FE, 0x7C0001AE)
  | .stbu _ _ _ => (0xFC000000, 0x9C000000)
  | .stbux _ _ _ _ => (0xFC0007FE, 0x7C0001EE)
  | .sth _ _ _ => (0xFC000000, 0xB0000000)
  | .sthx _ _ _ _ => (0xFC0007FE, 0x7C00032E)
  | .sthu _ _ _ => (0xFC000000, 0xB4000000)
  | .sthux _ _ _ _ => (0xFC0007FE, 0x7C00036E)
  | .stw _ _ _ => (0xFC000000, 0x90000000)
  | .stwx _ _ _ _ => (0xFC0007FE, 0x7C00012E)
  | .stwu _ _ _ => (0xFC000000, 0x94000000)
  | .stwux _ _ _ _ => (0xFC0007FE, 0x7C00016E)
  | .lhbrx _ _ _ _ => (0xFC0007FE, 0x7C00062C)
  | .lwbrx _ _ _ _ => (0xFC0007FE, 0x7C00042C)
  | .sthbrx _ _ _ _ => (0xFC0007FE, 0x7C00072C)
  | .stwbrx _ _ _ _ => (0xFC0007FE, 0x7C00052C)
  | .lmw _ _ _ => (0xFC000000, 0xB8000000)
  | .stmw _ _ _ => (0xFC000000, 0xBC000000)
  | .lswi _ _ _ _ => (0xFC0007FE, 0x7C0004AA)
  | .lswx _ _ _ _ => (0xFC0007FE, 0x7C00042A)
  | .stswi _ _ _ _ => (0xFC0007FE, 0x7C0005AA)
  | .stswx _ _ _ _ => (0xFC0007FE, 0x7C00052A)
  | .lfs _ _ _ => (0xFC000000, 0xC0000000)
  | .lfsx _ _ _ _ => (0xFC0007FE, 0x7C00042E)
  | .lfsu _ _ _ => (0xFC000000, 0xC4000000)
  | .lfsux _ _ _ _ => (0xFC0007FE, 0x7C00046E)
  | .lfd _ _ _ => (0xFC000000, 0xC8000000)
  | .lfdx _ _ _ _ => (0xFC0007FE, 0x7C0004AE)
  | .lfdu _ _ _ => (0xFC000000, 0xCC000000)
  | .lfdux _ _ _ _ => (0xFC0007FE, 0x7C0004EE)
  | .stfs _ _ _ => (0xFC000000, 0xD0000000)
  | .stfsx _ _ _ _ => (0xFC0007FE, 0x7C00052E)
  | .stfsu _ _ _ => (0xFC000000, 0xD4000000)
  | .stfsux _ _ _ _ => (0xFC0007FE, 0x7C00056E)
  | .stfd _ _ _ => (0xFC000000, 0xD8000000)
  | .stfdx _ _ _ _ => (0xFC0007FE, 0x7C0005AE)
  | .stfdu _ _ _ => (0xFC000000, 0xDC000000)
  | .stfdux _ _ _ _ => (0xFC0007FE, 0x7C0005EE)
  | .stfiwx _ _ _ _ => (0xFC0007FE, 0x7C0007AE)
  | .lwarx _ _ _ _ => (0xFC0007FE, 0x7C000028)
  | .stwcxRc _ _ _ _ => (0xFC0007FE, 0x7C00012C)
  | .b _ _ _ => (0xFC000000, 0x48000000)
  | .bc _ _ _ _ _ => (0xFC000000, 0x40000000)
  | .bclr _ _ _ => (0xFC0007FE, 0x4C000020)
  | .bcctr _ _ _ => (0xFC0007FE, 0x4C000420)
  | .crand _ _ _ => (0xFC0007FE, 0x4C000202)
  | .cror _ _ _ => (0xFC0007FE, 0x4C000382)
  | .crxor _ _ _ => (0xFC0007FE, 0x4C000182)
  | .crnand _ _ _ => (0xFC0007FE, 0x4C0001C2)
  | .crnor _ _ _ => (0xFC0007FE, 0x4C000042)
  | .creqv _ _ _ => (0xFC0007FE, 0x4C000242)
  | .crandc _ _ _ => (0xFC0007FE, 0x4C000102)
  | .crorc _ _ _ => (0xFC0007FE, 0x4C000342)
  | .mcrf _ _ => (0xFC0007FE, 0x4C000000)
  | .tw _ _ _ => (0xFC0007FE, 0x7C000008)
  | .twi _ _ _ => (0xFC000000, 0x0C000000)
  | .sc => (0xFC000002, 0x44000002)
  | .mtmsr _ => (0xFC0007FE, 0x7C000124)
  | .mfmsr _ => (0xFC0007FE, 0x7C0000A6)
  | .rfi => (0xFC0007FE, 0x4C000064)
  | .mtspr _ _ _ => (0xFC0007FE, 0x7C0003A6)
  | .mfspr _ _ _ => (0xFC0007FE, 0x7C0002A6)
  | .mftb _ _ => (0xFC0007FE, 0x7C0002E6)
  | .mtcrf _ _ => (0xFC0007FE, 0x7C000120)
  | .mfcr _ => (0xFC0007FE, 0x7C000026)
  | .mcrxr _ => (0xFC0007FE, 0x7C000400)
  | .sync _ => (0xFC0007FE, 0x7C0004AC)
  | .eieio => (0xFC0007FE, 0x7C0006AC)
  | .isync => (0xFC0007FE, 0x4C00012C)
  | .dcbt _ _ => (0xFC0007FE, 0x7C00022C)
  | .dcbtst _ _ => (0xFC0007FE, 0x7C0001EC)
  | .dcbz _ _ => (0xFC0007FE, 0x7C0007EC)
  | .dcbst _ _ => (0xFC0007FE, 0x7C00006C)
  | .dcbf _ _ => (0xFC0007FE, 0x7C0000AC)
  | .dcbi _ _ => (0xFC0007FE, 0x7C0003AC)
  | .icbi _ _ => (0xFC0007FE, 0x7C0007AC)
  | .mtsr _ _ => (0xFC0007FE, 0x7C0001A4)
  | .mtsrin _ _ => (0xFC0007FE, 0x7C0001E4)
  | .mfsr _ _ => (0xFC0007FE, 0x7C0004A6)
  | .mfsrin _ _ => (0xFC0007FE, 0x7C000526)
  | .tlbie _ => (0xFC0007FE, 0x7C000264)
  | .tlbsync => (0xFC0007FE, 0x7C00046C)
  | .eciwx _ _ _ => (0xFC0007FE, 0x7C00026C)
  | .ecowx _ _ _ => (0xFC0007FE, 0x7C00036C)

theorem and_none {w : Nat} (x : BitVec w) : x &&& 0 = 0 := BitVec.and_zero

/-! ## What is left of a format under the mask of its opcode -/

theorem encD_row (o : BitVec 6) (a b : BitVec 5) (d : BitVec 16) : encD o a b d &&& 0xFC000000 = encD o 0 0 0 := by
  have h : ∀ (o' : BitVec 6) (a' b' : BitVec 5) (d' : BitVec 16), (o ++ a ++ b ++ d) &&& (o' ++ a' ++ b' ++ d') =
      (o &&& o') ++ (a &&& a') ++ (b &&& b') ++ (d &&& d') := fun _ _ _ _ => by simp only [BitVec.and_append]
  have h6 : o &&& 63 = o := BitVec.and_allOnes
  refine (h 63 0 0 0).trans ?_
  simp only [and_none, h6]
  rfl

theorem encX_row (o : BitVec 6) (a b c : BitVec 5) (xo : BitVec 10) (rc : Bool) :
    encX o a b c xo rc &&& 0xFC0007FE = encX o 0 0 0 xo false := by
  have h : ∀ (o' : BitVec 6) (a' b' c' : BitVec 5) (x' : BitVec 10) (r' : BitVec 1),
      (o ++ a ++ b ++ c ++ xo ++ ofBit rc) &&& (o' ++ a' ++ b' ++ c' ++ x' ++ r') =
      (o &&& o') ++ (a &&& a') ++ (b &&& b') ++ (c &&& c') ++ (xo &&& x') ++ (ofBit rc &&& r') :=
    fun _ _ _ _ _ _ => by simp only [BitVec.and_append]
  have h6 : o &&& 63 = o := BitVec.and_allOnes
  have hx : xo &&& 1023 = xo := BitVec.and_allOnes
  refine (h 63 0 0 0 1023 0).trans ?_
  simp only [and_none, h6, hx]
  rfl

theorem encXO_row (a b c : BitVec 5) (oe : Bool) (xo : BitVec 9) (rc : Bool) :
    encXO a b c oe xo rc &&& 0xFC0003FE = encXO 0 0 0 false xo false := by
  have h : ∀ (o o' : BitVec 6) (a' b' c' : BitVec 5) (e' : BitVec 1) (x' : BitVec 9) (r' : BitVec 1),
      (o ++ a ++ b ++ c ++ ofBit oe ++ xo ++ ofBit rc) &&& (o' ++ a' ++ b' ++ c' ++ e' ++ x' ++ r') =
      (o &&& o') ++ (a &&& a') ++ (b &&& b') ++ (c &&& c') ++ (ofBit oe &&& e') ++ (xo &&& x') ++ (ofBit rc &&& r') :=
    fun _ _ _ _ _ _ _ _ => by simp only [BitVec.and_append]
  have hx : xo &&& 511 = xo := BitVec.and_allOnes
  refine (h 31 63 0 0 0 0 511 0).trans ?_
  simp only [and_none, hx]
  rfl

theorem encA_parts (o o' : BitVec 6) (a b c d e a' b' c' d' e' : BitVec 5) (r r' : BitVec 1) :
    (o ++ a ++ b ++ c ++ d ++ e ++ r) &&& (o' ++ a' ++ b' ++ c' ++ d' ++ e' ++ r') =
    (o &&& o') ++ (a &&& a') ++ (b &&& b') ++ (c &&& c') ++ (d &&& d') ++ (e &&& e') ++ (r &&& r') := by
  simp only [BitVec.and_append]

theorem encA_row (o : BitVec 6) (a b c d e : BitVec 5) (rc : Bool) :
    encA o a b c d e rc &&& 0xFC00003E = encA o 0 0 0 0 e false := by
  have h6 : o &&& 63 = o := BitVec.and_allOnes
  have he : e &&& 31 = e := BitVec.and_allOnes
  refine (encA_parts o 63 a b c d e 0 0 0 0 31 (ofBit rc) 0).trans ?_
  simp only [and_none, h6, he]
  rfl

theorem encM_row (o : BitVec 6) (a b c d e : BitVec 5) (rc : Bool) :
    encA o a b c d e rc &&& 0xFC000000 = encA o 0 0 0 0 0 false := by
  have h6 : o &&& 63 = o := BitVec.and_allOnes
  refine (encA_parts o 63 a b c d e 0 0 0 0 0 (ofBit rc) 0).trans ?_
  simp only [and_none, h6]
  rfl

namespace RowBits

/-- The encoding has the row's opcode bits. -/
def Statement (i : Instr) : Prop := encode i &&& (row i).1 = (row i).2

theorem addi (rD : Reg) (rA : Reg) (simm : BitVec 16) : Statement (.addi rD rA simm) := (encD_row _ _ _ _).trans rfl
theorem addis (rD : Reg) (rA : Reg) (simm : BitVec 16) : Statement (.addis rD rA simm) := (encD_row _ _ _ _).trans rfl
theorem addic (rD : Reg) (rA : Reg) (simm : BitVec 16) : Statement (.addic rD rA simm) := (encD_row _ _ _ _).trans rfl
theorem addicRc (rD : Reg) (rA : Reg) (simm : BitVec 16) : Statement (.addicRc rD rA simm) :=
  (encD_row _ _ _ _).trans rfl
theorem subfic (rD : Reg) (rA : Reg) (simm : BitVec 16) : Statement (.subfic rD rA simm) := (encD_row _ _ _ _).trans rfl
theorem mulli (rD : Reg) (rA : Reg) (simm : BitVec 16) : Statement (.mulli rD rA simm) := (encD_row _ _ _ _).trans rfl
theorem add (rD : Reg) (rA : Reg) (rB : Reg) (oe : Bool) (rc : Bool) : Statement (.add rD rA rB oe rc) :=
  (encXO_row _ _ _ _ _ _).trans rfl
theorem subf (rD : Reg) (rA : Reg) (rB : Reg) (oe : Bool) (rc : Bool) : Statement (.subf rD rA rB oe rc) :=
  (encXO_row _ _ _ _ _ _).trans rfl
theorem addc (rD : Reg) (rA : Reg) (rB : Reg) (oe : Bool) (rc : Bool) : Statement (.addc rD rA rB oe rc) :=
  (encXO_row _ _ _ _ _ _).trans rfl
theorem subfc (rD : Reg) (rA : Reg) (rB : Reg) (oe : Bool) (rc : Bool) : Statement (.subfc rD rA rB oe rc) :=
  (encXO_row _ _ _ _ _ _).trans rfl
theorem adde (rD : Reg) (rA : Reg) (rB : Reg) (oe : Bool) (rc : Bool) : Statement (.adde rD rA rB oe rc) :=
  (encXO_row _ _ _ _ _ _).trans rfl
theorem subfe (rD : Reg) (rA : Reg) (rB : Reg) (oe : Bool) (rc : Bool) : Statement (.subfe rD rA rB oe rc) :=
  (encXO_row _ _ _ _ _ _).trans rfl
theorem addme (rD : Reg) (rA : Reg) (oe : Bool) (rc : Bool) : Statement (.addme rD rA oe rc) :=
  (encXO_row _ _ _ _ _ _).trans rfl
theorem subfme (rD : Reg) (rA : Reg) (oe : Bool) (rc : Bool) : Statement (.subfme rD rA oe rc) :=
  (encXO_row _ _ _ _ _ _).trans rfl
theorem addze (rD : Reg) (rA : Reg) (oe : Bool) (rc : Bool) : Statement (.addze rD rA oe rc) :=
  (encXO_row _ _ _ _ _ _).trans rfl
theorem subfze (rD : Reg) (rA : Reg) (oe : Bool) (rc : Bool) : Statement (.subfze rD rA oe rc) :=
  (encXO_row _ _ _ _ _ _).trans rfl
theorem neg (rD : Reg) (rA : Reg) (oe : Bool) (rc : Bool) : Statement (.neg rD rA oe rc) :=
  (encXO_row _ _ _ _ _ _).trans rfl
theorem mullw (rD : Reg) (rA : Reg) (rB : Reg) (oe : Bool) (rc : Bool) : Statement (.mullw rD rA rB oe rc) :=
  (encXO_row _ _ _ _ _ _).trans rfl
theorem mulhw (rD : Reg) (rA : Reg) (rB : Reg) (rc : Bool) : Statement (.mulhw rD rA rB rc) :=
  (encXO_row _ _ _ _ _ _).trans rfl
theorem mulhwu (rD : Reg) (rA : Reg) (rB : Reg) (rc : Bool) : Statement (.mulhwu rD rA rB rc) :=
  (encXO_row _ _ _ _ _ _).trans rfl
theorem divw (rD : Reg) (rA : Reg) (rB : Reg) (oe : Bool) (rc : Bool) : Statement (.divw rD rA rB oe rc) :=
  (encXO_row _ _ _ _ _ _).trans rfl
theorem divwu (rD : Reg) (rA : Reg) (rB : Reg) (oe : Bool) (rc : Bool) : Statement (.divwu rD rA rB oe rc) :=
  (encXO_row _ _ _ _ _ _).trans rfl
theorem cmpi (crfD : CrField) (l : Bool) (rA : Reg) (simm : BitVec 16) : Statement (.cmpi crfD l rA simm) :=
  (encD_row _ _ _ _).trans rfl
theorem cmp (crfD : CrField) (l : Bool) (rA : Reg) (rB : Reg) : Statement (.cmp crfD l rA rB) :=
  (encX_row _ _ _ _ _ _).trans rfl
theorem cmpli (crfD : CrField) (l : Bool) (rA : Reg) (uimm : BitVec 16) : Statement (.cmpli crfD l rA uimm) :=
  (encD_row _ _ _ _).trans rfl
theorem cmpl (crfD : CrField) (l : Bool) (rA : Reg) (rB : Reg) : Statement (.cmpl crfD l rA rB) :=
  (encX_row _ _ _ _ _ _).trans rfl
theorem andiRc (rA : Reg) (rS : Reg) (uimm : BitVec 16) : Statement (.andiRc rA rS uimm) := (encD_row _ _ _ _).trans rfl
theorem andisRc (rA : Reg) (rS : Reg) (uimm : BitVec 16) : Statement (.andisRc rA rS uimm) :=
  (encD_row _ _ _ _).trans rfl
theorem ori (rA : Reg) (rS : Reg) (uimm : BitVec 16) : Statement (.ori rA rS uimm) := (encD_row _ _ _ _).trans rfl
theorem oris (rA : Reg) (rS : Reg) (uimm : BitVec 16) : Statement (.oris rA rS uimm) := (encD_row _ _ _ _).trans rfl
theorem xori (rA : Reg) (rS : Reg) (uimm : BitVec 16) : Statement (.xori rA rS uimm) := (encD_row _ _ _ _).trans rfl
theorem xoris (rA : Reg) (rS : Reg) (uimm : BitVec 16) : Statement (.xoris rA rS uimm) := (encD_row _ _ _ _).trans rfl
theorem and (rA : Reg) (rS : Reg) (rB : Reg) (rc : Bool) : Statement (.and rA rS rB rc) :=
  (encX_row _ _ _ _ _ _).trans rfl
theorem or (rA : Reg) (rS : Reg) (rB : Reg) (rc : Bool) : Statement (.or rA rS rB rc) :=
  (encX_row _ _ _ _ _ _).trans rfl
theorem xor (rA : Reg) (rS : Reg) (rB : Reg) (rc : Bool) : Statement (.xor rA rS rB rc) :=
  (encX_row _ _ _ _ _ _).trans rfl
theorem nand (rA : Reg) (rS : Reg) (rB : Reg) (rc : Bool) : Statement (.nand rA rS rB rc) :=
  (encX_row _ _ _ _ _ _).trans rfl
theorem nor (rA : Reg) (rS : Reg) (rB : Reg) (rc : Bool) : Statement (.nor rA rS rB rc) :=
  (encX_row _ _ _ _ _ _).trans rfl
theorem eqv (rA : Reg) (rS : Reg) (rB : Reg) (rc : Bool) : Statement (.eqv rA rS rB rc) :=
  (encX_row _ _ _ _ _ _).trans rfl
theorem andc (rA : Reg) (rS : Reg) (rB : Reg) (rc : Bool) : Statement (.andc rA rS rB rc) :=
  (encX_row _ _ _ _ _ _).trans rfl
theorem orc (rA : Reg) (rS : Reg) (rB : Reg) (rc : Bool) : Statement (.orc rA rS rB rc) :=
  (encX_row _ _ _ _ _ _).trans rfl
theorem extsb (rA : Reg) (rS : Reg) (rc : Bool) : Statement (.extsb rA rS rc) := (encX_row _ _ _ _ _ _).trans rfl
theorem extsh (rA : Reg) (rS : Reg) (rc : Bool) : Statement (.extsh rA rS rc) := (encX_row _ _ _ _ _ _).trans rfl
theorem cntlzw (rA : Reg) (rS : Reg) (rc : Bool) : Statement (.cntlzw rA rS rc) := (encX_row _ _ _ _ _ _).trans rfl
theorem rlwinm (rA : Reg) (rS : Reg) (sh : Reg) (mb : Reg) (me : Reg) (rc : Bool) : Statement (.rlwinm rA rS sh mb me rc) :=
  (encM_row _ _ _ _ _ _ _).trans rfl
theorem rlwnm (rA : Reg) (rS : Reg) (rB : Reg) (mb : Reg) (me : Reg) (rc : Bool) : Statement (.rlwnm rA rS rB mb me rc) :=
  (encM_row _ _ _ _ _ _ _).trans rfl
theorem rlwimi (rA : Reg) (rS : Reg) (sh : Reg) (mb : Reg) (me : Reg) (rc : Bool) : Statement (.rlwimi rA rS sh mb me rc) :=
  (encM_row _ _ _ _ _ _ _).trans rfl
theorem slw (rA : Reg) (rS : Reg) (rB : Reg) (rc : Bool) : Statement (.slw rA rS rB rc) :=
  (encX_row _ _ _ _ _ _).trans rfl
theorem srw (rA : Reg) (rS : Reg) (rB : Reg) (rc : Bool) : Statement (.srw rA rS rB rc) :=
  (encX_row _ _ _ _ _ _).trans rfl
theorem srawi (rA : Reg) (rS : Reg) (sh : Reg) (rc : Bool) : Statement (.srawi rA rS sh rc) :=
  (encX_row _ _ _ _ _ _).trans rfl
theorem sraw (rA : Reg) (rS : Reg) (rB : Reg) (rc : Bool) : Statement (.sraw rA rS rB rc) :=
  (encX_row _ _ _ _ _ _).trans rfl
theorem fadd (frD : Reg) (frA : Reg) (frB : Reg) (rc : Bool) : Statement (.fadd frD frA frB rc) :=
  (encA_row _ _ _ _ _ _ _).trans rfl
theorem fadds (frD : Reg) (frA : Reg) (frB : Reg) (rc : Bool) : Statement (.fadds frD frA frB rc) :=
  (encA_row _ _ _ _ _ _ _).trans rfl
theorem fsub (frD : Reg) (frA : Reg) (frB : Reg) (rc : Bool) : Statement (.fsub frD frA frB rc) :=
  (encA_row _ _ _ _ _ _ _).trans rfl
theorem fsubs (frD : Reg) (frA : Reg) (frB : Reg) (rc : Bool) : Statement (.fsubs frD frA frB rc) :=
  (encA_row _ _ _ _ _ _ _).trans rfl
theorem fmul (frD : Reg) (frA : Reg) (frC : Reg) (rc : Bool) : Statement (.fmul frD frA frC rc) :=
  (encA_row _ _ _ _ _ _ _).trans rfl
theorem fmuls (frD : Reg) (frA : Reg) (frC : Reg) (rc : Bool) : Statement (.fmuls frD frA frC rc) :=
  (encA_row _ _ _ _ _ _ _).trans rfl
theorem fdiv (frD : Reg) (frA : Reg) (frB : Reg) (rc : Bool) : Statement (.fdiv frD frA frB rc) :=
  (encA_row _ _ _ _ _ _ _).trans rfl
theorem fdivs (frD : Reg) (frA : Reg) (frB : Reg) (rc : Bool) : Statement (.fdivs frD frA frB rc) :=
  (encA_row _ _ _ _ _ _ _).trans rfl
theorem fres (frD : Reg) (frB : Reg) (rc : Bool) : Statement (.fres frD frB rc) := (encA_row _ _ _ _ _ _ _).trans rfl
theorem frsqrte (frD : Reg) (frB : Reg) (rc : Bool) : Statement (.frsqrte frD frB rc) :=
  (encA_row _ _ _ _ _ _ _).trans rfl
theorem fsel (frD : Reg) (frA : Reg) (frC : Reg) (frB : Reg) (rc : Bool) : Statement (.fsel frD frA frC frB rc) :=
  (encA_row _ _ _ _ _ _ _).trans rfl
theorem fmadd (frD : Reg) (frA : Reg) (frC : Reg) (frB : Reg) (rc : Bool) : Statement (.fmadd frD frA frC frB rc) :=
  (encA_row _ _ _ _ _ _ _).trans rfl
theorem fmadds (frD : Reg) (frA : Reg) (frC : Reg) (frB : Reg) (rc : Bool) : Statement (.fmadds frD frA frC frB rc) :=
  (encA_row _ _ _ _ _ _ _).trans rfl
theorem fmsub (frD : Reg) (frA : Reg) (frC : Reg) (frB : Reg) (rc : Bool) : Statement (.fmsub frD frA frC frB rc) :=
  (encA_row _ _ _ _ _ _ _).trans rfl
theorem fmsubs (frD : Reg) (frA : Reg) (frC : Reg) (frB : Reg) (rc : Bool) : Statement (.fmsubs frD frA frC frB rc) :=
  (encA_row _ _ _ _ _ _ _).trans rfl
theorem fnmadd (frD : Reg) (frA : Reg) (frC : Reg) (frB : Reg) (rc : Bool) : Statement (.fnmadd frD frA frC frB rc) :=
  (encA_row _ _ _ _ _ _ _).trans rfl
theorem fnmadds (frD : Reg) (frA : Reg) (frC : Reg) (frB : Reg) (rc : Bool) : Statement (.fnmadds frD frA frC frB rc) :=
  (encA_row _ _ _ _ _ _ _).trans rfl
theorem fnmsub (frD : Reg) (frA : Reg) (frC : Reg) (frB : Reg) (rc : Bool) : Statement (.fnmsub frD frA frC frB rc) :=
  (encA_row _ _ _ _ _ _ _).trans rfl
theorem fnmsubs (frD : Reg) (frA : Reg) (frC : Reg) (frB : Reg) (rc : Bool) : Statement (.fnmsubs frD frA frC frB rc) :=
  (encA_row _ _ _ _ _ _ _).trans rfl
theorem frsp (frD : Reg) (frB : Reg) (rc : Bool) : Statement (.frsp frD frB rc) := (encX_row _ _ _ _ _ _).trans rfl
theorem fctiw (frD : Reg) (frB : Reg) (rc : Bool) : Statement (.fctiw frD frB rc) := (encX_row _ _ _ _ _ _).trans rfl
theorem fctiwz (frD : Reg) (frB : Reg) (rc : Bool) : Statement (.fctiwz frD frB rc) := (encX_row _ _ _ _ _ _).trans rfl
theorem fcmpu (crfD : CrField) (frA : Reg) (frB : Reg) (rc : Bool) : Statement (.fcmpu crfD frA frB rc) :=
  (encX_row _ _ _ _ _ _).trans rfl
theorem fcmpo (crfD : CrField) (frA : Reg) (frB : Reg) (rc : Bool) : Statement (.fcmpo crfD frA frB rc) :=
  (encX_row _ _ _ _ _ _).trans rfl
theorem mffs (frD : Reg) (rc : Bool) : Statement (.mffs frD rc) := (encX_row _ _ _ _ _ _).trans rfl
theorem mcrfs (crfD : CrField) (crfS : CrField) : Statement (.mcrfs crfD crfS) := (encX_row _ _ _ _ _ _).trans rfl
theorem mtfsfi (crfD : CrField) (imm : BitVec 4) (rc : Bool) : Statement (.mtfsfi crfD imm rc) :=
  (encX_row _ _ _ _ _ _).trans rfl
theorem mtfsf (fm : BitVec 8) (frB : Reg) (rc : Bool) : Statement (.mtfsf fm frB rc) := by
  have h : ∀ (o o' : BitVec 6) (x0 y0 : BitVec 1) (x1 y1 : BitVec 8) (x2 y2 : BitVec 1) (x3 y3 : BitVec 5) (x4 y4 : BitVec 10) (x5 y5 : BitVec 1), (o ++ x0 ++ x1 ++ x2 ++ x3 ++ x4 ++ x5) &&& (o' ++ y0 ++ y1 ++ y2 ++ y3 ++ y4 ++ y5) =
      (o &&& o') ++ (x0 &&& y0) ++ (x1 &&& y1) ++ (x2 &&& y2) ++ (x3 &&& y3) ++ (x4 &&& y4) ++ (x5 &&& y5) :=
    fun _ _ _ _ _ _ _ _ _ _ _ _ _ _ => by simp only [BitVec.and_append]
  refine (h 63 63 _ 0 _ 0 _ 0 _ 0 _ 1023 _ 0).trans ?_
  simp only [and_none]
  rfl
theorem mtfsb0 (crbD : Reg) (rc : Bool) : Statement (.mtfsb0 crbD rc) := (encX_row _ _ _ _ _ _).trans rfl
theorem mtfsb1 (crbD : Reg) (rc : Bool) : Statement (.mtfsb1 crbD rc) := (encX_row _ _ _ _ _ _).trans rfl
theorem fmr (frD : Reg) (frB : Reg) (rc : Bool) : Statement (.fmr frD frB rc) := (encX_row _ _ _ _ _ _).trans rfl
theorem fneg (frD : Reg) (frB : Reg) (rc : Bool) : Statement (.fneg frD frB rc) := (encX_row _ _ _ _ _ _).trans rfl
theorem fabs (frD : Reg) (frB : Reg) (rc : Bool) : Statement (.fabs frD frB rc) := (encX_row _ _ _ _ _ _).trans rfl
theorem fnabs (frD : Reg) (frB : Reg) (rc : Bool) : Statement (.fnabs frD frB rc) := (encX_row _ _ _ _ _ _).trans rfl
theorem lbz (rD : Reg) (d : BitVec 16) (rA : Reg) : Statement (.lbz rD d rA) := (encD_row _ _ _ _).trans rfl
theorem lbzx (rD : Reg) (rA : Reg) (rB : Reg) (rc : Bool) : Statement (.lbzx rD rA rB rc) :=
  (encX_row _ _ _ _ _ _).trans rfl
theorem lbzu (rD : Reg) (d : BitVec 16) (rA : Reg) : Statement (.lbzu rD d rA) := (encD_row _ _ _ _).trans rfl
theorem lbzux (rD : Reg) (rA : Reg) (rB : Reg) (rc : Bool) : Statement (.lbzux rD rA rB rc) :=
  (encX_row _ _ _ _ _ _).trans rfl
theorem lhz (rD : Reg) (d : BitVec 16) (rA : Reg) : Statement (.lhz rD d rA) := (encD_row _ _ _ _).trans rfl
theorem lhzx (rD : Reg) (rA : Reg) (rB : Reg) (rc : Bool) : Statement (.lhzx rD rA rB rc) :=
  (encX_row _ _ _ _ _ _).trans rfl
theorem lhzu (rD : Reg) (d : BitVec 16) (rA : Reg) : Statement (.lhzu rD d rA) := (encD_row _ _ _ _).trans rfl
theorem lhzux (rD : Reg) (rA : Reg) (rB : Reg) (rc : Bool) : Statement (.lhzux rD rA rB rc) :=
  (encX_row _ _ _ _ _ _).trans rfl
theorem lha (rD : Reg) (d : BitVec 16) (rA : Reg) : Statement (.lha rD d rA) := (encD_row _ _ _ _).trans rfl
theorem lhax (rD : Reg) (rA : Reg) (rB : Reg) (rc : Bool) : Statement (.lhax rD rA rB rc) :=
  (encX_row _ _ _ _ _ _).trans rfl
theorem lhau (rD : Reg) (d : BitVec 16) (rA : Reg) : Statement (.lhau rD d rA) := (encD_row _ _ _ _).trans rfl
theorem lhaux (rD : Reg) (rA : Reg) (rB : Reg) (rc : Bool) : Statement (.lhaux rD rA rB rc) :=
  (encX_row _ _ _ _ _ _).trans rfl
theorem lwz (rD : Reg) (d : BitVec 16) (rA : Reg) : Statement (.lwz rD d rA) := (encD_row _ _ _ _).trans rfl
theorem lwzx (rD : Reg) (rA : Reg) (rB : Reg) (rc : Bool) : Statement (.lwzx rD rA rB rc) :=
  (encX_row _ _ _ _ _ _).trans rfl
theorem lwzu (rD : Reg) (d : BitVec 16) (rA : Reg) : Statement (.lwzu rD d rA) := (encD_row _ _ _ _).trans rfl
theorem lwzux (rD : Reg) (rA : Reg) (rB : Reg) (rc : Bool) : Statement (.lwzux rD rA rB rc) :=
  (encX_row _ _ _ _ _ _).trans rfl
theorem stb (rS : Reg) (d : BitVec 16) (rA : Reg) : Statement (.stb rS d rA) := (encD_row _ _ _ _).trans rfl
theorem stbx (rS : Reg) (rA : Reg) (rB : Reg) (rc : Bool) : Statement (.stbx rS rA rB rc) :=
  (encX_row _ _ _ _ _ _).trans rfl
theorem stbu (rS : Reg) (d : BitVec 16) (rA : Reg) : Statement (.stbu rS d rA) := (encD_row _ _ _ _).trans rfl
theorem stbux (rS : Reg) (rA : Reg) (rB : Reg) (rc : Bool) : Statement (.stbux rS rA rB rc) :=
  (encX_row _ _ _ _ _ _).trans rfl
theorem sth (rS : Reg) (d : BitVec 16) (rA : Reg) : Statement (.sth rS d rA) := (encD_row _ _ _ _).trans rfl
theorem sthx (rS : Reg) (rA : Reg) (rB : Reg) (rc : Bool) : Statement (.sthx rS rA rB rc) :=
  (encX_row _ _ _ _ _ _).trans rfl
theorem sthu (rS : Reg) (d : BitVec 16) (rA : Reg) : Statement (.sthu rS d rA) := (encD_row _ _ _ _).trans rfl
theorem sthux (rS : Reg) (rA : Reg) (rB : Reg) (rc : Bool) : Statement (.sthux rS rA rB rc) :=
  (encX_row _ _ _ _ _ _).trans rfl
theorem stw (rS : Reg) (d : BitVec 16) (rA : Reg) : Statement (.stw rS d rA) := (encD_row _ _ _ _).trans rfl
theorem stwx (rS : Reg) (rA : Reg) (rB : Reg) (rc : Bool) : Statement (.stwx rS rA rB rc) :=
  (encX_row _ _ _ _ _ _).trans rfl
theorem stwu (rS : Reg) (d : BitVec 16) (rA : Reg) : Statement (.stwu rS d rA) := (encD_row _ _ _ _).trans rfl
theorem stwux (rS : Reg) (rA : Reg) (rB : Reg) (rc : Bool) : Statement (.stwux rS rA rB rc) :=
  (encX_row _ _ _ _ _ _).trans rfl
theorem lhbrx (rD : Reg) (rA : Reg) (rB : Reg) (rc : Bool) : Statement (.lhbrx rD rA rB rc) :=
  (encX_row _ _ _ _ _ _).trans rfl
theorem lwbrx (rD : Reg) (rA : Reg) (rB : Reg) (rc : Bool) : Statement (.lwbrx rD rA rB rc) :=
  (encX_row _ _ _ _ _ _).trans rfl
theorem sthbrx (rS : Reg) (rA : Reg) (rB : Reg) (rc : Bool) : Statement (.sthbrx rS rA rB rc) :=
  (encX_row _ _ _ _ _ _).trans rfl
theorem stwbrx (rS : Reg) (rA : Reg) (rB : Reg) (rc : Bool) : Statement (.stwbrx rS rA rB rc) :=
  (encX_row _ _ _ _ _ _).trans rfl
theorem lmw (rD : Reg) (d : BitVec 16) (rA : Reg) : Statement (.lmw rD d rA) := (encD_row _ _ _ _).trans rfl
theorem stmw (rS : Reg) (d : BitVec 16) (rA : Reg) : Statement (.stmw rS d rA) := (encD_row _ _ _ _).trans rfl
theorem lswi (rD : Reg) (rA : Reg) (nb : Reg) (rc : Bool) : Statement (.lswi rD rA nb rc) :=
  (encX_row _ _ _ _ _ _).trans rfl
theorem lswx (rD : Reg) (rA : Reg) (rB : Reg) (rc : Bool) : Statement (.lswx rD rA rB rc) :=
  (encX_row _ _ _ _ _ _).trans rfl
theorem stswi (rS : Reg) (rA : Reg) (nb : Reg) (rc : Bool) : Statement (.stswi rS rA nb rc) :=
  (encX_row _ _ _ _ _ _).trans rfl
theorem stswx (rS : Reg) (rA : Reg) (rB : Reg) (rc : Bool) : Statement (.stswx rS rA rB rc) :=
  (encX_row _ _ _ _ _ _).trans rfl
theorem lfs (frD : Reg) (d : BitVec 16) (rA : Reg) : Statement (.lfs frD d rA) := (encD_row _ _ _ _).trans rfl
theorem lfsx (frD : Reg) (rA : Reg) (rB : Reg) (rc : Bool) : Statement (.lfsx frD rA rB rc) :=
  (encX_row _ _ _ _ _ _).trans rfl
theorem lfsu (frD : Reg) (d : BitVec 16) (rA : Reg) : Statement (.lfsu frD d rA) := (encD_row _ _ _ _).trans rfl
theorem lfsux (frD : Reg) (rA : Reg) (rB : Reg) (rc : Bool) : Statement (.lfsux frD rA rB rc) :=
  (encX_row _ _ _ _ _ _).trans rfl
theorem lfd (frD : Reg) (d : BitVec 16) (rA : Reg) : Statement (.lfd frD d rA) := (encD_row _ _ _ _).trans rfl
theorem lfdx (frD : Reg) (rA : Reg) (rB : Reg) (rc : Bool) : Statement (.lfdx frD rA rB rc) :=
  (encX_row _ _ _ _ _ _).trans rfl
theorem lfdu (frD : Reg) (d : BitVec 16) (rA : Reg) : Statement (.lfdu frD d rA) := (encD_row _ _ _ _).trans rfl
theorem lfdux (frD : Reg) (rA : Reg) (rB : Reg) (rc : Bool) : Statement (.lfdux frD rA rB rc) :=
  (encX_row _ _ _ _ _ _).trans rfl
theorem stfs (frS : Reg) (d : BitVec 16) (rA : Reg) : Statement (.stfs frS d rA) := (encD_row _ _ _ _).trans rfl
theorem stfsx (frS : Reg) (rA : Reg) (rB : Reg) (rc : Bool) : Statement (.stfsx frS rA rB rc) :=
  (encX_row _ _ _ _ _ _).trans rfl
theorem stfsu (frS : Reg) (d : BitVec 16) (rA : Reg) : Statement (.stfsu frS d rA) := (encD_row _ _ _ _).trans rfl
theorem stfsux (frS : Reg) (rA : Reg) (rB : Reg) (rc : Bool) : Statement (.stfsux frS rA rB rc) :=
  (encX_row _ _ _ _ _ _).trans rfl
theorem stfd (frS : Reg) (d : BitVec 16) (rA : Reg) : Statement (.stfd frS d rA) := (encD_row _ _ _ _).trans rfl
theorem stfdx (frS : Reg) (rA : Reg) (rB : Reg) (rc : Bool) : Statement (.stfdx frS rA rB rc) :=
  (encX_row _ _ _ _ _ _).trans rfl
theorem stfdu (frS : Reg) (d : BitVec 16) (rA : Reg) : Statement (.stfdu frS d rA) := (encD_row _ _ _ _).trans rfl
theorem stfdux (frS : Reg) (rA : Reg) (rB : Reg) (rc : Bool) : Statement (.stfdux frS rA rB rc) :=
  (encX_row _ _ _ _ _ _).trans rfl
theorem stfiwx (frS : Reg) (rA : Reg) (rB : Reg) (rc : Bool) : Statement (.stfiwx frS rA rB rc) :=
  (encX_row _ _ _ _ _ _).trans rfl
theorem lwarx (rD : Reg) (rA : Reg) (rB : Reg) (rc : Bool) : Statement (.lwarx rD rA rB rc) :=
  (encX_row _ _ _ _ _ _).trans rfl
theorem stwcxRc (rS : Reg) (rA : Reg) (rB : Reg) (rc : Bool) : Statement (.stwcxRc rS rA rB rc) :=
  (encX_row _ _ _ _ _ _).trans rfl
theorem b (li : BitVec 24) (aa : Bool) (lk : Bool) : Statement (.b li aa lk) := by
  have h : ∀ (o o' : BitVec 6) (x0 y0 : BitVec 24) (x1 y1 : BitVec 1) (x2 y2 : BitVec 1), (o ++ x0 ++ x1 ++ x2) &&& (o' ++ y0 ++ y1 ++ y2) =
      (o &&& o') ++ (x0 &&& y0) ++ (x1 &&& y1) ++ (x2 &&& y2) :=
    fun _ _ _ _ _ _ _ _ => by simp only [BitVec.and_append]
  refine (h 18 63 _ 0 _ 0 _ 0).trans ?_
  simp only [and_none]
  rfl
theorem bc (bo : Reg) (bi : Reg) (bd : BitVec 14) (aa : Bool) (lk : Bool) : Statement (.bc bo bi bd aa lk) := by
  have h : ∀ (o o' : BitVec 6) (x0 y0 : BitVec 5) (x1 y1 : BitVec 5) (x2 y2 : BitVec 14) (x3 y3 : BitVec 1) (x4 y4 : BitVec 1), (o ++ x0 ++ x1 ++ x2 ++ x3 ++ x4) &&& (o' ++ y0 ++ y1 ++ y2 ++ y3 ++ y4) =
      (o &&& o') ++ (x0 &&& y0) ++ (x1 &&& y1) ++ (x2 &&& y2) ++ (x3 &&& y3) ++ (x4 &&& y4) :=
    fun _ _ _ _ _ _ _ _ _ _ _ _ => by simp only [BitVec.and_append]
  refine (h 16 63 _ 0 _ 0 _ 0 _ 0 _ 0).trans ?_
  simp only [and_none]
  rfl
theorem bclr (bo : Reg) (bi : Reg) (lk : Bool) : Statement (.bclr bo bi lk) := (encX_row _ _ _ _ _ _).trans rfl
theorem bcctr (bo : Reg) (bi : Reg) (lk : Bool) : Statement (.bcctr bo bi lk) := (encX_row _ _ _ _ _ _).trans rfl
theorem crand (crbD : Reg) (crbA : Reg) (crbB : Reg) : Statement (.crand crbD crbA crbB) :=
  (encX_row _ _ _ _ _ _).trans rfl
theorem cror (crbD : Reg) (crbA : Reg) (crbB : Reg) : Statement (.cror crbD crbA crbB) :=
  (encX_row _ _ _ _ _ _).trans rfl
theorem crxor (crbD : Reg) (crbA : Reg) (crbB : Reg) : Statement (.crxor crbD crbA crbB) :=
  (encX_row _ _ _ _ _ _).trans rfl
theorem crnand (crbD : Reg) (crbA : Reg) (crbB : Reg) : Statement (.crnand crbD crbA crbB) :=
  (encX_row _ _ _ _ _ _).trans rfl
theorem crnor (crbD : Reg) (crbA : Reg) (crbB : Reg) : Statement (.crnor crbD crbA crbB) :=
  (encX_row _ _ _ _ _ _).trans rfl
theorem creqv (crbD : Reg) (crbA : Reg) (crbB : Reg) : Statement (.creqv crbD crbA crbB) :=
  (encX_row _ _ _ _ _ _).trans rfl
theorem crandc (crbD : Reg) (crbA : Reg) (crbB : Reg) : Statement (.crandc crbD crbA crbB) :=
  (encX_row _ _ _ _ _ _).trans rfl
theorem crorc (crbD : Reg) (crbA : Reg) (crbB : Reg) : Statement (.crorc crbD crbA crbB) :=
  (encX_row _ _ _ _ _ _).trans rfl
theorem mcrf (crfD : CrField) (crfS : CrField) : Statement (.mcrf crfD crfS) := (encX_row _ _ _ _ _ _).trans rfl
theorem tw (cond : Reg) (rA : Reg) (rB : Reg) : Statement (.tw cond rA rB) := (encX_row _ _ _ _ _ _).trans rfl
theorem twi (cond : Reg) (rA : Reg) (simm : BitVec 16) : Statement (.twi cond rA simm) := (encD_row _ _ _ _).trans rfl
theorem sc : Statement .sc := rfl
theorem mtmsr (rS : Reg) : Statement (.mtmsr rS) := (encX_row _ _ _ _ _ _).trans rfl
theorem mfmsr (rD : Reg) : Statement (.mfmsr rD) := (encX_row _ _ _ _ _ _).trans rfl
theorem rfi : Statement .rfi := (encX_row _ _ _ _ _ _).trans rfl
theorem mtspr (spr : BitVec 10) (rS : Reg) (rc : Bool) : Statement (.mtspr spr rS rc) :=
  (encX_row _ _ _ _ _ _).trans rfl
theorem mfspr (rD : Reg) (spr : BitVec 10) (rc : Bool) : Statement (.mfspr rD spr rc) :=
  (encX_row _ _ _ _ _ _).trans rfl
theorem mftb (rD : Reg) (tbr : BitVec 10) : Statement (.mftb rD tbr) := (encX_row _ _ _ _ _ _).trans rfl
theorem mtcrf (crm : BitVec 8) (rS : Reg) : Statement (.mtcrf crm rS) := by
  have h : ∀ (o o' : BitVec 6) (x0 y0 : BitVec 5) (x1 y1 : BitVec 1) (x2 y2 : BitVec 8) (x3 y3 : BitVec 1) (x4 y4 : BitVec 10) (x5 y5 : BitVec 1), (o ++ x0 ++ x1 ++ x2 ++ x3 ++ x4 ++ x5) &&& (o' ++ y0 ++ y1 ++ y2 ++ y3 ++ y4 ++ y5) =
      (o &&& o') ++ (x0 &&& y0) ++ (x1 &&& y1) ++ (x2 &&& y2) ++ (x3 &&& y3) ++ (x4 &&& y4) ++ (x5 &&& y5) :=
    fun _ _ _ _ _ _ _ _ _ _ _ _ _ _ => by simp only [BitVec.and_append]
  refine (h 31 63 _ 0 _ 0 _ 0 _ 0 _ 1023 _ 0).trans ?_
  simp only [and_none]
  rfl
theorem mfcr (rD : Reg) : Statement (.mfcr rD) := (encX_row _ _ _ _ _ _).trans rfl
theorem mcrxr (crfD : CrField) : Statement (.mcrxr crfD) := (encX_row _ _ _ _ _ _).trans rfl
theorem sync (rc : Bool) : Statement (.sync rc) := (encX_row _ _ _ _ _ _).trans rfl
theorem eieio : Statement .eieio := (encX_row _ _ _ _ _ _).trans rfl
theorem isync : Statement .isync := (encX_row _ _ _ _ _ _).trans rfl
theorem dcbt (rA : Reg) (rB : Reg) : Statement (.dcbt rA rB) := (encX_row _ _ _ _ _ _).trans rfl
theorem dcbtst (rA : Reg) (rB : Reg) : Statement (.dcbtst rA rB) := (encX_row _ _ _ _ _ _).trans rfl
theorem dcbz (rA : Reg) (rB : Reg) : Statement (.dcbz rA rB) := (encX_row _ _ _ _ _ _).trans rfl
theorem dcbst (rA : Reg) (rB : Reg) : Statement (.dcbst rA rB) := (encX_row _ _ _ _ _ _).trans rfl
theorem dcbf (rA : Reg) (rB : Reg) : Statement (.dcbf rA rB) := (encX_row _ _ _ _ _ _).trans rfl
theorem dcbi (rA : Reg) (rB : Reg) : Statement (.dcbi rA rB) := (encX_row _ _ _ _ _ _).trans rfl
theorem icbi (rA : Reg) (rB : Reg) : Statement (.icbi rA rB) := (encX_row _ _ _ _ _ _).trans rfl
theorem mtsr (sr : BitVec 4) (rS : Reg) : Statement (.mtsr sr rS) := (encX_row _ _ _ _ _ _).trans rfl
theorem mtsrin (rS : Reg) (rB : Reg) : Statement (.mtsrin rS rB) := (encX_row _ _ _ _ _ _).trans rfl
theorem mfsr (rD : Reg) (sr : BitVec 4) : Statement (.mfsr rD sr) := (encX_row _ _ _ _ _ _).trans rfl
theorem mfsrin (rD : Reg) (rB : Reg) : Statement (.mfsrin rD rB) := (encX_row _ _ _ _ _ _).trans rfl
theorem tlbie (rB : Reg) : Statement (.tlbie rB) := (encX_row _ _ _ _ _ _).trans rfl
theorem tlbsync : Statement .tlbsync := (encX_row _ _ _ _ _ _).trans rfl
theorem eciwx (rD : Reg) (rA : Reg) (rB : Reg) : Statement (.eciwx rD rA rB) := (encX_row _ _ _ _ _ _).trans rfl
theorem ecowx (rS : Reg) (rA : Reg) (rB : Reg) : Statement (.ecowx rS rA rB) := (encX_row _ _ _ _ _ _).trans rfl

end RowBits

end Sys2Proof.Laws
end

