-- ==== Sys2Proof/Tests/Slice0.lean ====
section
/-! SUPPORT. Tests: decoding from words written out in the spec, the checks on forms, one step of an instruction against
the spec's worked examples (each comment names the rule whose example it is), and for every statement a state and
operands that meet its hypotheses. -/

namespace Sys2Proof.Tests

open Sys2Proof.Machine

/-! ## Helpers -/

/-- Every word decodes to the instruction beside it. -/
abbrev ReadAs (l : List (Word × Instr)) : Prop := ∀ p ∈ l, decode p.1 = .instr p.2

/-- What is seen of the next state, if there is one. -/
def seen {α : Type} (o : Out) (f : State → α) : Option α := match o with | .next t => some (f t) | _ => none

/-- The outcome of a word's instruction. -/
def runWord (w : Word) (s : State) : Out :=
  match decode w with
  | .instr i => exec i s
  | _ => .fault .reservedSnoop

/-- Reset, with general registers set. -/
def regs (l : List (Reg × Word)) : State := l.foldl (fun s p => gprSet s p.1 p.2) State.reset

/-- Reset, with MSR[FP] set and floating-point registers loaded. -/
def fregs (l : List (Reg × DWord)) : State := l.foldl (fun s p => fprSet s p.1 p.2) { State.reset with msr := 0x2040 }

/-- The memory of the load examples (R683). -/
def image (s : State) : State :=
  pokeBytes [0x11, 0x22, 0x33, 0x44, 0x55, 0x66, 0x77, 0x88, 0x99, 0xAA, 0xBB, 0xCC, 0xDD, 0xEE, 0xFF, 0x00] 0x1000 s

/-- Reset in user mode. -/
def user : State := { State.reset with msr := 0x4040 }

/-- Reset with one modified block of bytes 7 in the data cache, at 0x1000. -/
def cached : State :=
  { dWayPut State.reset 0x1000 0 (some { tag := 1, modified := true, data := Vector.replicate 32 7 }) with
    hid := { State.reset.hid with hid0 := 0x00004000 } }

/-- Data translation on, one BAT for the segment at 0 with protection bits `pp`. -/
def mapped (pp : Word) : State :=
  { State.reset with
    msr := 0x50, mmu := { State.reset.mmu with
      dbat := (Vector.replicate 8 ⟨0, 0⟩).set 2 ⟨0x00001FFF, pp⟩, tlbReady := BitVec.allOnes 64 } }

/-- A segment register file of direct-store segments, data translation on. -/
def directStore : State :=
  { State.reset with
    msr := 0x50, mmu := { State.reset.mmu with sr := Vector.replicate 16 0x80000000, tlbReady := BitVec.allOnes 64 } }

/-- Data translation on, a page table at 0 with one PTE: virtual page 1 of segment 0 at physical page 5, writable. -/
def paged : State :=
  pokeBytes [0x80, 0, 0, 0, 0, 0, 0x50, 0x02] 0x40
    { State.reset with msr := 0x50, mmu := { State.reset.mmu with tlbReady := BitVec.allOnes 64 } }

/-- The same with the data TLB holding the page, its C bit as given. -/
def loaded (changed : Bool) : State := tlbPut paged .load 0x1000 0 { vsid := 0, page := 0, rpn := 5, changed := changed, wimg := 0, pp := 2 }

/-- The address a translation answers. -/
def answered (x : Xlat) : Option Word := match x with | .ok pa _ _ => some pa | _ => none

/-- The violation a translation answers. -/
def faulted (x : Xlat) : Option Violation := match x with | .viol v _ => some v | _ => none

/-- The PTE's bytes 6 and 7 after a translation. -/
def marked (x : Xlat) : Option (List Byte) := match x with | .ok _ _ s => some (bytesAt s 0x46 2) | _ => none

theorem reset_memory : MemoryCanonical State.reset := rfl

theorem reset_settled : Settled State.reset := ⟨rfl, rfl⟩

theorem plain_fetch_of {s : State} (hc : s.ctx = ⟨[], []⟩) (hg : s.supply.gaps = []) (hr : msrIr s = false) (hb : msrLe s = false)
    (hi : hidIce s = false) (hl : l2On s = false) (ht : s.tea = []) (hd : s.devices = []) (hf : s.fetch = State.reset.fetch)
    (hs : s.storeQueue = []) : PlainFetch s :=
  ⟨⟨by rw [hc], by rw [hc]⟩, hg, hr, hb, hi, hl, ht, hd, by rw [hf]; rfl, by rw [hs]; rfl, fun _ hp => by rw [hf] at hp; nomatch hp⟩

theorem reset_plain : PlainData State.reset := ⟨⟨rfl, rfl⟩, rfl, rfl, rfl, rfl, rfl, rfl, rfl, rfl, rfl⟩

/-! ## Decoding: words of the spec's examples -/

theorem test_decode_integer_arithmetic_1 : ReadAs
    [(0x3864FFFF, .addi 3 4 65535), (0x3C808000, .addis 4 0 32768), (0x30640001, .addic 3 4 1),
     (0x3464FFFF, .addicRc 3 4 65535), (0x20640000, .subfic 3 4 0), (0x1C64FFFF, .mulli 3 4 65535),
     (0x7CA32615, .add 5 3 4 true true), (0x7CA32050, .subf 5 3 4 false false), (0x7CA32014, .addc 5 3 4 false false),
     (0x7CA32010, .subfc 5 3 4 false false), (0x7CA32114, .adde 5 3 4 false false), (0x7CA32110, .subfe 5 3 4 false false),
     (0x7CA301D4, .addme 5 3 false false), (0x7CA301D0, .subfme 5 3 false false), (0x7CA30194, .addze 5 3 false false),
     (0x7CA30190, .subfze 5 3 false false), (0x7CA300D0, .neg 5 3 false false), (0x7CA325D6, .mullw 5 3 4 true false),
     (0x7CA32096, .mulhw 5 3 4 false), (0x7CA32016, .mulhwu 5 3 4 false)] := by decide

theorem test_decode_integer_arithmetic_2 : ReadAs
    [(0x7CA323D6, .divw 5 3 4 false false), (0x7CA32396, .divwu 5 3 4 false false), (0x2C030001, .cmpi 0 false 3 1),
     (0x7C832000, .cmp 1 false 3 4), (0x28030001, .cmpli 0 false 3 1), (0x7F832040, .cmpl 7 false 3 4)] := by decide

theorem test_decode_logical_rotate_shift_1 : ReadAs
    [(0x706400FF, .andiRc 4 3 255), (0x7464FF00, .andisRc 4 3 65280), (0x60645678, .ori 4 3 22136),
     (0x64641234, .oris 4 3 4660), (0x686400FF, .xori 4 3 255), (0x6C648000, .xoris 4 3 32768),
     (0x7C652038, .and 5 3 4 false), (0x7C652378, .or 5 3 4 false), (0x7C652278, .xor 5 3 4 false),
     (0x7C6523B8, .nand 5 3 4 false), (0x7C6520F8, .nor 5 3 4 false), (0x7C652238, .eqv 5 3 4 false),
     (0x7C652078, .andc 5 3 4 false), (0x7C652338, .orc 5 3 4 false), (0x7C640774, .extsb 4 3 false),
     (0x7C640734, .extsh 4 3 false), (0x7C640034, .cntlzw 4 3 false), (0x5464463E, .rlwinm 4 3 8 24 31 false),
     (0x5C65203E, .rlwnm 5 3 4 0 31 false), (0x5064442E, .rlwimi 4 3 8 16 23 false)] := by decide

theorem test_decode_logical_rotate_shift_2 : ReadAs
    [(0x7C652030, .slw 5 3 4 false), (0x7C652430, .srw 5 3 4 false), (0x7C640E70, .srawi 4 3 1 false),
     (0x7C652630, .sraw 5 3 4 false)] := by decide

theorem test_decode_floating_point_1 : ReadAs
    [(0xFC61102A, .fadd 3 1 2 false), (0xEC61102A, .fadds 3 1 2 false), (0xFC611028, .fsub 3 1 2 false),
     (0xEC611028, .fsubs 3 1 2 false), (0xFC6100B2, .fmul 3 1 2 false), (0xEC6100B2, .fmuls 3 1 2 false),
     (0xFC611024, .fdiv 3 1 2 false), (0xEC611024, .fdivs 3 1 2 false), (0xEC601030, .fres 3 2 false),
     (0xFC601034, .frsqrte 3 2 false), (0xFC8118AE, .fsel 4 1 2 3 false), (0xFC8118BA, .fmadd 4 1 2 3 false),
     (0xEC8118BA, .fmadds 4 1 2 3 false), (0xFC8118B8, .fmsub 4 1 2 3 false), (0xEC8118B8, .fmsubs 4 1 2 3 false),
     (0xFC8118BE, .fnmadd 4 1 2 3 false), (0xEC8118BE, .fnmadds 4 1 2 3 false), (0xFC8118BC, .fnmsub 4 1 2 3 false),
     (0xEC8118BC, .fnmsubs 4 1 2 3 false), (0xFC400818, .frsp 2 1 false)] := by decide

theorem test_decode_floating_point_2 : ReadAs
    [(0xFC40081C, .fctiw 2 1 false), (0xFC40081E, .fctiwz 2 1 false), (0xFF811000, .fcmpu 7 1 2 false),
     (0xFC811040, .fcmpo 1 1 2 false), (0xFC20048E, .mffs 1 false), (0xFD040080, .mcrfs 2 1),
     (0xFF80110C, .mtfsfi 7 1 false), (0xFDFE0D8E, .mtfsf 255 1 false), (0xFFA0008C, .mtfsb0 29 false),
     (0xFF00004D, .mtfsb1 24 true), (0xFC400891, .fmr 2 1 true), (0xFC400850, .fneg 2 1 false),
     (0xFC400A10, .fabs 2 1 false), (0xFC400910, .fnabs 2 1 false)] := by decide

theorem test_decode_loads_and_stores_1 : ReadAs
    [(0x88640005, .lbz 3 5 4), (0x7C6428AE, .lbzx 3 4 5 false), (0x8C640001, .lbzu 3 1 4), (0x7C6428EE, .lbzux 3 4 5 false),
     (0xA0640002, .lhz 3 2 4), (0x7C642A2E, .lhzx 3 4 5 false), (0xA4640002, .lhzu 3 2 4), (0x7C642A6E, .lhzux 3 4 5 false),
     (0xA8640002, .lha 3 2 4), (0x7C642AAE, .lhax 3 4 5 false), (0xAC64FFFE, .lhau 3 65534 4),
     (0x7C642AEE, .lhaux 3 4 5 false), (0x80640008, .lwz 3 8 4), (0x7C64282E, .lwzx 3 4 5 false), (0x84640004, .lwzu 3 4 4),
     (0x7C64286E, .lwzux 3 4 5 false), (0x98640000, .stb 3 0 4), (0x7C6429AE, .stbx 3 4 5 false), (0x9C640001, .stbu 3 1 4),
     (0x7C6429EE, .stbux 3 4 5 false)] := by decide

theorem test_decode_loads_and_stores_2 : ReadAs
    [(0xB0640002, .sth 3 2 4), (0x7C642B2E, .sthx 3 4 5 false), (0xB4640002, .sthu 3 2 4), (0x7C642B6E, .sthux 3 4 5 false),
     (0x90640008, .stw 3 8 4), (0x7C64292E, .stwx 3 4 5 false), (0x9464FFF0, .stwu 3 65520 4),
     (0x7C64296E, .stwux 3 4 5 false), (0x7C642E2C, .lhbrx 3 4 5 false), (0x7C642C2C, .lwbrx 3 4 5 false),
     (0x7C642F2C, .sthbrx 3 4 5 false), (0x7C642D2C, .stwbrx 3 4 5 false), (0xBBA10008, .lmw 29 8 1),
     (0xBFA10008, .stmw 29 8 1), (0x7CA434AA, .lswi 5 4 6 false), (0x7FC42C2A, .lswx 30 4 5 false),
     (0x7CA435AA, .stswi 5 4 6 false), (0x7FE42D2A, .stswx 31 4 5 false), (0xC0490FDB, .lfs 2 4059 9),
     (0x7C23242E, .lfsx 1 3 4 false)] := by decide

theorem test_decode_loads_and_stores_3 : ReadAs
    [(0xC4230004, .lfsu 1 4 3), (0x7C23246E, .lfsux 1 3 4 false), (0xC8230000, .lfd 1 0 3), (0x7C2324AE, .lfdx 1 3 4 false),
     (0xCC230008, .lfdu 1 8 3), (0x7C2324EE, .lfdux 1 3 4 false), (0xD0230000, .stfs 1 0 3),
     (0x7C23252E, .stfsx 1 3 4 false), (0xD4230004, .stfsu 1 4 3), (0x7C23256E, .stfsux 1 3 4 false),
     (0xD8230000, .stfd 1 0 3), (0x7C2325AE, .stfdx 1 3 4 false), (0xDC23FFF8, .stfdu 1 65528 3),
     (0x7C2325EE, .stfdux 1 3 4 false), (0x7C2327AE, .stfiwx 1 3 4 false), (0x7CA01828, .lwarx 5 0 3 false),
     (0x7CA0192D, .stwcxRc 5 0 3 true)] := by decide

theorem test_decode_branch_and_trap : ReadAs
    [(0x48000005, .b 1 false true), (0x429F0005, .bc 20 31 1 false true), (0x4D820021, .bclr 12 2 true),
     (0x4E800421, .bcctr 20 0 true), (0x4C011202, .crand 0 1 2), (0x4C011382, .cror 0 1 2), (0x4C011182, .crxor 0 1 2),
     (0x4C0111C2, .crnand 0 1 2), (0x4C011042, .crnor 0 1 2), (0x4C011242, .creqv 0 1 2), (0x4C011102, .crandc 0 1 2),
     (0x4C011342, .crorc 0 1 2), (0x4C1C0000, .mcrf 0 7), (0x7C832008, .tw 4 3 4), (0x0C43FFFF, .twi 2 3 65535),
     (0x44000002, .sc)] := by decide

theorem test_decode_processor_control : ReadAs
    [(0x7C600124, .mtmsr 3), (0x7C8000A6, .mfmsr 4), (0x4C000064, .rfi), (0x7C70FBA6, .mtspr 1008 3 false),
     (0x7CE102A6, .mfspr 7 1 false), (0x7C6C42E6, .mftb 3 268), (0x7CA21120, .mtcrf 33 5), (0x7C600026, .mfcr 3),
     (0x7D000400, .mcrxr 2), (0x7C0004AC, .sync false), (0x7C0006AC, .eieio), (0x4C00012C, .isync)] := by decide

theorem test_decode_cache_and_translation : ReadAs
    [(0x7C042A2C, .dcbt 4 5), (0x7C0429EC, .dcbtst 4 5), (0x7C001FEC, .dcbz 0 3), (0x7C04286C, .dcbst 4 5),
     (0x7C0428AC, .dcbf 4 5), (0x7C001BAC, .dcbi 0 3), (0x7C001FAC, .icbi 0 3), (0x7C6501A4, .mtsr 5 3),
     (0x7C6021E4, .mtsrin 3 4), (0x7C6504A6, .mfsr 3 5), (0x7C602526, .mfsrin 3 4), (0x7C001A64, .tlbie 3),
     (0x7C00046C, .tlbsync), (0x7CA3226C, .eciwx 5 3 4), (0x7CA3236C, .ecowx 5 3 4)] := by decide

/-- No instruction: R451, and `tlbia`, which this chip has not (R300). -/
theorem test_decode_illegal : decode 0 = .illegal ∧ decode 0x7C0002E4 = .illegal ∧ decode 0x04000000 = .illegal ∧
    decode 0x44000000 = .illegal := ⟨rfl, rfl, rfl, rfl⟩

/-- A non-zero reserved field (R445). -/
theorem test_decode_reserved :
    decode 0x4C000065 = .reservedField "rfi" .rfi ∧ decode 0x7C6000A7 = .reservedField "mfmsr" (.mfmsr 3) ∧
    decode 0x7CA30DD4 = .reservedField "addme" (.addme 5 3 true false) ∧ decode 0x46000002 = .reservedField "sc" .sc := by
  decide

/-- The table's numbering of an instruction's bits. -/
theorem test_decode_table_word : decodeTableWord 32 0x38640005 = some (.addi 3 4 5) ∧ decodeTableWord 32 0 = none := by decide

/-! ## Forms -/

/-- R524 to R527: L = 1. -/
theorem test_form_compare : wellFormed (.cmpi 0 true 3 1) = false ∧ wellFormed (.cmp 0 true 3 4) = false ∧
    wellFormed (.cmpli 0 true 3 1) = false ∧ wellFormed (.cmpl 0 true 3 4) = false := by decide

/-- R681: a load with update of r0, or of the destination. -/
theorem test_form_load_update : wellFormed (.lwzu 3 4 0) = false ∧ wellFormed (.lwzu 3 4 3) = false ∧
    wellFormed (.lbzux 3 0 4 false) = false ∧ wellFormed (.lhaux 4 4 5 false) = false ∧ wellFormed (.lwzu 3 4 5) = true := by decide

/-- R681: a store or a floating-point access with update of r0. -/
theorem test_form_store_update : wellFormed (.stwu 3 4 0) = false ∧ wellFormed (.stfdux 3 0 4 false) = false ∧
    wellFormed (.lfsu 3 4 0) = false ∧ wellFormed (.stwu 3 4 3) = true := by decide

/-- R730: the base of `lmw` among the registers loaded. -/
theorem test_form_lmw : wellFormed (.lmw 3 0 3) = false ∧ wellFormed (.lmw 3 0 31) = false ∧ wellFormed (.lmw 0 0 0) = false ∧
    wellFormed (.lmw 4 0 3) = true := by decide

/-- R732: the base of `lswi` among the registers loaded, counted round from r31. -/
theorem test_form_lswi : wellFormed (.lswi 31 1 12 false) = false ∧ wellFormed (.lswi 31 1 8 false) = true ∧
    wellFormed (.lswi 5 6 5 false) = false ∧ wellFormed (.lswi 0 0 4 false) = true := by decide

/-- R733: the destination of `lswx` holding the address. -/
theorem test_form_lswx : wellFormed (.lswx 3 3 4 false) = false ∧ wellFormed (.lswx 3 4 3 false) = false := by decide

/-- R798: `bcctr` with BO[2] = 0. -/
theorem test_form_bcctr : wellFormed (.bcctr 16 0 false) = false ∧ wellFormed (.bcctr 20 0 false) = true := by decide

/-- An invalid form is refused when it executes (U1, U11). -/
theorem test_form_refused : exec (.cmp 0 true 3 4) State.reset = .refused (.invalidForm "cmp") := by rfl

/-! ## Integer instructions -/

/-- R502. -/
theorem test_addi : seen (runWord 0x3864FFFF (regs [(4, 0x10)])) (gprGet · 3) = some 0xF := by decide

/-- R504. -/
theorem test_addo : seen (runWord 0x7CA32615 (regs [(3, 0x7FFFFFFF), (4, 1)])) (fun t => (gprGet t 5, t.xer, crField t 0)) =
    some (0x80000000, 0xC0000000, 0b1001) := by decide

/-- R505. -/
theorem test_subf : seen (runWord 0x7CA32050 (regs [(3, 5), (4, 3)])) (gprGet · 5) = some 0xFFFFFFFE := by decide

/-- R508. -/
theorem test_subfic : seen (runWord 0x20640000 (regs [(4, 0)])) (fun t => (gprGet t 3, xerCa t)) = some (0, true) := by decide

/-- R511. -/
theorem test_adde : seen (runWord 0x7CA32114 { regs [(3, 0xFFFFFFFF)] with xer := 0x20000000 })
    (fun t => (gprGet t 5, xerCa t)) = some (0, true) := by decide

/-- R512. -/
theorem test_subfe : seen (runWord 0x7CA32110 State.reset) (fun t => (gprGet t 5, xerCa t)) = some (0xFFFFFFFF, false) := by decide

/-- R517. -/
theorem test_nego : seen (exec (.neg 5 3 true true) (regs [(3, 0x80000000)])) (fun t => (gprGet t 5, t.xer, crField t 0)) =
    some (0x80000000, 0xC0000000, 0b1001) := by decide

/-- R519. -/
theorem test_mullwo : seen (runWord 0x7CA325D6 (regs [(3, 0x10000), (4, 0x10000)])) (fun t => (gprGet t 5, t.xer)) =
    some (0, 0xC0000000) := by decide

/-- R520, R521. -/
theorem test_mulhw : seen (runWord 0x7CA32096 (regs [(3, 0x80000000), (4, 2)])) (gprGet · 5) = some 0xFFFFFFFF ∧
    seen (runWord 0x7CA32016 (regs [(3, 0xFFFFFFFF), (4, 0xFFFFFFFF)])) (gprGet · 5) = some 0xFFFFFFFE := by decide

/-- R522, R523. -/
theorem test_divw : seen (runWord 0x7CA323D6 (regs [(3, 7), (4, 0xFFFFFFFE)])) (gprGet · 5) = some 0xFFFFFFFD ∧
    seen (runWord 0x7CA32396 (regs [(3, 0xFFFFFFFF), (4, 2)])) (gprGet · 5) = some 0x7FFFFFFF := by decide

/-- R524, R526. -/
theorem test_cmpi : seen (runWord 0x2C030001 (regs [(3, 0xFFFFFFFF)])) (crField · 0) = some 0b1000 ∧
    seen (runWord 0x28030001 (regs [(3, 0xFFFFFFFF)])) (crField · 0) = some 0b0100 := by decide

/-- R525: field 1. -/
theorem test_cmp : seen (runWord 0x7C832000 (regs [(3, 0x80000000), (4, 0x7FFFFFFF)])) (·.cr) = some 0x08000000 := by decide

/-- R550, R555. -/
theorem test_andi : seen (runWord 0x706400FF (regs [(3, 0x12345678)])) (fun t => (gprGet t 4, crField t 0)) =
    some (0x78, 0b0100) ∧ seen (runWord 0x6C648000 (regs [(3, 0xFFFF0000)])) (gprGet · 4) = some 0x7FFF0000 := by decide

/-- R556 to R563. -/
theorem test_logical : [0x7C652038, 0x7C652378, 0x7C652278, 0x7C6523B8, 0x7C6520F8, 0x7C652238, 0x7C652078, 0x7C652338].map
      (fun w => seen (runWord w (regs [(3, 0xFF00FF00), (4, 0x0FF00FF0)])) (gprGet · 5)) =
    [some 0x0F000F00, some 0xFFF0FFF0, some 0xF0F0F0F0, some 0xF0FFF0FF, some 0x000F000F, some 0x0F0F0F0F, some 0xF000F000,
     some 0xFF0FFF0F] := by decide

/-- R564, R566. -/
theorem test_extsb : seen (runWord 0x7C640774 (regs [(3, 0x80)])) (gprGet · 4) = some 0xFFFFFF80 ∧
    seen (runWord 0x7C640034 (regs [(3, 0x10000)])) (gprGet · 4) = some 15 := by decide

/-- R570 to R572. -/
theorem test_rotate : seen (runWord 0x5464463E (regs [(3, 0x12345678)])) (gprGet · 4) = some 0x12 ∧
    seen (runWord 0x5C65203E (regs [(3, 0x12345678), (4, 0x24)])) (gprGet · 5) = some 0x23456781 ∧
    seen (runWord 0x5064442E (regs [(3, 0xAB), (4, 0x12345678)])) (gprGet · 4) = some 0x1234AB78 := by decide

/-- R575: the amount is six bits. -/
theorem test_slw : seen (runWord 0x7C652030 (regs [(3, 0x80000001), (4, 32)])) (gprGet · 5) = some 0 ∧
    seen (runWord 0x7C652030 (regs [(3, 0x80000001), (4, 64)])) (gprGet · 5) = some 0x80000001 := by decide

/-- R577, R578. -/
theorem test_sraw : seen (runWord 0x7C640E70 (regs [(3, 0xFFFFFFF9)])) (fun t => (gprGet t 4, xerCa t)) = some (0xFFFFFFFC, true) ∧
    seen (runWord 0x7C652630 (regs [(3, 0x80000000), (4, 40)])) (fun t => (gprGet t 5, xerCa t)) = some (0xFFFFFFFF, true) := by decide

/-! ## Loads and stores -/

/-- R690, R698. -/
theorem test_lbz : seen (runWord 0x88640005 (image (regs [(4, 0x1000)]))) (gprGet · 3) = some 0x66 ∧
    seen (runWord 0xA8640002 (image (regs [(4, 0x1006)]))) (gprGet · 3) = some 0xFFFF99AA := by decide

/-- R704: not aligned, with update. -/
theorem test_lwzu : seen (runWord 0x84640004 (image (regs [(4, 0xFFF)]))) (fun t => (gprGet t 3, gprGet t 4)) =
    some (0x44556677, 0x1003) := by decide

/-- R726, R728. -/
theorem test_lwbrx : seen (runWord 0x7C642C2C (image (regs [(4, 0x1000)]))) (gprGet · 3) = some 0x44332211 ∧
    seen (runWord 0x7C642D2C (regs [(3, 0x11223344), (4, 0x2000)])) (bytesAt · 0x2000 4) = some [0x44, 0x33, 0x22, 0x11] := by decide

/-- R719: an address above the signed range. -/
theorem test_stwx : seen (runWord 0x7C64292E (regs [(3, 0xA1B2C3D4), (4, 0x2000), (5, 0x7FFFFFFF)])) (bytesAt · 0x80001FFF 4) =
    some [0xA1, 0xB2, 0xC3, 0xD4] := by decide

/-- R720. -/
theorem test_stwu : seen (runWord 0x9464FFF0 (regs [(3, 0xA1B2C3D4), (4, 0x2000)])) (fun t => (bytesAt t 0x1FF0 4, gprGet t 4)) =
    some ([0xA1, 0xB2, 0xC3, 0xD4], 0x1FF0) := by decide

/-- R730. -/
theorem test_lmw : seen (runWord 0xBBA10008 (image (regs [(1, 0xFF8)]))) (fun t => (gprGet t 29, gprGet t 30, gprGet t 31)) =
    some (0x11223344, 0x55667788, 0x99AABBCC) := by decide

/-- R731. -/
theorem test_stmw : seen (runWord 0xBFA10008 (regs [(1, 0x3000), (29, 0x29), (30, 0x30), (31, 0x31)])) (bytesAt · 0x3008 12) =
    some [0, 0, 0, 0x29, 0, 0, 0, 0x30, 0, 0, 0, 0x31] := by decide +kernel

/-- R732. -/
theorem test_lswi : seen (runWord 0x7CA434AA (image (regs [(4, 0x1001)]))) (fun t => (gprGet t 5, gprGet t 6)) =
    some (0x22334455, 0x66770000) := by decide

/-- R733: from r31 round to r0. -/
theorem test_lswx : seen (runWord 0x7FC42C2A (image { regs [(4, 0x1000), (5, 3)] with xer := 9 }))
    (fun t => (gprGet t 30, gprGet t 31, gprGet t 0)) = some (0x44556677, 0x8899AABB, 0xCC000000) := by decide

/-- R735. -/
theorem test_stswx : seen (runWord 0x7FE42D2A { regs [(4, 0x2000), (5, 1), (31, 0x01020304), (0, 0x05060708)] with xer := 5 })
    (bytesAt · 0x2001 6) = some [1, 2, 3, 4, 5, 0] := by decide +kernel

/-- R380: a string of six bytes is a word and two bytes of the next register. -/
theorem test_string_pieces : stringSizes 6 = [4, 2] ∧
    stringBytes (regs [(31, 0x01020304), (0, 0x05060708)]) 31 6 = [[1, 2, 3, 4], [5, 6]] := by decide

/-- R749, R751: a single and a denormalised single. -/
theorem test_lfsx : seen (runWord 0x7C23242E { image (regs [(3, 0x1000), (4, 4)]) with msr := 0x2040 }) (fprGet · 1) =
    some 0x42ACCEF100000000 ∧ toDouble 1 = 0x36A0000000000000 := by decide

/-- R753. -/
theorem test_lfd : seen (runWord 0xC8230000 { image (regs [(3, 0x1000)]) with msr := 0x2040 }) (fprGet · 1) =
    some 0x1122334455667788 := by decide

/-- R763, R768. -/
theorem test_stfsux : seen (runWord 0x7C23256E (gprSet (gprSet (fregs [(1, 0x7FF8000000000000)]) 3 0x2000) 4 8))
      (fun t => (bytesAt t 0x2008 4, gprGet t 3)) = some ([0x7F, 0xC0, 0, 0], 0x2008) ∧
    seen (runWord 0x7C2327AE (gprSet (fregs [(1, 0xFFF8000080000000)]) 3 0x2000)) (bytesAt · 0x2000 4) =
      some [0x80, 0, 0, 0] := by decide

/-- R944: DAR and DSISR of `lfs f1,2(r3)`. -/
theorem test_alignment : seen (runWord 0xC0230002 (gprSet (fregs []) 3 0x1000)) (fun t => (t.pc, t.sup.dar, t.sup.dsisr)) =
    some (0xFFF00600, 0x1002, 0x2023) := by decide

/-- R770, R771. -/
theorem test_reservation :
    seen (runWord 0x7CA01828 (image (regs [(3, 0x1004)]))) (fun t => (gprGet t 5, t.resv.held, t.resv.block)) =
      some (0x55667788, true, 0x80) ∧
    seen (runWord 0x7CA0192D { regs [(3, 0x1004), (5, 1)] with resv := ⟨true, 0x80⟩ })
      (fun t => (bytesAt t 0x1004 4, crField t 0, t.resv.held)) = some ([0, 0, 0, 1], 0b0010, false) ∧
    seen (runWord 0x7CA0192D (regs [(3, 0x1004), (5, 1)])) (fun t => (bytesAt t 0x1004 4, crField t 0)) =
      some ([0, 0, 0, 0], 0) := by decide

/-! ## Branches -/

/-- R795. -/
theorem test_b : seen (runWord 0x4BFFFFFD { State.reset with pc := 0x100 }) (fun t => (t.pc, t.lr)) = some (0xFC, 0x104) ∧
    seen (runWord 0x4BFFFFFE { State.reset with pc := 0x100 }) (·.pc) = some 0xFFFFFFFC := by decide

/-- R796. -/
theorem test_bc : seen (runWord 0x41820010 { State.reset with pc := 0x100, cr := 0x20000000 }) (·.pc) = some 0x110 ∧
    seen (runWord 0x4200FFF8 { State.reset with pc := 0x100, ctr := 1 }) (fun t => (t.pc, t.ctr)) = some (0x104, 0) ∧
    seen (runWord 0x4200FFF8 { State.reset with pc := 0x100 }) (fun t => (t.pc, t.ctr)) = some (0xF8, 0xFFFFFFFF) := by decide

/-- R797: the target is the old link register. -/
theorem test_bclrl : seen (runWord 0x4E800021 { State.reset with pc := 0x100, lr := 0x2003 }) (fun t => (t.pc, t.lr)) =
    some (0x2000, 0x104) := by decide

/-- R798. -/
theorem test_bcctrl : seen (runWord 0x4E800421 { State.reset with pc := 0x100, ctr := 0x3002 }) (fun t => (t.pc, t.lr, t.ctr)) =
    some (0x3000, 0x104, 0x3002) := by decide

/-- R800: `crand 0,1,2`. -/
theorem test_crand : seen (runWord 0x4C011202 { State.reset with cr := 0x60000000 }) (·.cr) = some 0xE0000000 := by decide

/-- R810: `tw 4,r3,r4`. -/
theorem test_tw : seen (runWord 0x7C832008 (regs [(3, 5), (4, 5)])) (fun t => (t.pc, t.sup.srr0, t.sup.srr1)) =
    some (0xFFF00700, 0xFFF00100, 0x00020040) ∧ seen (runWord 0x7C832008 (regs [(3, 5), (4, 6)])) (·.pc) = some 0xFFF00104 := by decide

/-- R812: MSR[IP] = 0. -/
theorem test_sc : seen (runWord 0x44000002 { State.reset with msr := 0, pc := 0x1230 }) (fun t => (t.pc, t.sup.srr0)) =
    some (0xC00, 0x1234) := by decide

/-! ## Processor control -/

/-- R830. -/
theorem test_mtmsr : seen (runWord 0x7C600124 (regs [(3, 0x0000B032)])) (·.msr) = some 0x0000B032 ∧
    seen (runWord 0x7C600124 (regs [(3, 0xFFFFFFFF)])) (fun t => (t.msr, t.ctx.stale)) =
      some (0x87C5FF7F, [(.order, 0x40), (.msr, 0x40)]) := by decide

/-- R832. -/
theorem test_rfi : seen (runWord 0x4C000064 { State.reset with
      msr := 0x1000, sup := { State.reset.sup with srr0 := 0x00010007, srr1 := 0x0000F032 } }) (fun t => (t.msr, t.pc)) =
    some (0x0000F032, 0x00010004) := by decide

/-- R836: the PowerPC has no MQ register; a user may not read the PVR. -/
theorem test_mfspr : seen (runWord 0x7C6002A6 State.reset) (fun t => (t.pc, t.sup.srr1)) = some (0xFFF00700, 0x00080040) ∧
    seen (runWord 0x7C7F42A6 user) (fun t => (t.pc, t.sup.srr1)) = some (0xFFF00700, 0x00044040) := by decide

/-- R13, R75, R285: the reserved bits of SDR1 and EAR hold nothing. -/
theorem test_mtspr : seen (exec (.mtspr 25 3 false) (regs [(3, 0xFFFFFFFF)])) (·.mmu.sdr1) = some 0xFFFF01FF ∧
    seen (exec (.mtspr 282 3 false) (regs [(3, 0xFFFFFFFF)])) (·.sup.ear) = some 0x8000000F := by decide

/-- R896, R953: a `tlbsync` that TLBISYNC holds is not traced. -/
theorem test_tlbsync : seen (step (State.withFetchWord { State.reset with
      msr := 0x440, pins := { State.reset.pins with tlbisync := true } } 32 0x7C00046C)) (fun t => (t.pc, t.traceDue)) =
    some (0xFFF00100, false) := by decide

/-- R840, R842. -/
theorem test_mtcrf : seen (runWord 0x7CA21120 { regs [(5, 0xABCDEF09)] with cr := 0x12345678 }) (·.cr) = some 0x12C45679 ∧
    seen (runWord 0x7D000400 { State.reset with xer := 0xC0000005 }) (fun t => (t.cr, t.xer)) =
      some (0x00C00000, 0x00000005) := by decide

/-- R953: `b 0x2000` with MSR[BE] set is followed by the trace exception, in a step of its own. -/
theorem test_trace : seen (step (State.withFetchWord { State.reset with msr := 0x240 } 32 0x48002002))
    (fun t => (t.pc, t.traceDue, seen (step t) fun u => (u.pc, u.sup.srr0, u.msr))) =
    some (0x2000, true, some (0xFFF00D00, 0x2000, 0x40)) := by decide

/-! ## Floating point -/

/-- R610: to nearest, and up. -/
theorem test_fadd : seen (runWord 0xFC61102A (fregs [(1, 0x3FF0000000000000), (2, 0x3CA0000000000000)]))
      (fun t => (fprGet t 3, bitAt t.fpscr 13, bitAt t.fpscr 14)) = some (0x3FF0000000000000, false, true) ∧
    seen (runWord 0xFC61102A { fregs [(1, 0x3FF0000000000000), (2, 0x3CA0000000000000)] with fpscr := 2 })
      (fun t => (fprGet t 3, bitAt t.fpscr 13, bitAt t.fpscr 14)) = some (0x3FF0000000000001, true, true) := by decide

/-- R612: infinities of the same sign. -/
theorem test_fsub : seen (runWord 0xFC611028 (fregs [(1, 0x7FF0000000000000), (2, 0x7FF0000000000000)]))
    (fun t => (fprGet t 3, t.fpscr &&& 0xFFF80000)) = some (0x7FF8000000000000, 0xA0800000) := by decide

/-- R614: a denormalised result. -/
theorem test_fmul : seen (runWord 0xFC6100B2 (fregs [(1, 0x2000000000000000), (2, 0x1FF0000000000000)]))
    (fun t => (fprGet t 3, field t.fpscr 15 5)) = some (0x0008000000000000, 0b10100) := by decide

/-- R615: overflow, to nearest and toward zero. -/
theorem test_fmuls : seen (runWord 0xEC6100B2 (fregs [(1, 0x47E0000000000000), (2, 0x4000000000000000)])) (fprGet · 3) =
      some 0x7FF0000000000000 ∧
    seen (runWord 0xEC6100B2 { fregs [(1, 0x47E0000000000000), (2, 0x4000000000000000)] with fpscr := 1 }) (fprGet · 3) =
      some 0x47EFFFFFE0000000 := by decide +kernel

/-- R616, R617. -/
theorem test_fdiv : seen (runWord 0xFC611024 (fregs [(1, 0x3FF0000000000000), (2, 0x4008000000000000)])) (fprGet · 3) =
      some 0x3FD5555555555555 ∧
    seen (runWord 0xEC611024 (fregs [(1, 0x3FF0000000000000), (2, 0x4008000000000000)])) (fprGet · 3) =
      some 0x3FD5555560000000 := by decide

/-- R623: one rounding. -/
theorem test_fmsub : seen (runWord 0xFC8118B8 (fregs [(1, 0x3FF0000002000000), (2, 0x3FF0000002000000), (3, 0x3FF0000004000000)]))
    (fprGet · 4) = some 0x3C90000000000000 := by decide

/-- R627: a zero is negated too. -/
theorem test_fnmsub : seen (runWord 0xFC8118BC (fregs [(1, 0x3FF0000000000000), (2, 0x3FF0000000000000), (3, 0x3FF0000000000000)]))
    (fprGet · 4) = some 0x8000000000000000 := by decide

/-- R630. -/
theorem test_frsp : seen (runWord 0xFC400818 (fregs [(1, 0x3FF0000030000000)])) (fprGet · 2) = some 0x3FF0000040000000 := by decide

/-- R631: out of range, with VE = 1: frD is unchanged. -/
theorem test_fctiw : seen (runWord 0xFC40081C { fregs [(1, 0x41DFFFFFFFE00000), (2, 5)] with fpscr := 0x80 }) (fprGet · 2) =
    some 5 := by decide +kernel

/-- R618, R619: zero, and a negative operand. -/
theorem test_fres : seen (runWord 0xEC601030 (fregs [])) (fprGet · 3) = some 0x7FF0000000000000 ∧
    seen (runWord 0xFC601034 (fregs [(2, 0xBFF0000000000000)])) (fprGet · 3) = some 0x7FF8000000000000 := by decide +kernel

/-- R620: -0 counts as 0. -/
theorem test_fsel : seen (runWord 0xFC8118AE (fregs [(1, 0x8000000000000000), (2, 0x3FF0000000000000), (3, 0x4000000000000000)]))
    (fprGet · 4) = some 0x3FF0000000000000 := by decide

/-- R635, R636. -/
theorem test_fcmp : seen (runWord 0xFC011000 (fregs [(1, 0x3FF0000000000000), (2, 0x4000000000000000)]))
      (fun t => (crField t 0, field t.fpscr 16 4)) = some (0b1000, 0b1000) ∧
    seen (runWord 0xFC811040 (fregs [(1, 0x3FF0000000000000), (2, 0x7FF8000000000000)]))
      (fun t => (crField t 1, bitAt t.fpscr 12, bitAt t.fpscr 0)) = some (0b0001, true, true) := by decide

/-- R641, R643. -/
theorem test_mcrfs : seen (runWord 0xFC000080 { fregs [] with fpscr := 0x92000000 }) (fun t => (crField t 0, t.fpscr)) =
      some (0b1001, 0x02000000) ∧
    seen (runWord 0xFDFE0D8E (fregs [(1, 0xF9)])) (·.fpscr) = some 0xF9 := by decide

/-! ## Caches, translation, external control -/

/-- R882: with the data cache off, and on. -/
theorem test_dcbz : seen (runWord 0x7C001FEC (regs [(3, 0x2013)])) (fun t => (t.pc, t.sup.dar)) = some (0xFFF00600, 0x2013) ∧
    seen (exec (.dcbz 0 3) { cached with gpr := (regs [(3, 0x1013)]).gpr }) (fun t => (dFind t 0x1000, t.pc)) =
      some (some 0, 0xFFF00104) := by decide

/-- R287, R294: a load sets R, a store R and C; R295: one that the TLB has with C = 0 sets C. -/
theorem test_search : answered (translate .load 0x1234 paged) = some 0x5234 ∧
    marked (translate .load 0x1234 paged) = some [0x51, 0x02] ∧ marked (translate .store 0x1234 paged) = some [0x51, 0x82] ∧
    marked (translate .store 0x1234 (loaded false)) = some [0x51, 0x82] ∧
    marked (translate .store 0x1234 (loaded true)) = some [0x50, 0x02] := by decide +kernel

/-- R893: the number comes from the top four bits. -/
theorem test_mfsrin : seen (runWord 0x7C602526 (srSet (regs [(4, 0xC0000000)]) 12 0x123)) (gprGet · 3) = some 0x123 := by decide

/-- R905: EAR[E] = 0. -/
theorem test_eciwx : seen (runWord 0x7CA3226C { regs [(3, 0x4000), (4, 8)] with sup := { State.reset.sup with ear := 5 } })
    (fun t => (t.pc, t.sup.dsisr, t.sup.dar)) = some (0xFFF00300, 0x00100000, 0x4008) := by decide

/-- R947: `mfmsr` in user mode. -/
theorem test_privileged : seen (runWord 0x7C6000A6 { user with pc := 0x2000 }) (fun t => (t.sup.srr0, t.sup.srr1)) =
    some (0x2000, 0x00044040) := by decide

/-- A step fetches what `withFetchWord` placed. -/
theorem test_step : seen (step (State.reset.withFetchWord 32 0x38640005)) (fun t => (gprGet t 3, t.pc)) = some (5, 0xFFF00104) := by decide

/-- R1026: the decrementer passes 0. -/
theorem test_decrementer : (tick { State.reset with tim := ⟨0, 0xFFFFFFFF, 0, false⟩ }).tim = ⟨1, 0, 0xFFFFFFFF, true⟩ := by decide

/-! ## Witnesses: states and operands that meet the hypotheses of each statement -/

theorem witness_DivideResults :
    (∃ (s : State) (rA rB : Reg), gprGet s rB ≠ 0 ∧ ¬ ((gprGet s rA).toInt = -2 ^ 31 ∧ (gprGet s rB).toInt = -1)) ∧
    (∃ (s : State) (rA rB : Reg), (gprGet s rA).toInt = -2 ^ 31 ∧ (gprGet s rB).toInt = 1 ∧ gprGet s rB ≠ 0) ∧
    (∃ (s : State) (rB : Reg), gprGet s rB = 0) ∧
    (∃ (s : State) (rA rB : Reg), (gprGet s rA).toInt = -2 ^ 31 ∧ (gprGet s rB).toInt = -1) :=
  ⟨⟨regs [(3, 7), (4, 2)], 3, 4, by decide⟩, ⟨regs [(3, 0x80000000), (4, 1)], 3, 4, by decide⟩, ⟨State.reset, 4, by decide⟩,
   ⟨regs [(3, 0x80000000), (4, 0xFFFFFFFF)], 3, 4, by decide⟩⟩

theorem witness_IntegerLoadResults : ∃ s : State, PlainData s := ⟨_, reset_plain⟩

theorem witness_IntegerLoadUpdateResults :
    PlainData State.reset ∧ (∃ rD rA : Reg, rA = 0 ∨ rA = rD) ∧ (∃ rD rA : Reg, ¬ (rA = 0 ∨ rA = rD)) :=
  ⟨reset_plain, ⟨3, 3, by decide⟩, ⟨3, 4, by decide⟩⟩

theorem witness_IntegerStoreResults : ∃ s : State, PlainData s ∧ MemoryCanonical s := ⟨_, reset_plain, reset_memory⟩

theorem witness_IntegerStoreUpdateResults :
    (PlainData State.reset ∧ MemoryCanonical State.reset) ∧ (∃ rA : Reg, rA = 0) ∧ (∃ rA : Reg, rA ≠ 0) :=
  ⟨⟨reset_plain, reset_memory⟩, ⟨0, rfl⟩, ⟨1, by decide⟩⟩

/-- `lmw` with the base just below, and just among, the registers loaded; the word next to the top of the space. -/
theorem witness_MultipleResults :
    (PlainData State.reset ∧ MemoryCanonical State.reset) ∧
    (∃ rD rA : Reg, if rA = 0 then rD = 0 else rD ≤ rA) ∧
    (∃ rD rA : Reg, rA ≠ 0 ∧ ¬ (if rA = 0 then rD = 0 else rD ≤ rA) ∧ (eaD State.reset rA 0xFFFC).toNat % 4 = 0) :=
  ⟨⟨reset_plain, reset_memory⟩, ⟨3, 3, by decide⟩, ⟨4, 3, by decide⟩⟩

theorem witness_StringLoadResults :
    (PlainData State.reset ∧ StringFits 0xFFD 3 ∧ StringFits 0xFFC 8) ∧
    (∃ rD rA : Reg, rA ≠ 0 ∧ (rA - rD).toNat < (12 + 3) / 4) ∧ (∃ rD rA : Reg, rA ≠ 0 ∧ ¬ (rA - rD).toNat < (8 + 3) / 4) ∧
    (∃ (s : State) (rD rA rB : Reg), field s.xer 25 7 = 9 ∧
      ¬ (rD = rA ∨ rD = rB ∨ (rA - rD).toNat < (9 + 3) / 4 ∨ (rB - rD).toNat < (9 + 3) / 4)) ∧
    (∃ (s : State) (rD rA rB : Reg), msrLe s = false ∧ field s.xer 25 7 = 0 ∧ rD ≠ rA ∧ rD ≠ rB) :=
  ⟨⟨reset_plain, fun _ => by decide, fun _ => by decide⟩, ⟨31, 1, by decide⟩, ⟨31, 1, by decide⟩,
   ⟨{ State.reset with xer := 9 }, 30, 4, 5, by decide⟩, ⟨State.reset, 3, 4, 5, by decide⟩⟩

theorem witness_StringStoreResults : ∃ s : State, PlainData s ∧ MemoryCanonical s ∧ StringFits (base s 0) 32 :=
  ⟨_, reset_plain, reset_memory, fun _ => by decide⟩

theorem fpu_plain : PlainData { State.reset with msr := 0x2040 } := ⟨⟨rfl, rfl⟩, rfl, rfl, rfl, rfl, rfl, rfl, rfl, rfl, rfl⟩

theorem witness_FloatLoadResults :
    ∃ (s : State) (rA : Reg) (d : BitVec 16),
      PlainData s ∧ msrFp s = true ∧ rA ≠ 0 ∧ (eaD s rA d).toNat % 4 = 0 ∧ (eaDU s rA d).toNat % 4 = 0 :=
  ⟨_, 1, 0xFFFC, fpu_plain, by decide⟩

theorem witness_FloatStoreResults :
    ∃ (s : State) (frS rA : Reg) (d : BitVec 16), PlainData s ∧ MemoryCanonical s ∧ msrFp s = true ∧ rA ≠ 0 ∧
      (eaD s rA d).toNat % 4 = 0 ∧ fprReady s 1 = false ∧ fprReady (fprSet s frS 0) frS = true :=
  ⟨_, 1, 1, 0xFFFC, fpu_plain, rfl, by decide⟩

theorem witness_SingleFormats : field (0x00000001 : Word) 1 8 ≠ 255 ∧ field (0x7F7FFFFF : Word) 1 8 ≠ 255 := by decide

theorem witness_ReservationResults : ∃ (s : State) (rA rB : Reg), PlainData s ∧ MemoryCanonical s ∧
    (eaX s rA rB).toNat % 4 = 0 ∧ s.resv.held = false ∧ PlainData { s with resv := ⟨true, 0⟩ } :=
  ⟨_, 0, 1, reset_plain, reset_memory, by decide, by decide,
   ⟨⟨rfl, rfl⟩, rfl, rfl, rfl, rfl, rfl, rfl, rfl, rfl, rfl⟩⟩

/-- Taken and not taken: the count reaching 0, and a condition that does not hold; both forms of `bcctr`. -/
theorem witness_BranchResults :
    (∃ (s : State) (bo bi : Reg), PcAligned s ∧
      (bitAt bo 2 = true ∨ (if bitAt bo 3 then s.ctr - 1 = 0 else s.ctr - 1 ≠ 0)) ∧
      (bitAt bo 0 = true ∨ bitAt s.cr bi.toNat = bitAt bo 1)) ∧
    (∃ (s : State) (bo : Reg), ¬ (bitAt bo 2 = true ∨ (if bitAt bo 3 then s.ctr - 1 = 0 else s.ctr - 1 ≠ 0))) ∧
    (∃ bo : Reg, bitAt bo 2 = true) ∧ (∃ bo : Reg, bitAt bo 2 ≠ true) :=
  ⟨⟨State.reset, 20, 0, rfl, by decide⟩, ⟨{ State.reset with ctr := 1 }, 16, by decide⟩, ⟨12, by decide⟩, ⟨16, by decide⟩⟩

theorem witness_TrapAndSystemCallResults :
    (∃ (cond : Reg) (a b : Word), bitAt cond 2 = true ∧ a = b) ∧
    (∃ (cond : Reg) (a b : Word), bitAt cond 0 = false ∧ bitAt cond 1 = false ∧ bitAt cond 3 = false ∧ bitAt cond 4 = false ∧
      a ≠ b) := ⟨⟨4, 5, 5, by decide⟩, ⟨4, 5, 6, by decide⟩⟩

theorem witness_MsrAndSegmentMoves :
    msrPr State.reset = false ∧
    (∃ v f : Word, bitAt f 1 = true ∧ (bitAt v 20 = true ∨ bitAt v 23 = true)) := ⟨by decide, ⟨0x800, 0x40000000, by decide⟩⟩

theorem witness_ReturnFromInterruptResult :
    msrPr State.reset = false ∧ msrPr { State.reset with fpscr := 0x40000000 } = false := by decide

theorem witness_SpecialRegisterReads : ∃ s : State, msrPr s = false := ⟨State.reset, by decide⟩

theorem witness_SpecialRegisterWrites : ∃ s : State, msrPr s = false := ⟨State.reset, by decide⟩

theorem witness_ControlRegisterWrites :
    (∃ s : State, msrPr s = false ∧ bitAt s.perf.mmcr0 5 = false) ∧
    (∃ (s : State) (v : Word), ¬ (bitAt v 10 = true ∧ (bitAt v 0 = true ∨ bitAt (hid0Now s) 11 = true)) ∧ bitAt v 10 = true) ∧
    (∃ v : Word, bitAt v 10 = true ∧ bitAt v 0 = true) ∧ (∃ v : Word, bitAt v 5 = false) :=
  ⟨⟨State.reset, by decide⟩, ⟨State.reset, 0x00200000, by decide⟩, ⟨0x80200000, by decide⟩, ⟨0, by decide⟩⟩

/-- After `mtsr` a window is open; the segment register is the control in it. -/
theorem witness_SynchronisationResults :
    ∃ s : State, s.ctx.stale ≠ [] ∧ (Control.sr 3 ≠ .iabr ∧ Control.sr 3 ≠ .msr ∧ Control.sr 3 ≠ .hid0) ∧
      (Control.sr 3, 0) ∈ s.ctx.stale :=
  ⟨srMove 3 5 State.reset, by decide, by decide, by decide⟩

/-- The numbers next to the ranges of registers: 527, 544 and 1023 name none; 268 is read only. -/
theorem witness_SpecialRegisterTraps :
    (∀ n ∈ [527, 544, 559, 576, 1023, 0], n ∉ [18, 19, 22, 25, 26, 27, 272, 273, 274, 275, 282, 287, 952, 953, 954, 955, 956,
        957, 958, 959, 1008, 1009, 1010, 1013, 1016, 1017, 1019, 1020, 1021, 1022] ∧ ¬ (528 ≤ n ∧ n ≤ 543) ∧
      ¬ (560 ≤ n ∧ n ≤ 575) ∧ n ∉ [1, 8, 9, 268, 269, 936, 937, 938, 939, 940, 941, 942, 943]) ∧
    268 ∉ [1, 8, 9, 284, 285, 943] ∧ msrPr user = true := by decide

theorem witness_PrivilegedInstructionResults : msrPr user = true ∧ 528 ≤ (528 : BitVec 10).toNat ∧ (543 : BitVec 10).toNat ≤ 543 ∧
    560 ≤ (560 : BitVec 10).toNat ∧ (575 : BitVec 10).toNat ≤ 575 := by decide

/-- With and without FE0, FE1. -/
theorem witness_FloatArithmeticCompletes : ∃ (s : State) (r : Reg), FpRuns s ∧ isSingle (fprGet s r) ∧
    (msrFp { s with msr := 0x2840 } = true ∧ msrFe { s with msr := 0x2840 } = true) :=
  ⟨fregs [(1, 0x3FF0000000000000)], 1, ⟨by decide, by decide⟩, ⟨0x3F800000, by decide⟩, by decide⟩

theorem witness_FloatRounding :
    (∃ (s : State) (a b : Reg), FpRuns s ∧ isFinite (fprGet s a) ∧ isFinite (fprGet s b) ∧ isSingle (fprGet s a) ∧
      isSingle (fprGet s b) ∧ scaledValue (fprGet s b) ≠ 0) ∧
    (doubleFormat.tiny (2 ^ 52 - 1 : Nat) 1 = true ∧ doubleFormat.tiny (2 ^ 52 : Nat) 1 = false) ∧
    (doubleFormat.over 0 (2 ^ 2098 - 2 ^ 2044 : Nat) 1 = true ∧ doubleFormat.over 0 (2 ^ 2098 - 2 ^ 2044 - 1 : Nat) 1 = false) ∧
    (doubleFormat.over 2 (2 ^ 2098 - 2 ^ 2045 + 1 : Nat) 1 = true ∧ doubleFormat.over 2 (2 ^ 2098 - 2 ^ 2045 : Nat) 1 = false) ∧
    (doubleFormat.over 1 (2 ^ 2098 : Nat) 1 = true ∧ doubleFormat.over 3 (2 ^ 2098 - 1 : Nat) 1 = false) ∧
    (singleFormat.underflows 0x20 (2 ^ 934 : Nat) 1 = true ∧ singleFormat.overflows 0x40 (2 ^ 1202 : Nat) 1 = true ∧
      singleFormat.lost 0 (2 ^ 1202 : Nat) 1 = true) :=
  ⟨⟨fregs [(1, 0x3FF0000000000000), (2, 0x4008000000000000)], 1, 2, ⟨by decide, by decide⟩,
    (by decide : field (0x3FF0000000000000 : DWord) 1 11 ≠ 2047), (by decide : field (0x4008000000000000 : DWord) 1 11 ≠ 2047),
    ⟨0x3F800000, by decide⟩, ⟨0x40400000, by decide⟩, by decide +kernel⟩,
   by decide +kernel, by decide +kernel, by decide +kernel, by decide +kernel, by decide +kernel⟩

/-- `frsp` of 2^-140, or of 2^128, with an FPSCR: frD, and with FX, OX, UX, XX, FI and FPRF as the mask takes them. -/
def rounded (f : Word) (b : DWord) (mask : Word) : Option (DWord × Word) :=
  seen (exec (.frsp 2 1 false) { fregs [(1, b)] with fpscr := f }) fun t => (fprGet t 2, t.fpscr &&& mask)

/-- R604, R606, R608, R630: 2^-140 as it is, with NI, with UE, with both. -/
theorem test_rounded_tiny :
    rounded 0 0x3730000000000000 0x9A03F000 = some (0x3730000000000000, 0x00014000) ∧
    rounded 4 0x3730000000000000 0x9A03F000 = some (0, 0x8A022000) ∧
    rounded 0x20 0x3730000000000000 0x9A03F000 = some (0x4330000000000000, 0x88004000) ∧
    rounded 0x24 0x3730000000000000 0x9A03F000 = some (0x4330000000000000, 0x88004000) := by decide +kernel

/-- R604, R630: 2^128 with OE; without it, where FR is any value; and without it toward zero. -/
theorem test_rounded_over : rounded 0x40 0x47F0000000000000 0x9A03F000 = some (0x3BF0000000000000, 0x90004000) ∧
    seen (exec (.frsp 2 1 false) (fregs [(1, 0x47F0000000000000)])) (fprGet · 2) = some 0x7FF0000000000000 ∧
    seen (exec (.frsp 2 1 false) { fregs [(1, 0x47F0000000000000)] with fpscr := 1 }) (fprGet · 2) =
      some 0x47EFFFFFE0000000 := by decide +kernel

/-- R606, D51: with UE = 1 NI leaves a denormalised operand as it is. -/
theorem test_flushOperand : flushOperand 4 0x8000000000000001 = 0x8000000000000000 ∧
    flushOperand 0x24 0x8000000000000001 = 0x8000000000000001 := by decide

/-- A quiet NaN behind a number, a signalling one, and the operands of each invalid operation. -/
theorem witness_FloatSpecialResults :
    FpRuns (fregs []) ∧ bitAt (fregs []).fpscr 29 = false ∧
    (isNan 0x7FF8000000000001 ∧ ¬ isNan 0x3FF0000000000000 ∧ isSnan 0x7FF0000000000001) ∧
    (∀ r ∈ [(1 : Reg), 2], field (fprGet (fregs [(1, 0x7FF0000000000000), (2, 0xFFF0000000000000)]) r) 1 63 =
      0x7FF0000000000000) ∧
    field (fprGet (fregs []) 1) 1 63 = 0 ∧ isFinite 0x3FF0000000000000 ∧
    (isSingle 0x7FF8000000000000 ∧ isSingle 0x7FF0000000000000 ∧ isSingle 0x3FF0000000000000) ∧
    (¬ isNan 0x3FF0000000000000 ∧ field (0x3FF0000000000000 : DWord) 1 63 ≠ 0) :=
  ⟨⟨by decide, by decide⟩, by decide, ⟨⟨by decide, by decide⟩, fun h => absurd h.1 (by decide), ⟨by decide, by decide⟩, by decide⟩,
   by decide, by decide, (by decide : field (0x3FF0000000000000 : DWord) 1 11 ≠ 2047),
   ⟨⟨0x7FC00000, by decide⟩, ⟨0x7F800000, by decide⟩, 0x3F800000, by decide⟩, fun h => absurd h.1 (by decide), by decide⟩

/-- The least operand of `fres` of the statement, 2^-127, and 1. -/
theorem witness_EstimateBounds :
    FpRuns (fregs []) ∧ isFinite 0x3800000000000000 ∧ isSingle 0x3800000000000000 ∧
    (2 ^ 1074 : Int) ≤ (2 ^ 127 : Int) * (scaledValue 0x3800000000000000).natAbs ∧ 0 < scaledValue 0x3FF0000000000000 :=
  ⟨⟨by decide, by decide⟩, (by decide : field (0x3800000000000000 : DWord) 1 11 ≠ 2047), ⟨0x00400000, by decide⟩, by
     have h : (scaledValue 0x3800000000000000).natAbs = 2 ^ 947 := by decide +kernel
     rw [h, Nat.cast_pow, Nat.cast_ofNat]
     exact le_of_eq (pow_add (2 : Int) 127 947), by decide +kernel⟩

theorem witness_ConvertToIntegerResults :
    ∃ s : State, FpRuns s ∧ bitAt s.fpscr 29 = false ∧ isFinite (fprGet s 1) ∧ field s.fpscr 30 2 = 3 :=
  ⟨{ fregs [] with fpscr := 3 }, ⟨by decide, by decide⟩, by decide, (by decide : field (0 : DWord) 1 11 ≠ 2047), by decide⟩

theorem witness_FloatMoveResults :
    msrFp (fregs []) = true ∧ (¬ isNan 0x8000000000000000 ∧ 0 ≤ scaledValue 0x8000000000000000) ∧ isNan 0x7FF8000000000000 ∧
    scaledValue 0x8000000000000001 < 0 :=
  ⟨by decide, ⟨fun h => absurd h.1 (by decide), by decide⟩, ⟨by decide, by decide⟩, by decide⟩

theorem witness_FloatCompareResults : ∃ s : State, FpRuns s ∧ ¬ isNan (fprGet s 1) ∧ isSnan (fprGet s 2) :=
  ⟨fregs [(2, 0x7FF0000000000001)], ⟨by decide, by decide⟩, fun h => absurd h.1 (by decide), ⟨⟨by decide, by decide⟩, by decide⟩⟩

theorem witness_FpscrInstructionResults : ∃ s : State, FpRuns s := ⟨fregs [], by decide, by decide⟩

theorem witness_CacheInstructionResults :
    (∃ (s : State) (ea : Word) (w : Fin 8) (b : DBlock), Settled s ∧ Alone s ∧ msrDr s = false ∧ l2On s = false ∧ s.tea = [] ∧
      s.devices = [] ∧ MemoryCanonical s ∧ dFind s ea = some w ∧ (dset s (setOf ea)).ways[w] = some b ∧ b.modified = true ∧
      msrPr s = false ∧ dFind s 0x2000 = none) ∧
    (Settled (mapped 2) ∧ tlbsReady (mapped 2) = true ∧ (batHits (mapped 2) .load 0x4000).length = 1 ∧
      (batHits (mapped 2) .load 0x10000000).length = 0) ∧
    (Settled directStore ∧ msrDr directStore = true ∧ tlbsReady directStore = true ∧ batHits directStore .load 0 = [] ∧
      bitAt (srGet directStore (field (0 : Word) 0 4)) 0 = true ∧ msrPr directStore = false) ∧
    (Settled paged ∧ faulted (translate .load 0x2234 paged) = some .pageFault ∧
      faulted (translate .store 0x2234 paged) = some .pageFault ∧
      faulted (translate .load 0x4008 (mapped 0)) = some .protection ∧
      faulted (translate .store 0x4008 (mapped 1)) = some .protection ∧
      answered (translate .load 0x4008 (mapped 1)) = some 0x4008 ∧ answered (translate .store 0x4008 (mapped 2)) = some 0x4008) :=
  ⟨⟨cached, 0x1000, 0, ⟨1, true, Vector.replicate 32 7⟩, ⟨rfl, rfl⟩, rfl, rfl, rfl, rfl, rfl, rfl, by decide, by decide, rfl,
    by decide, by decide⟩, ⟨⟨rfl, rfl⟩, by decide, by decide, by decide⟩, ⟨⟨rfl, rfl⟩, by decide⟩, ⟨rfl, rfl⟩, by decide +kernel⟩

/-- A state with the data cache enabled. -/
def withDcache (s : State) : State := { s with hid := { s.hid with hid0 := 0x00004000 } }

/-- The translation answers an address in a block or page with these WIMG bits. -/
def attributes (x : Xlat) : Option (BitVec 4) := match x with | .ok _ w _ => some w | _ => none

/-- A hit and a miss; the cache off; a direct-store segment; BAT pairs that allow the store, forbid it and are caching-inhibited;
a page fault. -/
theorem witness_BlockZeroResults :
    (Settled cached ∧ Alone cached ∧ msrDr cached = false ∧ field cached.sup.dabr 30 2 = 0 ∧ hidDce cached = true ∧
      (dFind cached 0x1000).isSome = true ∧ dFind cached 0x2000 = none) ∧
    (Settled State.reset ∧ Alone State.reset ∧ hidDce State.reset = false ∧ msrDr State.reset = false) ∧
    (msrDr directStore = true ∧ tlbsReady directStore = true ∧ batHits directStore .load 0 = [] ∧
      bitAt (srGet directStore (field (0 : Word) 0 4)) 0 = true) ∧
    (hidDce (withDcache (mapped 2)) = true ∧ msrDr (mapped 2) = true ∧ tlbsReady (mapped 2) = true ∧
      batHits (withDcache (mapped 2)) .load 0x4008 = [⟨0x00001FFF, 2⟩] ∧
      batHits (withDcache (mapped 1)) .load 0x4008 = [⟨0x00001FFF, 1⟩] ∧
      batHits (withDcache (mapped 0x22)) .load 0x4008 = [⟨0x00001FFF, 0x22⟩]) ∧
    (faulted (translate .load 0x2234 (withDcache paged)) = some .pageFault ∧
      faulted (translate .load 0x4008 (mapped 0)) = some .protection ∧
      attributes (translate .load 0x4008 (mapped 1)) = some 0 ∧
      faulted (translateWith false .store 0x4008 (mapped 1)) = some .protection ∧
      attributes (translateWith false .store 0x4008 (mapped 2)) = some 0 ∧ hidDce (mapped 2) = false ∧
      attributes (translate .load 0x4008 (withDcache (mapped 0x22))) = some 4) :=
  ⟨⟨⟨rfl, rfl⟩, rfl, by decide, by decide, by decide, by decide, by decide⟩, ⟨reset_settled, rfl, by decide, by decide⟩,
   by decide, by decide, by decide +kernel⟩

/-- R882, R887, 95_test_vectors.md: `dcbz` through BAT pairs that allow the store, forbid it, allow it caching-inhibited, and
forbid it caching-inhibited; with the cache off, through one that forbids it and into a direct-store segment. -/
theorem test_dcbz_translated :
    ([(2 : Word), 1, 0x22, 0x21].map fun pp => (seen (exec (.dcbz 0 4) (gprSet (withDcache (mapped pp)) 4 0x4008))
      fun t => (t.pc, t.sup.dar))) =
        [some (0xFFF00104, 0), some (0xFFF00300, 0x4008), some (0xFFF00600, 0x4008), some (0xFFF00300, 0x4008)] ∧
    seen (exec (.dcbz 0 4) (gprSet (mapped 1) 4 0x4008)) (fun t => (t.pc, t.sup.dsisr)) = some (0xFFF00300, 0x0A000000) ∧
    seen (exec (.dcbz 0 4) directStore) (·.pc) = some 0xFFF00104 := by decide +kernel

theorem witness_StoreThenLoad : ∃ s : State, Settled s ∧ Alone s ∧ msrDr s = false ∧ msrLe s = false ∧ l2On s = false ∧
    l2Ts s = false ∧ s.tea = [] ∧ s.devices = [] ∧ field s.sup.dabr 30 2 = 0 ∧ MemoryCanonical s ∧
    (dFind s 0x1000).isSome = true ∧ msrFp s = true ∧ fprReady s 1 = true ∧ (eaD s 0 0xFFFC).toNat % 4 = 0 :=
  ⟨{ fprSet cached 1 0 with msr := 0x2040 }, ⟨rfl, rfl⟩, rfl, rfl, rfl, rfl, rfl, rfl, rfl, by decide, rfl, by decide,
   by decide, by decide, by decide⟩

theorem witness_TlbInstructionResults : msrPr State.reset = false ∧ State.reset.pins.tlbisync = false ∧ msrPr user = true := by
  decide

theorem witness_ExternalControlResults :
    (Settled State.reset ∧ Alone State.reset ∧ bitAt State.reset.sup.ear 0 = false ∧ msrDr State.reset = false ∧
      State.reset.tea = []) ∧
    (∃ (s : State) (ea : Word) (b : BatPair), Settled s ∧ Alone s ∧ bitAt s.sup.ear 0 = true ∧ ea.toNat % 4 = 0 ∧
      msrDr s = true ∧ tlbsReady s = true ∧ msrLe s = false ∧ batHits s .load ea = [b] ∧ field b.lower 30 2 = 2) :=
  ⟨⟨⟨rfl, rfl⟩, rfl, by decide⟩,
   ⟨{ mapped 2 with sup := { State.reset.sup with ear := 0x80000005 } }, 0x4008, ⟨0x00001FFF, 2⟩, ⟨rfl, rfl⟩, rfl, by decide⟩⟩

/-- A page in the TLB with C = 0 and with C = 1, one in the table only, one in neither; a no-execute segment. -/
theorem witness_pages :
    (Settled paged ∧ PlainSearch paged ∧ MemoryCanonical paged ∧ realMode paged .load = false ∧ tlbsReady paged = true ∧
      batHits paged .load 0x1234 = []) ∧
    (TlbHolds (loaded false) .store 0 0x1234 0 ⟨0, 0, 5, false, 0, 2⟩ ∧ TlbHolds (loaded true) .store 0 0x1234 0 ⟨0, 0, 5, true, 0, 2⟩) ∧
    (pageDenies .store false 2 = false ∧ pageDenies .store true 1 = true ∧ pageDenies .load true 0 = true) ∧
    (pteFound paged 0 0x1234 = some 0x40 ∧ pteFound paged 0 0x2234 = none) ∧
    (bitAt (0x10000000 : Word) 0 = false ∧ bitAt (0x10000000 : Word) 3 = true) :=
  ⟨⟨⟨rfl, rfl⟩, ⟨⟨rfl, rfl⟩, rfl, rfl, rfl, rfl, rfl, rfl⟩, rfl, by decide, by decide, by decide⟩,
   ⟨⟨by decide, rfl, by decide⟩, ⟨by decide, rfl, by decide⟩⟩, by decide, by decide +kernel, by decide⟩

/-- Protection 1 allows a load and no store; two pairs that match. -/
theorem witness_BlockTranslationResults :
    (realMode State.reset .fetch = true ∧ tlbsReady State.reset = false ∧ tlbsReady (mapped 1) = true) ∧
    (realMode (mapped 1) .store = false ∧ batHits (mapped 1) .store 0x4008 = [⟨0x00001FFF, 1⟩] ∧
      batHits (mapped 1) .load 0x0FFFFFFF = [⟨0x00001FFF, 1⟩] ∧ batHits (mapped 1) .load 0x10000000 = []) ∧
    2 ≤ (batHits { mapped 1 with mmu := { (mapped 1).mmu with dbat := Vector.replicate 8 ⟨0x00001FFF, 1⟩ } } .load 0).length := by
  decide

theorem witness_StorageExceptions :
    (msrFp (fregs []) = true ∧ (eaD (fregs []) 1 1).toNat % 4 ≠ 0 ∧ (eaX State.reset 1 2).toNat % 4 = 0) ∧
    wellFormed (.lmw 4 1 3) = true ∧ (∃ s : State, msrLe s = true) ∧ ¬ StringFits 0xFFD 4 ∧
    lswxInvalid 3 4 5 4 = false ∧
    (Settled directStore ∧ msrDr directStore = true ∧ tlbsReady directStore = true ∧ batHits directStore .load 0 = [] ∧ bitAt (srGet directStore (field (0 : Word) 0 4)) 0 = true) :=
  ⟨by decide, by decide, ⟨{ State.reset with msr := 1 }, by decide⟩, fun h => absurd (h (by decide)) (by decide), by decide,
   ⟨rfl, rfl⟩, by decide⟩

/-- A page fault and a protection violation of a load and of a store, a breakpoint on a translated address, and a fetch
with no translation. -/
theorem witness_violations :
    (faulted (translate .load 0x2234 paged) = some .pageFault ∧ faulted (translate .store 0x2234 paged) = some .pageFault) ∧
    (faulted (translate .load 0x4008 (mapped 0)) = some .protection ∧ faulted (translate .store 0x4008 (mapped 1)) = some .protection) ∧
    (answered (translate .load 0x4008 (mapped 1)) = some 0x4008 ∧ answered (translate .store 0x4008 (mapped 2)) = some 0x4008 ∧
      field (0x4008 : Word) 0 29 = field (0x400F : Word) 0 29 ∧ bitAt (0x400F : Word) 29 = msrDr (mapped 1)) ∧
    (∃ s : State, Settled s ∧ movesNow s = [] ∧ boundary false (envAdvance s) = none ∧ s.traceDue = false ∧
      s.fetch.queue = [] ∧ msrLe s = false ∧ implicitBranch (envAdvance s) = false ∧
      faulted (translate .fetch s.pc (envAdvance s)) = some .pageFault) :=
  ⟨by decide +kernel, by decide, by decide,
   { paged with msr := 0x60 }, ⟨rfl, rfl⟩, rfl, by decide +kernel, rfl, rfl, rfl, rfl, by decide +kernel⟩


/-- A word that crosses from a page without translation into a direct-store segment (R923). -/
theorem witness_crossing :
    let s : State := { paged with mmu := { paged.mmu with sr := (Vector.replicate 16 0).set 1 0x80000000 } }
    Settled s ∧ 4092 < (0x0FFFFFFE : Word).toNat % 4096 ∧ faulted (translate .load 0x0FFFFFFE s) = some .pageFault ∧
      batHits s .load 0x0FFFFFFE = [] ∧ faulted (translateWith false .load 0x10000000 s) = some .directStore ∧
      seen (exec (.lwz 3 0xFFFE 4) (gprSet s 4 0x10000000)) (fun t => (t.pc, t.sup.dar, t.sup.dsisr)) =
        some (0xFFF00300, 0x10000000, 0x04000000) :=
  ⟨⟨rfl, rfl⟩, by decide +kernel, by decide +kernel, by decide +kernel, by decide +kernel, by decide +kernel⟩

theorem witness_FloatUnavailableResults : msrFp State.reset = false := by decide

/-- A running processor, with interrupts enabled or not, for the clauses below. -/
def running (msr : Word) (latch : Latches) (smi int perf dec therm : Bool) : State :=
  { State.reset with
    msr := msr, latch := latch, pins := { State.reset.pins with smi := smi, int := int }
    perf := { State.reset.perf with pending := perf }, tim := { State.reset.tim with pending := dec }
    therm := { State.reset.therm with pending := therm } }

/-- The vector a boundary leads to, and what is still latched. -/
def taken (s : State) : Option (Word × Latches × Bool × Bool × Bool) :=
  (boundary false s).map fun t => (t.pc &&& 0xFFFF, t.latch, t.perf.pending, t.tim.pending, t.therm.pending)

/-- The conditions of the statement. -/
abbrev Boundary (s : State) : Prop := s.run = .running ∧ s.pins.hreset = false ∧ s.pins.ckstpIn = false

/-- Each clause of the chain, with everything below it pending too. -/
theorem witness_InterruptPriority : ∀ p ∈ [
    (running 0x9040 ⟨true, true, 4⟩ true true true true true, some (0x200, ⟨true, false, 0⟩, true, true, true)),
    (running 0x8040 ⟨true, false, 0⟩ true true true true true, some (0x100, ⟨false, false, 0⟩, true, true, true)),
    (running 0x0040 ⟨false, false, 0⟩ true true true true true, none),
    (running 0x8040 ⟨false, false, 0⟩ true true true true true, some (0x1400, ⟨false, false, 0⟩, true, true, true)),
    (running 0x8040 ⟨false, false, 0⟩ false true true true true, some (0x500, ⟨false, false, 0⟩, true, true, true)),
    (running 0x8040 ⟨false, false, 0⟩ false false true true true, some (0xF00, ⟨false, false, 0⟩, false, true, true)),
    (running 0x8040 ⟨false, false, 0⟩ false false false true true, some (0x900, ⟨false, false, 0⟩, false, false, true)),
    (running 0x8040 ⟨false, false, 0⟩ false false false false true, some (0x1700, ⟨false, false, 0⟩, false, false, false)),
    (running 0x8040 ⟨false, false, 0⟩ false false false false false, none)], Boundary p.1 ∧ taken p.1 = p.2 := by decide

/-- A machine check with MSR[ME] = 0. -/
theorem witness_checkstop : Boundary (running 0x8040 ⟨true, true, 4⟩ true true true true true) ∧
    (boundary false (running 0x8040 ⟨true, true, 4⟩ true true true true true)).map (·.run) = some .checkstop := by decide

theorem witness_ClockAndMonitorResults :
    (State.reset.pins.tben = true ∧ State.reset.run = .running) ∧
    (∃ s : State, bitAt s.perf.mmcr0 5 = true ∧ bitAt s.perf.mmcr0 16 = true ∧ bitAt s.perf.pmc1 0 = true ∧
      (s.seen.history = [] ∧ (noteCompleted 0x100 false s).seen.history ≠ [])) ∧
    (∃ s : State, s.run = .running ∧ bitAt s.therm.thrm3 31 = true ∧ bitAt s.therm.thrm1 31 = true ∧ s.therm.halt1 = false ∧
      s.therm.second = false) :=
  ⟨by decide, ⟨{ State.reset with perf := { State.reset.perf with mmcr0 := 0x04008000, pmc1 := 0x80000000 } }, by decide⟩,
   ⟨{ State.reset with therm := { State.reset.therm with thrm1 := 1, thrm3 := 1 } }, by decide⟩⟩

theorem witness_PowerAndCheckstop :
    (∃ s : State, movesNow s = [] ∧ s.pins.hreset = false ∧ s.run = .checkstop) ∧
    (∃ s : State, movesNow s = [] ∧ s.pins.hreset = false ∧ s.run = .nap ∧ s.pins.ckstpIn = false ∧ s.latch.sreset = false ∧
      s.latch.machineCheck = false ∧ msrEe s = true ∧ s.pins.smi = false ∧ s.pins.int = true) ∧
    (∃ s : State, movesNow s = [] ∧ s.pins.hreset = false ∧ s.run = .running ∧ s.traceDue = false ∧ bitAt s.msr 13 = true ∧
      s.powAsked = true ∧ field (hid0Now s) 8 3 = 0b100) :=
  ⟨⟨{ State.reset with run := .checkstop }, by decide⟩,
   ⟨{ State.reset with run := .nap, msr := 0x8040, pins := { State.reset.pins with int := true } }, by decide⟩,
   ⟨{ State.reset with msr := 0x00040040, hid := { State.reset.hid with hid0 := 0x00800000 }, powAsked := true }, by decide⟩⟩

/-- The block of `cached` in the L2 in its place, the data cache off. -/
def cachedL2 : State :=
  { l2SectorPut State.reset 0x1000 0 (some { modified := true, data := Vector.replicate 32 7 }) with
    hid := { State.reset.hid with l2cr := 0x80000000 } }

/-- R120, R376: a `dcbz` with M = 1 that misses the L1 broadcasts its kill, also where it hits the L2. -/
theorem test_dcbz_kill :
    (zeroBlock 0x1000 realWimg { cachedL2 with hid := { cachedL2.hid with hid0 := 0x00004000 } }).busLog = [.kill 0x1000] := by
  decide +kernel

theorem witness_SnoopResults :
    (cached.run = .running ∧ hidDce cached = true ∧ l2On cached = false ∧ cached.tea = [] ∧ cached.devices = [] ∧
      MemoryCanonical cached ∧ dFind cached 0x1000 = some 0 ∧ dFind cached 0x2000 = none ∧
      (dset cached (setOf 0x1000)).ways[(0 : Fin 8)] = some ⟨1, true, Vector.replicate 32 7⟩) ∧
    (cachedL2.run = .running ∧ hidDce cachedL2 = false ∧ l2On cachedL2 = true ∧ cachedL2.tea = [] ∧ cachedL2.devices = [] ∧
      MemoryCanonical cachedL2 ∧ l2Find cachedL2 0x1000 = some 0 ∧ l2Find cachedL2 0x2000 = none) ∧
    ({ State.reset with resv := ⟨true, 0⟩ } : State).resv.held = true ∧
    l2Locked { cachedL2 with hid := { cachedL2.hid with l2cr := 0x80000A00 } } 0 = true :=
  ⟨⟨rfl, by decide, rfl, rfl, rfl, rfl, by decide, by decide, rfl⟩, ⟨rfl, rfl, rfl, rfl, rfl, rfl, rfl, rfl⟩, rfl, rfl⟩

theorem witness_HardResetValues :
    ∃ s : State, s.run = .heldInReset ∧ s.pins.hreset = false ∧ MemoryCanonical s ∧ replacedBytes s.storeQueue = [⟨false, 0x1000, 0⟩] :=
  ⟨{ poke State.reset 0x1000 5 with run := .heldInReset, storeQueue := [⟨false, [⟨false, 0x1000, 0⟩]⟩] }, rfl, rfl, rfl, rfl⟩

/-- What another master's transaction leaves of the modified block of `cached`: its state, and a byte of memory. -/
def snoopLeaves (k : SnoopKind) : Option (Option Bool) × Byte :=
  match snoop ⟨k, true, 0x1000, []⟩ cached with
  | .ok _ t => (some ((dBlock t 0x1000).map (·.modified)), peek t 0x1000)
  | _ => (none, 0)

/-- R370, the table's column for a hit on M. -/
theorem test_snoop_modified :
    ([.clean, .kill, .writeFlush, .writeKill, .readSingle, .readBurst, .rwitm, .rwnitc].map snoopLeaves) =
      [(some (some true), 0), (some none, 7), (some none, 7), (some none, 0), (some (some false), 7), (some none, 7),
       (some none, 7), (some (some false), 7)] := by decide +kernel

/-- R120, R222, R230: the fetch unit reads ahead neither guarded storage (real mode) nor, with HID0[SPD] = 1, anything that
misses the caches. -/
theorem test_prefetch :
    let t : State := { State.reset with
      msr := 0x60, mmu := { State.reset.mmu with
        ibat := (Vector.replicate 8 ⟨0, 0⟩).set 0 ⟨0x00001FFF, 2⟩, tlbReady := BitVec.allOnes 64 } }
    ([State.reset, t, { t with hid := { t.hid with hid0 := 0x00000200 } }].map fun s =>
      (prefetch 0x2000 { s with fetch := noFetch }).fetch.queue.length) = [0, 1, 0] := by decide +kernel

/-- R101: nothing is read ahead before the first fetch after a soft reset, which reads memory past an instruction cache that
holds another word. -/
theorem test_first_fetch :
    let block : ISet := ⟨(Vector.replicate 8 none).set 0 (some ⟨0xFFF00, Vector.replicate 32 7⟩), 0⟩
    let s := takeSoftReset 0 (poke { isetPut State.reset 8 block with
      hid := { State.reset.hid with hid0 := 0x00008000 } } 0xFFF00103 9)
    mayRunAhead s = false ∧ (fetchPhys 0xFFF00100 realWimg s).1 = 0x07070707 ∧
    (fetchInTurn 0xFFF00100 realWimg s).1 = 9 ∧ mayRunAhead (fetchInTurn 0xFFF00100 realWimg s).2 = true := by decide +kernel

/-- R303, R1140: in a page's last word `mtmsr` has turned translation on. With the code mapped 1:1 it goes on; with the page
elsewhere it is an implicit branch, also where only the next page is; a page that forbids the fetch has not moved; one that
only the new MSR[PR] leaves without a BAT pair is old or new, one that the new MSR[IR] leaves so is not. -/
theorem test_implicitBranch :
    let t (upper lower msr old : Word) : State := { State.reset with
      pc := 0x2000, msr := msr, ctx := ⟨[(.msr, old)], []⟩
      mmu := { State.reset.mmu with
        ibat := (Vector.replicate 8 ⟨0, 0⟩).set 0 ⟨upper, lower⟩, sr := Vector.replicate 16 0x80000000
        tlbReady := BitVec.allOnes 64 }
      fetch := { noFetch with page := some ⟨0x1FFC, 1, some 2⟩ } }
    implicitBranch (t 0x1FFF 2 0x60 0x40) = false ∧ implicitBranch (t 0x1FFF 0x10000002 0x60 0x40) = true ∧
    implicitBranch { t 0x1FFF 2 0x60 0x40 with fetch := { noFetch with page := some ⟨0x1FFC, 1, some 3⟩ } } = true ∧
    implicitBranch { t 0x1FFF 0x10000002 0x60 0x40 with pc := 0x3000 } = false ∧
    implicitBranch (t 0x1FFF 0 0x60 0x40) = false ∧
    implicitBranch (t 0x1FFE 2 0x4060 0x60) = false ∧ implicitBranch (t 0x1FFC 2 0x4060 0x40) = true := by decide +kernel

/-- R962, R1141: an `isync` right after `mtspr IABR` meets the old value; R1073: an L2 invalidation stands still in sleep. -/
theorem test_windows :
    (supervisorSprSet 1010 0xFFF00102 State.reset).map (fun s => iabrMatches (iabrChoice 0x4C00012C s)) = some false ∧
    ([RunState.running, .sleep].map fun r => (l2Progress { State.reset with
      run := r, caches := { State.reset.caches with l2Inval := 5 } }).caches.l2Inval) = [4, 5] := by decide +kernel

/-- R218, R380: a word at offset 2 toward the bus is two transfers, a double at offset 0 one, a word in the cache one. -/
theorem test_pieces : beginsPiece true 0x1002 0x1004 = true ∧ beginsPiece true 0x1000 0x1004 = false ∧
    beginsPiece false 0x1002 0x1004 = false ∧ beginsPiece false 0x1006 0x1008 = true := by decide

/-- R896: a `tlbsync` that waits stays in the instruction queue; R1120: a store still in the store queue is undone. -/
theorem test_kept_and_lost :
    (queued (takeQueued 0x7C00046C { State.reset with
      pins := { State.reset.pins with tlbisync := true }, fetch := { noFetch with queue := [(0xFFF00100, 0x7C00046C)] } })).isSome = true ∧
    peek (restore [⟨false, 0x1000, 5⟩] (poke State.reset 0x1000 9)) 0x1000 = 5 := by decide

/-- R226, R229, R245: the push of `dcbst` waits for the `sync`, the `icbi` for it or the `isync`; a snoop of the block waits for the push (R366, R370). -/
theorem test_push_waits :
    let s : State := isetPut (gprSet cached 3 0x1000) 0 ⟨(Vector.replicate 8 none).set 0 (some ⟨1, Vector.replicate 32 7⟩), 0⟩
    let left (s : State) : Nat × Nat := ((replacedBytes s.storeQueue).length, s.caches.leaving.length)
    seen (exec (.dcbst 0 3) s) (fun t => (left t, (replacedBytes t.storeQueue).head?, peek t 0x1000)) =
      some ((64, 0), some ⟨false, 0x1000, 0⟩, 7) ∧
    seen (exec (.icbi 0 3) s) (fun t => (left t, iLeaving t 0x1000)) = some ((0, 1), some (Vector.replicate 32 7)) ∧
    seen (exec (.dcbst 0 3) s) (fun t => seen (exec (.icbi 0 3) t) fun u => seen (exec (.sync false) u) left) =
      some (some (some (0, 0))) ∧
    seen (exec (.dcbst 0 3) s) (fun t => seen (exec (.icbi 0 3) t) fun u => seen (exec .isync u) left) =
      some (some (some (64, 0))) ∧
    seen (exec (.dcbst 0 3) s) (fun t => left (applySnoop ⟨.readBurst, true, 0x1000, []⟩ t)) = some (0, 0) := by decide +kernel

/-- R1070: nap is entered with every queued write done, doze is not. -/
theorem test_nap_waits :
    ([(0x00400000 : Word), 0x00800000].map fun h =>
      let t := powerEntry { State.reset with
        msr := 0x00040040, powAsked := true, storeQueue := [⟨true, [⟨false, 0x1000, 0⟩]⟩]
        hid := { State.reset.hid with hid0 := h }, pins := { State.reset.pins with qack := true } }
      (t.run, t.storeQueue.length)) = [(.nap, 0), (.doze, 1)] := by decide +kernel

/-- R110, R427, R1110: a snoop that leaves the sector of a locked way valid sets SHERR, and with SHEE raises a machine check. -/
theorem test_snoop_locked :
    let s : State := { cachedL2 with hid := { cachedL2.hid with l2cr := 0x80000A00 } }
    let t := applySnoop ⟨.readSingle, true, 0x1000, []⟩ s
    (l2Sector t 0x1000).isSome = true ∧ t.hid.l2cr = 0x80000B00 ∧ t.latch.machineCheck = true := by decide +kernel

/-- R745, U13: the store of a register that nothing has written. -/
theorem test_unset_store :
    (match exec (.stfd 1 0x1000 0) (fregs []) with | .refused r => some r | _ => none) =
      some (.uninitialisedFpr "stfd") := by decide +kernel

/-- R367, R369: a `stwcx.` that hits a modified block pushes it once, as it was. -/
theorem test_stwcx_push :
    let s : State := { gprSet (gprSet cached 3 0x01020304) 4 0x1000 with
      resv := ⟨true, 0x80⟩, caches := { cached.caches with l2 := cachedL2.caches.l2 }
      hid := { cached.hid with l2cr := 0x80000000 } }
    seen (exec (.stwcxRc 3 0 4 true) s) (fun t => (bytesAt t 0x1000 4, (l2Sector t 0x1000).map fun x => blockWord x.data 0x1000)) =
      some ([7, 7, 7, 7], some 0x01020304) := by decide +kernel

/-- One instruction placed where the step fetches. -/
def placed (w : Nat) : State := State.reset.withFetchWord 32 w

/-- The conditions of the statement on a state. -/
def Ready (s : State) : Prop := Undisturbed s ∧ PlainFetch s ∧ PcAligned s

theorem ready_addi : Ready (placed 0x38640005) := ⟨⟨rfl, rfl, rfl, rfl⟩, (plain_fetch_of rfl rfl rfl rfl rfl rfl rfl rfl rfl rfl), rfl⟩

theorem ready_cmp : Ready (placed 0x7C202000) := ⟨⟨rfl, rfl, rfl, rfl⟩, (plain_fetch_of rfl rfl rfl rfl rfl rfl rfl rfl rfl rfl), rfl⟩

theorem ready_l2cr : Ready (gprSet (placed 0x7C79FBA6) 3 0x80200000) := ⟨⟨rfl, rfl, rfl, rfl⟩, (plain_fetch_of rfl rfl rfl rfl rfl rfl rfl rfl rfl rfl), rfl⟩

theorem ready_undefined : Ready (placed 0) := ⟨⟨rfl, rfl, rfl, rfl⟩, (plain_fetch_of rfl rfl rfl rfl rfl rfl rfl rfl rfl rfl), rfl⟩

/-- `rfi` with a reserved bit, in user mode. -/
theorem ready_reserved_user : Ready { placed 0x4C000065 with msr := 0x4040 } :=
  ⟨⟨rfl, rfl, rfl, rfl⟩, (plain_fetch_of rfl rfl rfl rfl rfl rfl rfl rfl rfl rfl), rfl⟩

theorem ready_reserved : Ready (placed 0x4C000065) := ⟨⟨rfl, rfl, rfl, rfl⟩, (plain_fetch_of rfl rfl rfl rfl rfl rfl rfl rfl rfl rfl), rfl⟩

theorem placed_word : [0x38640005, 0, 0x7C202000, 0x4C000065].map
      (fun w => BitVec.ofNat 32 (valueBig (bytesAt (placed w) (placed w).pc 4))) = [0x38640005, 0, 0x7C202000, 0x4C000065] := by
  decide

/-- An instruction that goes on, one that is refused, one that stops, an undefined word, a reserved field. -/
theorem witness_StepRunsTheDecodedInstruction :
    (Ready (placed 0x38640005) ∧ Ready (placed 0x7C202000) ∧ Ready (gprSet (placed 0x7C79FBA6) 3 0x80200000) ∧ Ready (placed 0) ∧
      Ready (placed 0x4C000065)) ∧
    (decode 0x38640005 = .instr (.addi 3 4 5) ∧ seen (exec (.addi 3 4 5) (placed 0x38640005)) (gprGet · 3) = some 5) ∧
    (decode 0x7C202000 = .instr (.cmp 0 true 0 4) ∧ Refuses (exec (.cmp 0 true 0 4) (placed 0x7C202000))) ∧
    (decode 0x7C79FBA6 = .instr (.mtspr 1017 3 false) ∧
      exec (.mtspr 1017 3 false) (gprSet (placed 0x7C79FBA6) 3 0x80200000) = .fault .l2InvalidateMisuse) ∧
    decode 0 = .illegal ∧ decode 0x4C000065 = .reservedField "rfi" .rfi ∧
    (takesEarly .rfi State.reset = false ∧ takesEarly .rfi user = true) :=
  ⟨⟨ready_addi, ready_cmp, ready_l2cr, ready_undefined, ready_reserved⟩, by decide, ⟨by decide, _, rfl⟩, ⟨by decide, rfl⟩,
   by decide, by decide, by decide⟩

theorem witness_TraceAndBreakpoint :
    (∃ s : State, Settled s ∧ movesNow s = [] ∧ boundary false (envAdvance s) = none ∧ s.traceDue = true ∧
      bitAt s.hid.iabr 30 = false) ∧
    (∃ s : State, Settled s ∧ movesNow s = [] ∧ boundary false (envAdvance s) = none ∧ bitAt s.hid.iabr 30 = true ∧
      field s.hid.iabr 0 30 = field s.pc 0 30 ∧ bitAt s.hid.iabr 31 = msrIr s ∧ PlainFetch s) ∧
    ((complete (.addi 3 3 1) { State.reset with msr := 0x440 } State.reset).traceDue = true ∧
      (complete .isync { State.reset with msr := 0x440 } State.reset).traceDue = false ∧
      (complete (.b 4 false false) { State.reset with msr := 0x240 } State.reset).traceDue = true ∧
      (complete (.addi 3 3 1) { State.reset with msr := 0x240 } State.reset).traceDue = false) ∧
    (∃ s : State, s.excTaken = false ∧ s.pins.tlbisync = true ∧ msrPr s = false) :=
  ⟨⟨{ State.reset with traceDue := true }, ⟨rfl, rfl⟩, rfl, rfl, rfl, rfl⟩,
   ⟨{ State.reset with hid := { State.reset.hid with iabr := 0xFFF00102 } }, ⟨rfl, rfl⟩, rfl, rfl, rfl, by decide, by decide,
    plain_fetch_of rfl rfl rfl rfl rfl rfl rfl rfl rfl rfl⟩, by decide,
   { State.reset with pins := { State.reset.pins with tlbisync := true } }, rfl, rfl, by decide⟩

theorem witness_DecodeAndEncodeAgree : wellFormed (.add 3 4 5 false true) = true ∧ decode 0x4C000064 = .instr .rfi := by decide

/-- A state that meets the invariant, and whose step goes on. -/
theorem witness_InvariantKept : ∃ s t : State, Invariant s ∧ step s = .next t := by
  refine ⟨{ State.reset with pc := 0x100 }, ?_⟩
  have h : (seen (step { State.reset with pc := 0x100 }) (fun _ => true)).isSome = true := by decide
  generalize ho : step { State.reset with pc := 0x100 } = o at h
  cases o with
  | next t => exact ⟨t, ⟨rfl, (by decide : field (0x100 : Word) 30 2 = 0), (by decide : (0x40 : Word) &&& ~~~ msrMask = 0),
      (by decide : (0 : Word) &&& ~~~ xerMask = 0), (by decide : fpSummary 0 = 0)⟩, rfl⟩
  | fault _ => simp [seen] at h
  | refused _ => simp [seen] at h

/-- An instruction that completes in user mode, and one that takes an exception. -/
theorem witness_UserModeConfined :
    msrPr user = true ∧ seen (exec (.addi 3 4 5) { user with excTaken := false }) (·.excTaken) = some false ∧
    seen (exec .sc { user with excTaken := false }) (·.excTaken) = some true := by decide

/-- R1072, R1103, R1105: after reset no output is asserted; QREQ asks for the nap the MSR and HID0 request. -/
theorem test_outputs :
    (rsrvOut State.reset, ckstpOut State.reset, qreqOut State.reset) = (false, false, false) ∧
    qreqOut { State.reset with
      msr := 0x00040000, hid := { State.reset.hid with hid0 := 0x00400000 }, powAsked := true } = true ∧
    ckstpOut { State.reset with run := .checkstop } = true := by decide

/-- R1070, R1072: doze is entered once asked for; nap not before QACK is asserted. -/
theorem test_powerEntry :
    ([0x00800000, 0x00400000].map fun hid0 => (powerEntry { State.reset with
        msr := 0x00040000, hid := { State.reset.hid with hid0 := hid0 }, powAsked := true }).run) = [.doze, .running] := by
  decide

end Sys2Proof.Tests
end

section
/-! PROOF. O44: the TLB instructions (R895, R896) and another master's TLB invalidation (R300). -/

namespace Sys2Proof.Machine

/-! ## Supervisor instructions (R947) -/

theorem privileged_supervisor {s : State} (h : msrPr s = false) (k : Out) : privileged s k = k := by
  simp [privileged, h]

/-- In user mode a supervisor instruction is an entry, whatever it does in supervisor mode. -/
theorem privileged_user_enters {s : State} (h : msrPr s = true) (k : Out) :
    Goes (privileged s k) fun t => Entered s t 0x700 s.pc 0x00040000 :=
  goes_next (takePrivileged_entered s) (by simp [privileged, h])

theorem exec_tlbie_eq_privileged (rB : Reg) (s : State) :
    exec (.tlbie rB) s = privileged s (nextInstr (tlbInvalidate (gprGet s rB) s)) := rfl

theorem exec_tlbsync_eq_privileged (s : State) :
    exec .tlbsync s = privileged s (if s.pins.tlbisync then .next s else nextInstr s) := rfl

/-! ## Emptying a set of the TLBs (R300) -/

/-- What `tlbInvalidate` does to either TLB. -/
def withoutSet (v : Vector TlbSet 64) (i : Fin 64) : Vector TlbSet 64 :=
  v.set i.val { v[i] with ways := Vector.replicate 2 none } i.isLt

theorem tlbInvalidate_itlb (ea : Word) (s : State) :
    (tlbInvalidate ea s).mmu.itlb = withoutSet s.mmu.itlb (tlbIndex ea) := rfl

theorem tlbInvalidate_dtlb (ea : Word) (s : State) :
    (tlbInvalidate ea s).mmu.dtlb = withoutSet s.mmu.dtlb (tlbIndex ea) := rfl

theorem withoutSet_ways_lru (v : Vector TlbSet 64) (i j : Fin 64) :
    (∀ k : Fin 2, (withoutSet v i)[j].ways[k] = if j.val = i.val then none else v[j].ways[k]) ∧
      (withoutSet v i)[j].lru = v[j].lru := by
  by_cases same : j = i
  · subst same
    simp [withoutSet]
  · have other : i.val ≠ j.val := fun e => same (Fin.ext e.symm)
    simp [withoutSet, other, other.symm]

theorem tlbInvalidate_tlbReady (ea : Word) (s : State) {j : Nat} (hj : j < 64) :
    (tlbInvalidate ea s).mmu.tlbReady.getLsbD j = (decide (j = (tlbIndex ea).val) || s.mmu.tlbReady.getLsbD j) := by
  have mark : ((1 : BitVec 64) <<< (tlbIndex ea).val).getLsbD j = decide (j = (tlbIndex ea).val) := by
    rw [BitVec.getLsbD_shiftLeft, BitVec.ofNat_eq_ofNat, BitVec.getLsbD_one, Bool.eq_iff_iff]
    simp only [Bool.and_eq_true, Bool.not_eq_true', decide_eq_true_eq, decide_eq_false_iff_not]
    omega
  calc (tlbInvalidate ea s).mmu.tlbReady.getLsbD j
      = (s.mmu.tlbReady ||| ((1 : BitVec 64) <<< (tlbIndex ea).val)).getLsbD j := rfl
    _ = (decide (j = (tlbIndex ea).val) || s.mmu.tlbReady.getLsbD j) := by
      rw [BitVec.getLsbD_or, mark, Bool.or_comm]

/-! ## Transactions that do nothing -/

/-- A transaction without data whose kind acts on no block and ends no reservation changes nothing. -/
theorem snoop_inert {k : SnoopKind} {pa : Word} {s : State} (act : snoopAction k = some .nothing)
    (keeps : snoopCancels k pa s = false) (g : Bool) : snoop ⟨k, g, pa, []⟩ s = .ok () s := by
  simp [snoop, applySnoop, act, otherWrites, snooped, snoopCaches, keeps]

/-- Settles O44: `tlbie` by what it does to each set, `tlbsync` and user mode by `privileged`, the other master's invalidation
as a transaction that does nothing. -/
theorem tlbInstructionResults : Obligations.TlbInstructionResults := by
  intro s rB row emptied
  refine ⟨fun supervisor => ⟨?_, fun released => ?_⟩, fun user i hi => ?_, fun g pa => snoop_inert rfl rfl g⟩
  · refine goes_next ?_ ((exec_tlbie_eq_privileged rB s).trans (privileged_supervisor supervisor _))
    refine ⟨?_, ?_, fun j hj => tlbInvalidate_tlbReady (gprGet s rB) s hj, rfl⟩
    · rw [advance_mmu, tlbInvalidate_itlb]
      exact withoutSet_ways_lru _ _
    · rw [advance_mmu, tlbInvalidate_dtlb]
      exact withoutSet_ways_lru _ _
  · rw [exec_tlbsync_eq_privileged, privileged_supervisor supervisor, released]
    rfl
  · obtain rfl | rfl : i = .tlbie rB ∨ i = .tlbsync := by simpa using hi
    · exact exec_tlbie_eq_privileged rB s ▸ privileged_user_enters user _
    · exact exec_tlbsync_eq_privileged s ▸ privileged_user_enters user _

end Sys2Proof.Machine
end

section
/-! PROOF. O30: supervisor instructions and supervisor registers in user mode (R81, R947). -/

namespace Sys2Proof.Machine

/-! ## Which numbers name a register (R80, R83) -/

/-- The numbers `userSpr` reads; `mtspr` knows 943, USDA, on its own. -/
def userNumbers : List Nat := [1, 8, 9, 268, 269, 936, 937, 938, 939, 940, 941, 942, 943]

/-- The numbers `supervisorSpr` reads without asking `batSpr`. -/
def supervisorNumbers : List Nat :=
  [18, 19, 22, 25, 26, 27, 272, 273, 274, 275, 282, 287, 952, 953, 954, 955, 956, 957, 958, 959, 1008, 1009, 1010, 1013,
   1016, 1017, 1019, 1020, 1021, 1022]

/-- The number of a supervisor register, for reading and for writing. -/
def NamesSupervisor (n : Nat) : Prop := n ∈ supervisorNumbers ∨ (batSpr n).isSome

theorem batSpr_isSome_iff (n : Nat) : (batSpr n).isSome ↔ (528 ≤ n ∧ n ≤ 543) ∨ (560 ≤ n ∧ n ≤ 575) := by
  unfold batSpr
  split_ifs <;> simp <;> omega

theorem userSpr_isSome_iff (n : Nat) (s : State) : (userSpr n s).isSome ↔ n ∈ userNumbers := by
  unfold userSpr
  split <;> simp_all [userNumbers]

theorem userSprSet_isSome_iff (n : Nat) (v : Word) (s : State) : (userSprSet n v s).isSome ↔ n ∈ [1, 8, 9] := by
  unfold userSprSet
  split <;> simp_all

theorem supervisorSpr_isSome_iff (n : Nat) (s : State) : (supervisorSpr n s).isSome ↔ NamesSupervisor n := by
  unfold supervisorSpr NamesSupervisor
  split
  case h_31 => cases batSpr n <;> simp_all [supervisorNumbers]
  all_goals simp [supervisorNumbers]

/-- Besides the supervisor registers `mtspr` writes TBL and TBU, at numbers of their own. -/
theorem supervisorSprSet_isSome_iff (n : Nat) (v : Word) (s : State) :
    (supervisorSprSet n v s).isSome ↔ NamesSupervisor n ∨ n = 284 ∨ n = 285 := by
  unfold supervisorSprSet NamesSupervisor
  split
  case h_33 => cases batSpr n <;> simp_all [supervisorNumbers]
  all_goals simp [supervisorNumbers]

theorem NamesSupervisor.not_user {n : Nat} (h : NamesSupervisor n) : n ∉ userNumbers := by
  rcases h with listed | bat
  · have apart : ∀ m ∈ supervisorNumbers, m ∉ userNumbers := by decide
    exact apart n listed
  · rw [batSpr_isSome_iff] at bat
    simp only [userNumbers, List.mem_cons, List.not_mem_nil, or_false]
    omega

/-! ## User mode (R81, R947, R971) -/

theorem readSpr_user_enters {s : State} (user : msrPr s = true) {n : Nat} (sup : NamesSupervisor n) (rD : Reg) (rc : Bool) :
    Goes (readSpr rD n rc s) fun t => Entered s t 0x700 s.pc 0x00040000 := by
  have hidden : userSpr n s = none := by
    rw [← Option.not_isSome_iff_eq_none, userSpr_isSome_iff]
    exact sup.not_user
  obtain ⟨v, named⟩ := Option.isSome_iff_exists.mp ((supervisorSpr_isSome_iff n s).mpr sup)
  simp only [readSpr, hidden, named]
  exact privileged_user_enters user _

theorem writeSpr_user_enters {s : State} (user : msrPr s = true) {n : Nat} (sup : NamesSupervisor n ∨ n = 284 ∨ n = 285)
    (v : Word) (rc : Bool) : Goes (writeSpr n v rc s) fun t => Entered s t 0x700 s.pc 0x00040000 := by
  have apart : n ∉ [1, 8, 9, 943] := by
    rcases sup with sup | rfl | rfl
    · have low : [1, 8, 9, 943] ⊆ userNumbers := by decide
      exact fun h => sup.not_user (low h)
    · decide
    · decide
  have hidden : userSprSet n v s = none := by
    rw [← Option.not_isSome_iff_eq_none, userSprSet_isSome_iff]
    have low : [1, 8, 9] ⊆ [1, 8, 9, 943] := by decide
    exact fun h => apart (low h)
  have notUsda : n ≠ 943 := fun e => apart (by simp [e])
  obtain ⟨s', named⟩ := Option.isSome_iff_exists.mp ((supervisorSprSet_isSome_iff n v s).mpr sup)
  simp only [writeSpr, hidden, notUsda, if_false, named]
  exact privileged_user_enters user _

theorem exec_supervisorInstr_eq_privileged (s : State) (a b : Reg) (n : BitVec 4) :
    ∀ i ∈ [Instr.mtmsr a, .mfmsr a, .rfi, .mtsr n a, .mtsrin a b, .mfsr a n, .mfsrin a b, .tlbie a, .tlbsync, .dcbi a b],
      ∃ k, exec i s = privileged s k := by
  simp only [List.forall_mem_cons]
  exact ⟨⟨_, rfl⟩, ⟨_, rfl⟩, ⟨_, rfl⟩, ⟨_, rfl⟩, ⟨_, rfl⟩, ⟨_, rfl⟩, ⟨_, rfl⟩, ⟨_, rfl⟩, ⟨_, rfl⟩, ⟨_, rfl⟩,
    List.forall_mem_nil _⟩

/-- Settles O30: each supervisor instruction is a `privileged` one, and a move checks the level of the register its number
names. -/
theorem privilegedInstructionResults : Obligations.PrivilegedInstructionResults := by
  intro s a b n spr rc user priv both sup
  have named (h : sup) : NamesSupervisor spr.toNat := by
    have listed : both ⊆ supervisorNumbers := by decide
    exact h.imp (@listed _) (batSpr_isSome_iff _).mpr
  refine ⟨fun i hi => ?_, fun h => ⟨?_, ?_, ?_⟩, fun h => ?_⟩
  · obtain ⟨k, e⟩ := exec_supervisorInstr_eq_privileged s a b n i hi
    change Goes (exec i s) _
    rw [e]
    exact privileged_user_enters user k
  · exact readSpr_user_enters user (named h) a rc
  · exact readSpr_user_enters user (named h) a false
  · exact writeSpr_user_enters user (.inl (named h)) _ rc
  · have timeBase : spr.toNat = 284 ∨ spr.toNat = 285 := by
      rcases h with rfl | rfl <;> decide
    exact writeSpr_user_enters user (.inr timeBase) _ rc

end Sys2Proof.Machine
end

section
/-! PROOF. O57: decoding and encoding agree (R440 to R465). A word is cut into the parts its format names; what the decoder
reads from an encoding is then the operand it came from, and a word whose parts are known is the encoding of them. -/

namespace Sys2Proof

/-- What was decoded from a word, if it is an instruction, has that word as its encoding. -/
inductive Encodes : Word → Decoded → Prop
  | instr (i : Instr) : Encodes (encode i) (.instr i)
  | illegal {w : Word} : Encodes w .illegal
  | reservedField {w : Word} (n : String) (i : Instr) : Encodes w (.reservedField n i)

/-! ## Fields of words -/

theorem field_full {n : Nat} (x : BitVec n) : field x 0 n = x := by
  apply eq_of_bitAt
  intro k hk
  rw [bitAt_field _ (by omega) hk, Nat.zero_add]

theorem bitAt_append_right {m n : Nat} (x : BitVec m) (y : BitVec n) {k : Nat} (h : m ≤ k) :
    bitAt (x ++ y) k = bitAt y (k - m) := by
  simp [bitAt, BitVec.getMsbD_append, h]

theorem bitAt_append_left {m n : Nat} (x : BitVec m) (y : BitVec n) {k : Nat} (h : k < m) :
    bitAt (x ++ y) k = bitAt x k := by
  simp [bitAt, BitVec.getMsbD_append, h]

theorem field_append_right {m n : Nat} (x : BitVec m) (y : BitVec n) {f l : Nat} (h : m ≤ f) (hw : f + l ≤ m + n) :
    field (x ++ y) f l = field y (f - m) l := by
  apply eq_of_bitAt
  intro k hk
  rw [bitAt_field _ (by omega) hk, bitAt_field _ (by omega) hk, bitAt_append_right _ _ (by omega)]
  congr 1
  omega

theorem field_append_left {m n : Nat} (x : BitVec m) (y : BitVec n) {f l : Nat} (h : f + l ≤ m) :
    field (x ++ y) f l = field x f l := by
  apply eq_of_bitAt
  intro k hk
  rw [bitAt_field _ (by omega) hk, bitAt_field _ h hk, bitAt_append_left _ _ (by omega)]

/-- Two fields side by side are one. -/
theorem field_append_field {w : Nat} (x : BitVec w) {f l m : Nat} (h : f + l + m ≤ w) :
    field x f l ++ field x (f + l) m = field x f (l + m) := by
  apply eq_of_bitAt
  intro k hk
  rw [bitAt_field _ (by omega) hk]
  by_cases hl : k < l
  · rw [bitAt_append_left _ _ hl, bitAt_field _ (by omega) hl]
  · rw [bitAt_append_right _ _ (by omega), bitAt_field _ h (by omega)]
    congr 1
    omega

theorem field_field {w : Nat} (x : BitVec w) {f l g m : Nat} (h : f + l ≤ w) (k : g + m ≤ l) :
    field (field x f l) g m = field x (f + g) m := by
  apply eq_of_bitAt
  intro i hi
  rw [bitAt_field _ k hi, bitAt_field _ h (by omega), bitAt_field _ (by omega) hi, Nat.add_assoc]

theorem field_and {w : Nat} (x y : BitVec w) {f l : Nat} (h : f + l ≤ w) :
    field (x &&& y) f l = field x f l &&& field y f l := by
  apply eq_of_bitAt
  intro k hk
  rw [bitAt_field _ h hk, bitAt_and, bitAt_and, bitAt_field _ h hk, bitAt_field _ h hk]

theorem bitAt_ofBit (b : Bool) : bitAt (ofBit b) 0 = b := by cases b <;> rfl

theorem ofBit_bitAt {w : Nat} (x : BitVec w) {k : Nat} (h : k < w) : ofBit (bitAt x k) = field x k 1 := by
  apply eq_of_bitAt
  intro i hi
  obtain rfl : i = 0 := by omega
  rw [bitAt_ofBit, bitAt_field _ (by omega) hi, Nat.add_zero]

@[simp] theorem field_ofNat (w n f l : Nat) :
    field (BitVec.ofNat w n) f l = BitVec.ofNat l ((n % 2 ^ w) >>> (w - f - l)) := by
  apply BitVec.eq_of_toNat_eq
  simp [field]

theorem bitAt_ofNat (w n k : Nat) : bitAt (BitVec.ofNat w n) k = (decide (k < w) && n.testBit (w - 1 - k)) := by
  rw [bitAt, BitVec.getMsbD_eq_getLsbD, BitVec.getLsbD_ofNat, Bool.eq_iff_iff]
  simp only [Bool.and_eq_true, decide_eq_true_eq]
  exact ⟨fun h => ⟨h.1, h.2.2⟩, fun h => ⟨h.1, by omega, h.2⟩⟩

theorem field_eq_ofNat {w f l n : Nat} {x : BitVec w} (h : (field x f l).toNat = n) : field x f l = BitVec.ofNat l n := by
  rw [← h, BitVec.ofNat_toNat, BitVec.setWidth_eq]

/-! ## The parts of a word, by format (R442) -/

/-- A word is its parts of the X format. -/
theorem encX_parts (w : Word) :
    encX (field w 0 6) (field w 6 5) (field w 11 5) (field w 16 5) (field w 21 10) (bitAt w 31) = w := by
  rw [encX, ofBit_bitAt w (by decide)]
  calc field w 0 6 ++ field w (0 + 6) 5 ++ field w (0 + (6 + 5)) 5 ++ field w (0 + (6 + 5 + 5)) 5 ++
        field w (0 + (6 + 5 + 5 + 5)) 10 ++ field w (0 + (6 + 5 + 5 + 5 + 10)) 1 = field w 0 32 := by
        simp (disch := omega) only [field_append_field]
    _ = w := field_full w

/-- A word is its parts of the D format. -/
theorem encD_parts (w : Word) : encD (field w 0 6) (field w 6 5) (field w 11 5) (field w 16 16) = w := by
  rw [encD]
  calc field w 0 6 ++ field w (0 + 6) 5 ++ field w (0 + (6 + 5)) 5 ++ field w (0 + (6 + 5 + 5)) 16 = field w 0 32 := by
        simp (disch := omega) only [field_append_field]
    _ = w := field_full w

section
variable (o : BitVec 6) (a b c : BitVec 5) (d : BitVec 16) (x : BitVec 10) (r : Bool)

@[simp] theorem encD_opcode : field (encD o a b d) 0 6 = o := by
  simp (disch := omega) only [encD, field_append_left, field_full]

@[simp] theorem encD_first : field (encD o a b d) 6 5 = a := by
  simp (disch := omega) only [encD, field_append_left, field_append_right]
  exact field_full a

@[simp] theorem encD_second : field (encD o a b d) 11 5 = b := by
  simp (disch := omega) only [encD, field_append_left, field_append_right]
  exact field_full b

@[simp] theorem encD_immediate : field (encD o a b d) 16 16 = d := by
  simp (disch := omega) only [encD, field_append_right]
  exact field_full d

@[simp] theorem encX_opcode : field (encX o a b c x r) 0 6 = o := by
  simp (disch := omega) only [encX, field_append_left, field_full]

@[simp] theorem encX_first : field (encX o a b c x r) 6 5 = a := by
  simp (disch := omega) only [encX, field_append_left, field_append_right]
  exact field_full a

@[simp] theorem encX_second : field (encX o a b c x r) 11 5 = b := by
  simp (disch := omega) only [encX, field_append_left, field_append_right]
  exact field_full b

@[simp] theorem encX_third : field (encX o a b c x r) 16 5 = c := by
  simp (disch := omega) only [encX, field_append_left, field_append_right]
  exact field_full c

@[simp] theorem encX_extended : field (encX o a b c x r) 21 10 = x := by
  simp (disch := omega) only [encX, field_append_left, field_append_right]
  exact field_full x

@[simp] theorem encX_record : bitAt (encX o a b c x r) 31 = r := by
  simp (disch := omega) only [encX, bitAt_append_right]
  exact bitAt_ofBit r

theorem encD_eq_iff (w : Word) : encD o a b d = w ↔
    field w 0 6 = o ∧ field w 6 5 = a ∧ field w 11 5 = b ∧ field w 16 16 = d := by
  constructor
  · rintro rfl
    simp
  · rintro ⟨rfl, rfl, rfl, rfl⟩
    exact encD_parts w

theorem encX_eq_iff (w : Word) : encX o a b c x r = w ↔
    field w 0 6 = o ∧ field w 6 5 = a ∧ field w 11 5 = b ∧ field w 16 5 = c ∧ field w 21 10 = x ∧ bitAt w 31 = r := by
  constructor
  · rintro rfl
    simp
  · rintro ⟨rfl, rfl, rfl, rfl, rfl, rfl⟩
    exact encX_parts w

end

/-- A field is two values side by side if its parts are those. -/
theorem field_eq_append_iff {w : Nat} (x : BitVec w) {f l m : Nat} (h : f + l + m ≤ w) (a : BitVec l) (b : BitVec m) :
    field x f (l + m) = a ++ b ↔ field x f l = a ∧ field x (f + l) m = b := by
  rw [← field_append_field x h]
  refine ⟨fun e => ⟨?_, ?_⟩, fun e => by rw [e.1, e.2]⟩
  · have := congrArg (field · 0 l) e
    simpa (disch := omega) only [field_append_left, field_full] using this
  · have := congrArg (field · l m) e
    simpa (disch := omega) only [field_append_right, Nat.sub_self, field_full] using this

theorem extended_eq_iff (w : Word) (d e : BitVec 5) :
    field w 21 10 = d ++ e ↔ field w 21 5 = d ∧ field w 26 5 = e :=
  field_eq_append_iff w (f := 21) (l := 5) (m := 5) (by decide) d e

theorem ofBit_eq_iff : ∀ (b : Bool) (x : BitVec 1), x = ofBit b ↔ bitAt x 0 = b := by decide

theorem extended_eq_ofBit_iff (w : Word) (e : Bool) (x : BitVec 9) :
    field w 21 10 = ofBit e ++ x ↔ bitAt w 21 = e ∧ field w 22 9 = x := by
  refine (field_eq_append_iff w (f := 21) (l := 1) (m := 9) (by decide) _ x).trans ?_
  rw [ofBit_eq_iff, bitAt_field w (by decide) (by decide)]

/-! The XO and A formats, and the two instructions with an eight-bit mask, are the X format cut otherwise. -/

theorem encXO_eq_iff (a b c : BitVec 5) (e : Bool) (x : BitVec 9) (r : Bool) (w : Word) : encXO a b c e x r = w ↔
    field w 0 6 = 31#6 ∧ field w 6 5 = a ∧ field w 11 5 = b ∧ field w 16 5 = c ∧ bitAt w 21 = e ∧ field w 22 9 = x ∧
      bitAt w 31 = r := by
  have split : encXO a b c e x r = encX 31 a b c (ofBit e ++ x) r := by
    rw [eq_comm, encX_eq_iff, extended_eq_ofBit_iff]
    simp (disch := omega) only [encXO, field_append_left, field_append_right, bitAt_append_left, bitAt_append_right]
    exact ⟨field_full _, field_full _, field_full _, field_full _, ⟨bitAt_ofBit _, field_full _⟩, bitAt_ofBit _⟩
  rw [split, encX_eq_iff, extended_eq_ofBit_iff, and_assoc]
  rfl

theorem encA_eq_iff (o : BitVec 6) (a b c d e : BitVec 5) (r : Bool) (w : Word) : encA o a b c d e r = w ↔
    field w 0 6 = o ∧ field w 6 5 = a ∧ field w 11 5 = b ∧ field w 16 5 = c ∧ field w 21 5 = d ∧ field w 26 5 = e ∧
      bitAt w 31 = r := by
  have split : encA o a b c d e r = encX o a b c (d ++ e) r := by
    rw [eq_comm, encX_eq_iff, extended_eq_iff]
    simp (disch := omega) only [encA, field_append_left, field_append_right, bitAt_append_right]
    exact ⟨field_full _, field_full _, field_full _, field_full _, ⟨field_full _, field_full _⟩, bitAt_ofBit _⟩
  rw [split, encX_eq_iff, extended_eq_iff, and_assoc]

theorem encode_mtcrf (crm : BitVec 8) (rS : Reg) : encode (.mtcrf crm rS) =
    encX 31 rS ((0 : BitVec 1) ++ (field crm 0 4 : BitVec 4)) ((field crm 4 4 : BitVec 4) ++ (0 : BitVec 1)) 144 false := by
  rw [eq_comm, encX_eq_iff, ← field_append_field _ (f := 11) (l := 1) (m := 4) (by decide),
    ← field_append_field _ (f := 16) (l := 4) (m := 1) (by decide)]
  simp (disch := omega) only [encode, field_append_left, field_append_right, bitAt_append_right]
  exact ⟨field_full _, field_full _, congrArg₂ (· ++ ·) (field_full _) rfl, congrArg₂ (· ++ ·) rfl (field_full _),
    field_full _, rfl⟩

theorem encode_mtfsf (fm : BitVec 8) (frB : Reg) (rc : Bool) : encode (.mtfsf fm frB rc) =
    encX 63 ((0 : BitVec 1) ++ (field fm 0 4 : BitVec 4)) ((field fm 4 4 : BitVec 4) ++ (0 : BitVec 1)) frB 711 rc := by
  rw [eq_comm, encX_eq_iff, ← field_append_field _ (f := 6) (l := 1) (m := 4) (by decide),
    ← field_append_field _ (f := 11) (l := 4) (m := 1) (by decide)]
  simp (disch := omega) only [encode, field_append_left, field_append_right, bitAt_append_right]
  exact ⟨field_full _, congrArg₂ (· ++ ·) (field_full _) rfl, congrArg₂ (· ++ ·) rfl (field_full _), field_full _,
    field_full _, bitAt_ofBit _⟩


theorem encode_sc : encode .sc = encX 17 0 0 0 1 false := by decide

theorem encode_b_eq_iff (li : BitVec 24) (aa lk : Bool) (w : Word) : encode (.b li aa lk) = w ↔
    field w 0 6 = 18#6 ∧ field w 6 24 = li ∧ bitAt w 30 = aa ∧ bitAt w 31 = lk := by
  constructor
  · rintro rfl
    simp (disch := omega) only [encode, field_append_left, field_append_right, bitAt_append_left, bitAt_append_right]
    exact ⟨rfl, field_full _, bitAt_ofBit _, bitAt_ofBit _⟩
  · rintro ⟨ho, rfl, rfl, rfl⟩
    rw [encode, ofBit_bitAt w (by decide), ofBit_bitAt w (by decide), BitVec.ofNat_eq_ofNat, ← ho]
    calc field w 0 6 ++ field w (0 + 6) 24 ++ field w (0 + (6 + 24)) 1 ++ field w (0 + (6 + 24 + 1)) 1 = field w 0 32 := by
          simp (disch := omega) only [field_append_field]
      _ = w := field_full w

theorem encode_bc_eq_iff (bo bi : Reg) (bd : BitVec 14) (aa lk : Bool) (w : Word) : encode (.bc bo bi bd aa lk) = w ↔
    field w 0 6 = 16#6 ∧ field w 6 5 = bo ∧ field w 11 5 = bi ∧ field w 16 14 = bd ∧ bitAt w 30 = aa ∧ bitAt w 31 = lk := by
  constructor
  · rintro rfl
    simp (disch := omega) only [encode, field_append_left, field_append_right, bitAt_append_left, bitAt_append_right]
    exact ⟨rfl, field_full _, field_full _, field_full _, bitAt_ofBit _, bitAt_ofBit _⟩
  · rintro ⟨ho, rfl, rfl, rfl, rfl, rfl⟩
    rw [encode, ofBit_bitAt w (by decide), ofBit_bitAt w (by decide), BitVec.ofNat_eq_ofNat, ← ho]
    calc field w 0 6 ++ field w (0 + 6) 5 ++ field w (0 + (6 + 5)) 5 ++ field w (0 + (6 + 5 + 5)) 14 ++
          field w (0 + (6 + 5 + 5 + 14)) 1 ++ field w (0 + (6 + 5 + 5 + 14 + 1)) 1 = field w 0 32 := by
          simp (disch := omega) only [field_append_field]
      _ = w := field_full w

/-! ## Operands inside a part -/

section
variable (w : Word)

theorem crf_first : field w 6 3 = field (field w 6 5 : BitVec 5) 0 3 :=
  (field_field w (f := 6) (l := 5) (g := 0) (by decide) (by decide)).symm
theorem crf_second : field w 11 3 = field (field w 11 5 : BitVec 5) 0 3 :=
  (field_field w (f := 11) (l := 5) (g := 0) (by decide) (by decide)).symm
theorem l_first : bitAt w 10 = bitAt (field w 6 5 : BitVec 5) 4 :=
  (bitAt_field w (first := 6) (k := 4) (by decide) (by decide)).symm
theorem sr_second : field w 12 4 = field (field w 11 5 : BitVec 5) 1 4 :=
  (field_field w (f := 11) (l := 5) (g := 1) (by decide) (by decide)).symm
theorem imm_third : field w 16 4 = field (field w 16 5 : BitVec 5) 0 4 :=
  (field_field w (f := 16) (l := 5) (g := 0) (by decide) (by decide)).symm
theorem crm_parts : field w 12 8 = (field (field w 11 5 : BitVec 5) 1 4 ++ field (field w 16 5 : BitVec 5) 0 4 : BitVec 8) := by
  rw [← sr_second, ← imm_third]
  exact (field_append_field w (f := 12) (l := 4) (m := 4) (by decide)).symm
theorem fm_parts : field w 7 8 = (field (field w 6 5 : BitVec 5) 1 4 ++ field (field w 11 5 : BitVec 5) 0 4 : BitVec 8) := by
  rw [field_field w (f := 6) (by decide) (by decide), field_field w (f := 11) (by decide) (by decide)]
  exact (field_append_field w (f := 7) (l := 4) (m := 4) (by decide)).symm
theorem xo_extended : field w 22 9 = field (field w 21 10 : BitVec 10) 1 9 :=
  (field_field w (f := 21) (l := 10) (g := 1) (by decide) (by decide)).symm
theorem lk_extended : bitAt w 30 = bitAt (field w 26 5 : BitVec 5) 4 :=
  (bitAt_field w (first := 26) (k := 4) (by decide) (by decide)).symm

end

/-! What the operands that do not fill a part put there: the rest of the part is reserved. -/

theorem crf_operand : ∀ a : BitVec 5, a = field a 0 3 ++ 0#2 ↔ a &&& 3#5 = 0#5 := by decide
theorem crf_l_operand : ∀ a : BitVec 5, a = field a 0 3 ++ 0#1 ++ ofBit (bitAt a 4) ↔ a &&& 2#5 = 0#5 := by decide
theorem low4_operand : ∀ a : BitVec 5, a = 0#1 ++ field a 1 4 ↔ a &&& 16#5 = 0#5 := by decide
theorem high4_operand : ∀ a : BitVec 5, a = field a 0 4 ++ 0#1 ↔ a &&& 1#5 = 0#5 := by decide
theorem oe_reserved (w : Word) : field w 21 5 &&& 16#5 = 0#5 ↔ bitAt w 21 = false := by
  have small : ∀ a : BitVec 5, a &&& 16#5 = 0#5 ↔ bitAt a 0 = false := by decide
  rw [small, bitAt_field w (by decide) (by decide)]
theorem sc_operand : ∀ a : BitVec 5, a = 1#5 ↔ bitAt a 4 = true ∧ a &&& 30#5 = 0#5 := by decide
theorem crf_read : ∀ x : BitVec 3, field (x ++ 0#2) 0 3 = x ∧ (x ++ 0#2) &&& 3#5 = 0#5 := by decide
theorem crf_l_read : ∀ (x : BitVec 3) (l : Bool), field (x ++ 0#1 ++ ofBit l) 0 3 = x ∧ bitAt (x ++ 0#1 ++ ofBit l) 4 = l ∧
    (x ++ 0#1 ++ ofBit l) &&& 2#5 = 0#5 := by decide
theorem low4_read : ∀ x : BitVec 4, field (0#1 ++ x) 1 4 = x ∧ (0#1 ++ x) &&& 16#5 = 0#5 := by decide
theorem high4_read : ∀ x : BitVec 4, field (x ++ 0#1) 0 4 = x ∧ (x ++ 0#1) &&& 1#5 = 0#5 := by decide
theorem halves_read (a b : BitVec 5) : field (a ++ b) 5 5 = b ∧ field (a ++ b) 0 5 = a :=
  ((field_eq_append_iff (a ++ b) (f := 0) (l := 5) (m := 5) (by decide) a b).1 (field_full _)).symm
theorem nibbles_read (a b : BitVec 4) : field (a ++ b) 4 4 = b ∧ field (a ++ b) 0 4 = a :=
  ((field_eq_append_iff (a ++ b) (f := 0) (l := 4) (m := 4) (by decide) a b).1 (field_full _)).symm
theorem nibbles_join (a : BitVec 8) : field a 0 4 ++ field a 4 4 = a :=
  (field_append_field a (f := 0) (l := 4) (m := 4) (by decide)).trans (field_full a)
theorem halves_join (a : BitVec 10) : field a 0 5 ++ field a 5 5 = a :=
  (field_append_field a (f := 0) (l := 5) (m := 5) (by decide)).trans (field_full a)
theorem and_ones (a : BitVec 5) : a &&& 31#5 = a := BitVec.and_allOnes

/-- No reserved bit is set: part by part (R445). -/
theorem and_eq_zero_iff (w m : Word) : w &&& m = 0#32 ↔ field w 0 6 &&& field m 0 6 = 0#6 ∧
    field w 6 5 &&& field m 6 5 = 0#5 ∧ field w 11 5 &&& field m 11 5 = 0#5 ∧ field w 16 5 &&& field m 16 5 = 0#5 ∧
    field w 21 5 &&& field m 21 5 = 0#5 ∧ field w 26 5 &&& field m 26 5 = 0#5 ∧ (bitAt w 31 && bitAt m 31) = false := by
  have zero : encX 0 0 0 0 (0#5 ++ 0#5) false = 0#32 := by decide
  rw [eq_comm, ← zero, encX_eq_iff, extended_eq_iff, field_and _ _ (by decide), field_and _ _ (by decide), field_and _ _ (by decide),
    field_and _ _ (by decide), field_and _ _ (by decide), field_and _ _ (by decide), bitAt_and, and_assoc]
  rfl

/-! ## A word that decodes to an instruction is its encoding -/

@[simp] theorem encodes_instr (w : Word) (i : Instr) : Encodes w (.instr i) ↔ encode i = w :=
  ⟨fun h => by cases h; rfl, fun h => h ▸ .instr i⟩

@[simp] theorem encodes_illegal (w : Word) : Encodes w .illegal := .illegal

@[simp] theorem encodes_checked (w m : Word) (n : String) (i : Instr) :
    Encodes w (checked w m n i) ↔ (w &&& m = 0#32 → encode i = w) := by
  unfold checked
  split
  · next none_set => simp [none_set]
  · next set => exact ⟨fun _ h => absurd h set, fun _ => .reservedField n i⟩

theorem decode19_encodes {w : Word} (op : field w 0 6 = 19#6) : Encodes w (decode19 w) := by
  unfold decode19
  split
  case h_14 => exact .illegal
  all_goals
    next x =>
    have xo := field_eq_ofNat x
    simp +contextual [encode, encX_eq_iff, and_eq_zero_iff, op, xo, bitAt_ofNat, and_ones,
      crf_first, crf_second, crf_operand]

theorem decode31xo_encodes {w : Word} (op : field w 0 6 = 31#6) : Encodes w (decode31xo w) := by
  unfold decode31xo
  split
  case h_17 => exact .illegal
  all_goals
    next x =>
    have xo := field_eq_ofNat x
    simp +contextual [encode, encXO_eq_iff, and_eq_zero_iff, op, xo, bitAt_ofNat, and_ones, oe_reserved]

theorem decode31_encodes {w : Word} (op : field w 0 6 = 31#6) : Encodes w (decode31 w) := by
  unfold decode31
  split
  case h_77 => exact decode31xo_encodes op
  all_goals
    next x =>
    have xo := field_eq_ofNat x
    simp +contextual [↓encode_mtcrf, encode, encX_eq_iff, and_eq_zero_iff, op, xo, bitAt_ofNat, and_ones, halves_read, crf_first,
      l_first, sr_second, crm_parts, crf_operand, crf_l_operand, low4_operand, high4_operand, nibbles_read]

theorem decode59_encodes {w : Word} (op : field w 0 6 = 59#6) : Encodes w (decode59 w) := by
  unfold decode59
  split
  case h_10 => exact .illegal
  all_goals
    next x =>
    have xo := field_eq_ofNat x
    simp +contextual [encode, encA_eq_iff, and_eq_zero_iff, op, xo, bitAt_ofNat, and_ones]

theorem decode63x_encodes {w : Word} (op : field w 0 6 = 63#6) : Encodes w (decode63x w) := by
  unfold decode63x
  split
  case h_16 => exact .illegal
  all_goals
    next x =>
    have xo := field_eq_ofNat x
    simp +contextual [↓encode_mtfsf, encode, encX_eq_iff, and_eq_zero_iff, op, xo, bitAt_ofNat, and_ones, crf_first, crf_second,
      imm_third, fm_parts, crf_operand, low4_operand, high4_operand, nibbles_read]

theorem decode63_encodes {w : Word} (op : field w 0 6 = 63#6) : Encodes w (decode63 w) := by
  unfold decode63
  split
  case h_11 => exact decode63x_encodes op
  all_goals
    next x =>
    have xo := field_eq_ofNat x
    simp +contextual [encode, encA_eq_iff, and_eq_zero_iff, op, xo, bitAt_ofNat, and_ones]

theorem decode17_encodes {w : Word} (op : field w 0 6 = 17#6) : Encodes w (decode17 w) := by
  have parts : encode .sc = encA 17 0 0 0 0 1 false := by decide
  unfold decode17
  split
  · next bit =>
    rw [lk_extended] at bit
    simp +contextual [parts, encA_eq_iff, and_eq_zero_iff, op, bit, bitAt_ofNat, and_ones, sc_operand]
  · exact .illegal

theorem decode_encodes (w : Word) : Encodes w (decode w) := by
  unfold decode
  split
  case h_50 => exact .illegal
  all_goals
    next x =>
    have op := field_eq_ofNat x
    simp +contextual [encode, ↓encode_b_eq_iff, ↓encode_bc_eq_iff, encD_eq_iff, encA_eq_iff, and_eq_zero_iff, op, bitAt_ofNat, crf_first, l_first, crf_l_operand,
      decode17_encodes, decode19_encodes, decode31_encodes, decode59_encodes, decode63_encodes]


theorem encA_reads (o : BitVec 6) (a b c d e : BitVec 5) (r : Bool) :
    field (encA o a b c d e r) 0 6 = o ∧ field (encA o a b c d e r) 6 5 = a ∧ field (encA o a b c d e r) 11 5 = b ∧
      field (encA o a b c d e r) 16 5 = c ∧ field (encA o a b c d e r) 21 5 = d ∧ field (encA o a b c d e r) 26 5 = e ∧
      bitAt (encA o a b c d e r) 31 = r :=
  (encA_eq_iff o a b c d e r _).1 rfl

theorem encXO_reads (a b c : BitVec 5) (e : Bool) (x : BitVec 9) (r : Bool) :
    field (encXO a b c e x r) 0 6 = 31#6 ∧ field (encXO a b c e x r) 6 5 = a ∧ field (encXO a b c e x r) 11 5 = b ∧
      field (encXO a b c e x r) 16 5 = c ∧ bitAt (encXO a b c e x r) 21 = e ∧ field (encXO a b c e x r) 22 9 = x ∧
      bitAt (encXO a b c e x r) 31 = r :=
  (encXO_eq_iff a b c e x r _).1 rfl

theorem encode_b_reads (li : BitVec 24) (aa lk : Bool) : field (encode (.b li aa lk)) 0 6 = 18#6 ∧
    field (encode (.b li aa lk)) 6 24 = li ∧ bitAt (encode (.b li aa lk)) 30 = aa ∧ bitAt (encode (.b li aa lk)) 31 = lk :=
  (encode_b_eq_iff li aa lk _).1 rfl

theorem encode_bc_reads (bo bi : Reg) (bd : BitVec 14) (aa lk : Bool) : field (encode (.bc bo bi bd aa lk)) 0 6 = 16#6 ∧
    field (encode (.bc bo bi bd aa lk)) 6 5 = bo ∧ field (encode (.bc bo bi bd aa lk)) 11 5 = bi ∧
    field (encode (.bc bo bi bd aa lk)) 16 14 = bd ∧ bitAt (encode (.bc bo bi bd aa lk)) 30 = aa ∧
    bitAt (encode (.bc bo bi bd aa lk)) 31 = lk :=
  (encode_bc_eq_iff bo bi bd aa lk _).1 rfl


@[simp] theorem encX_xo (o : BitVec 6) (a b c : BitVec 5) (x : BitVec 10) (r : Bool) :
    field (encX o a b c x r) 22 9 = field x 1 9 := by rw [xo_extended, encX_extended]

@[simp] theorem encX_extendedHigh (o : BitVec 6) (a b c : BitVec 5) (x : BitVec 10) (r : Bool) :
    field (encX o a b c x r) 21 5 = field x 0 5 := by
  rw [← field_field (encX o a b c x r) (f := 21) (l := 10) (by decide) (by decide : 0 + 5 ≤ 10), encX_extended]

@[simp] theorem encX_extendedLow (o : BitVec 6) (a b c : BitVec 5) (x : BitVec 10) (r : Bool) :
    field (encX o a b c x r) 26 5 = field x 5 5 := by
  rw [← field_field (encX o a b c x r) (f := 21) (l := 10) (by decide) (by decide : 5 + 5 ≤ 10), encX_extended]

theorem encode_sc_opcode : field (encode .sc) 0 6 = 17#6 := by decide

/-! ### Each part of the decoder, on the instructions it is for -/

theorem decode19_encode (i : Instr) (op : field (encode i) 0 6 = 19#6) : decode19 (encode i) = .instr i := by
  cases i
  all_goals
    simp [encode, ↓encode_b_reads, ↓encode_bc_reads, ↓encode_sc_opcode, ↓encode_mtcrf, ↓encode_mtfsf, encA_reads,
      encXO_reads] at op
  all_goals
    simp [encode, decode19, checked, and_eq_zero_iff, crf_first, crf_second, crf_read, bitAt_ofNat]

/-- The extended opcodes of the XO format (R448). -/
def xoNumbers : List Nat := [266, 40, 10, 8, 138, 136, 234, 232, 202, 200, 104, 235, 75, 11, 491, 459]

/-- No extended opcode of ten bits ends in one of nine bits. -/
theorem decode31_eq_decode31xo {w : Word} (xo : (field w 22 9).toNat ∈ xoNumbers) : decode31 w = decode31xo w := by
  unfold decode31
  split
  case h_77 => rfl
  all_goals
    next x =>
    rw [xo_extended, field_eq_ofNat x] at xo
    exact absurd xo (by decide)

theorem decode31xo_encode (i : Instr) (op : field (encode i) 0 6 = 31#6) (xo : (field (encode i) 22 9).toNat ∈ xoNumbers) :
    decode31xo (encode i) = .instr i := by
  cases i
  all_goals
    simp [encode, ↓encode_b_reads, ↓encode_bc_reads, ↓encode_sc_opcode, ↓encode_mtcrf, ↓encode_mtfsf, encA_reads,
      encXO_reads] at op
  all_goals
    simp [encode, ↓encode_mtcrf, encXO_reads, xoNumbers] at xo
  all_goals
    simp [encode, decode31xo, checked, and_eq_zero_iff, oe_reserved, encXO_reads, bitAt_ofNat]

theorem decode31_encode (i : Instr) (op : field (encode i) 0 6 = 31#6) : decode31 (encode i) = .instr i := by
  by_cases xo : (field (encode i) 22 9).toNat ∈ xoNumbers
  · rw [decode31_eq_decode31xo xo, decode31xo_encode i op xo]
  cases i
  all_goals
    simp [encode, ↓encode_b_reads, ↓encode_bc_reads, ↓encode_sc_opcode, ↓encode_mtcrf, ↓encode_mtfsf, encA_reads,
      encXO_reads] at op
  all_goals
    simp [encode, ↓encode_mtcrf, encXO_reads, xoNumbers] at xo
  all_goals
    simp only [encode, ↓encode_mtcrf]
    rw [decode31, encX_extended]
    first
    | change Decoded.instr _ = _
      simp only [encX_first, encX_second, encX_third, encX_record, halves_join]
    | change checked _ _ _ _ = _
      simp [checked, and_eq_zero_iff, crf_first, l_first, sr_second, crm_parts, crf_read, crf_l_read, low4_read,
        high4_read, halves_join, nibbles_join, bitAt_ofNat]

theorem decode59_encode (i : Instr) (op : field (encode i) 0 6 = 59#6) : decode59 (encode i) = .instr i := by
  cases i
  all_goals
    simp [encode, ↓encode_b_reads, ↓encode_bc_reads, ↓encode_sc_opcode, ↓encode_mtcrf, ↓encode_mtfsf, encA_reads,
      encXO_reads] at op
  all_goals
    simp [encode, decode59, checked, and_eq_zero_iff, encA_reads, bitAt_ofNat]

theorem decode63_encode (i : Instr) (op : field (encode i) 0 6 = 63#6) : decode63 (encode i) = .instr i := by
  cases i
  all_goals
    simp [encode, ↓encode_b_reads, ↓encode_bc_reads, ↓encode_sc_opcode, ↓encode_mtcrf, ↓encode_mtfsf, encA_reads,
      encXO_reads] at op
  all_goals
    simp [encode, ↓encode_mtfsf, decode63, decode63x, checked, and_eq_zero_iff, encA_reads, crf_first, crf_second, imm_third,
      fm_parts, crf_read, low4_read, high4_read, nibbles_join, bitAt_ofNat]

theorem decode_eq_decode31 {w : Word} (op : field w 0 6 = 31#6) : decode w = decode31 w := by
  rw [decode, op]
  rfl

theorem decode_encode (i : Instr) : decode (encode i) = .instr i := by
  by_cases op19 : field (encode i) 0 6 = 19#6
  · rw [decode, op19]
    exact decode19_encode i op19
  by_cases op31 : field (encode i) 0 6 = 31#6
  · rw [decode, op31]
    exact decode31_encode i op31
  by_cases op59 : field (encode i) 0 6 = 59#6
  · rw [decode, op59]
    exact decode59_encode i op59
  by_cases op63 : field (encode i) 0 6 = 63#6
  · rw [decode, op63]
    exact decode63_encode i op63
  cases i
  case b => simp [decode, encode_b_reads]
  case bc => simp [decode, encode_bc_reads]
  case sc => decide
  all_goals
    simp [encode, encXO_reads, encA_reads, ↓encode_mtcrf, ↓encode_mtfsf] at op19 op31 op59 op63
  all_goals
    simp [encode, decode, checked, and_eq_zero_iff, encA_reads, crf_first, l_first, crf_l_read, bitAt_ofNat]

/-- Settles O57, by the decoder's own case split: each word it answers an instruction for is that instruction's encoding
(`decode_encodes`), and each part of the decoder reads back the operands of the formats it is for (`decode_encode`). -/
theorem decodeAndEncodeAgree : Obligations.DecodeAndEncodeAgree := by
  refine ⟨fun i _ => decode_encode i, fun w i h => ?_⟩
  have e := decode_encodes w
  rw [h] at e
  exact (encodes_instr w i).mp e

end Sys2Proof
end

section
/-! PROOF. O59 and O60: what an instruction can do to the invariant and to supervisor state. Every instruction either moves
user-level state (`UserStep`), or takes an exception (`EntryStep`), or, in supervisor mode, keeps the invariant; then a step does (O58 too). -/

namespace Sys2Proof.Machine

/-- `t` is `s` but for what an instruction may change in user mode without an exception; the invariant is kept. -/
structure UserStep (s t : State) : Prop where
  frame : t = { s with
    gpr := t.gpr, fpr := t.fpr, fprInit := t.fprInit, cr := t.cr, fpscr := t.fpscr, xer := t.xer, lr := t.lr, ctr := t.ctr
    pc := t.pc, caches := t.caches, mem := t.mem, latch := t.latch, freeCtr := t.freeCtr, busLog := t.busLog
    storeQueue := t.storeQueue, supply := t.supply, resv := t.resv, seen := t.seen, ctx := t.ctx, fetch := t.fetch
    hid := { s.hid with l2cr := t.hid.l2cr }
    mmu := { s.mmu with itlb := t.mmu.itlb, dtlb := t.mmu.dtlb } }
  alone : Alone s → Alone t ∧ t.hid = s.hid
  kept : Invariant s → Invariant t

/-- `t` is reached from `s` by an exception, perhaps after part of an instruction. -/
structure EntryStep (s t : State) : Prop where
  taken : t.excTaken = true
  supervisor : msrPr t = false
  kept : Invariant s → Invariant t

/-- What an instruction can do in either mode. -/
def Confined (s t : State) : Prop := UserStep s t ∨ EntryStep s t

/-! ## Moves of user-level state -/

namespace UserStep

theorem refl (s : State) : UserStep s s := ⟨rfl, fun h => ⟨h, rfl⟩, id⟩

theorem trans {s t u : State} (h : UserStep s t) (k : UserStep t u) : UserStep s u := by
  have h1 := h.frame
  have k1 := k.frame
  refine ⟨by rw [k1, h1], fun a => ?_, k.kept ∘ h.kept⟩
  obtain ⟨a1, d1⟩ := h.alone a
  obtain ⟨a2, d2⟩ := k.alone a1
  exact ⟨a2, d2.trans d1⟩

/-- The registers that no part of the invariant is about. -/
theorem registers (s : State) (g : Vector Word 32) (f : Vector DWord 32) (i : BitVec 32) (c l k : Word) (n : Nat)
    (r : Reservation) (seen : Seen) :
    UserStep s { s with gpr := g, fpr := f, fprInit := i, cr := c, lr := l, ctr := k, freeCtr := n, resv := r, seen := seen } :=
  ⟨rfl, fun h => ⟨h, rfl⟩, fun h => h.congr rfl rfl rfl h.msr h.pc⟩

theorem withXer {s : State} {x : Word} (h : Invariant s → x &&& ~~~ xerMask = 0) : UserStep s { s with xer := x } :=
  ⟨rfl, fun h => ⟨h, rfl⟩, fun inv => ⟨inv.memory, inv.pc, inv.msr, h inv, inv.fpscr⟩⟩

theorem withFpscr {s : State} {f : Word} (h : fpSummary f = f) : UserStep s { s with fpscr := f } :=
  ⟨rfl, fun h => ⟨h, rfl⟩, fun inv => ⟨inv.memory, inv.pc, inv.msr, inv.xer, h⟩⟩

theorem withPc {s : State} {a : Word} (h : Invariant s → field a 30 2 = (0 : BitVec 2)) : UserStep s { s with pc := a } :=
  ⟨rfl, fun h => ⟨h, rfl⟩, fun inv => ⟨inv.memory, h inv, inv.msr, inv.xer, inv.fpscr⟩⟩

end UserStep

theorem MemSide.userStep {s t : State} (h : MemSide s t) : UserStep s t := by
  refine ⟨?_, fun a => ?_, fun inv => ?_⟩
  · have e := h.eqn
    have f := h.fetch
    rw [e]
  · obtain ⟨alone, -, hid⟩ := h.cpu.alone a
    exact ⟨alone, hid⟩
  · have msr : MsrLegal t := by simpa only [MsrLegal, h.msr] using inv.msr
    have pc : PcAligned t := by simpa only [PcAligned, h.pc] using inv.pc
    exact ⟨h.mem inv.memory, pc, msr, by simpa only [XerLegal, h.xer] using inv.xer,
      by simpa only [FpscrLegal, h.fpscr] using inv.fpscr⟩

/-- A word address is a multiple of four. -/
theorem aligned_iff (a : Word) : field a 30 2 = (0 : BitVec 2) ↔ a.toNat % 4 = 0 := by
  rw [← BitVec.toNat_inj, field_toNat]
  simp

/-- The word after a word address is one. -/
theorem field_add_four {a : Word} (h : field a 30 2 = (0 : BitVec 2)) : field (a + 4) 30 2 = (0 : BitVec 2) := by
  rw [aligned_iff] at h ⊢
  rw [BitVec.toNat_add]
  have four : (4 : Word).toNat = 4 := rfl
  omega

theorem field_word_and (a : Word) : field (a &&& 0xFFFFFFFC) 30 2 = (0 : BitVec 2) := by
  apply eq_of_bitAt
  intro k hk
  rw [bitAt_field _ (by decide) hk, bitAt_and]
  have low : bitAt (0xFFFFFFFC : Word) (30 + k) = false := by
    have : k = 0 ∨ k = 1 := by omega
    rcases this with rfl | rfl <;> decide
  rw [low, Bool.and_false]
  simp [bitAt]

theorem advance_userStep (s : State) : UserStep s (advance s) := .withPc fun inv => field_add_four inv.pc

/-! ## Entries -/

theorem EntryStep.after {s u t : State} (h : UserStep s u) (k : EntryStep u t) : EntryStep s t :=
  ⟨k.taken, k.supervisor, k.kept ∘ h.kept⟩

theorem Confined.after {s u t : State} (h : UserStep s u) (k : Confined u t) : Confined s t :=
  k.imp h.trans (EntryStep.after h)

/-- After any entry the invariant holds, its vector being a word address. -/
theorem Entered.kept {s t : State} {vec a info : Word} (h : Entered s t vec a info)
    (aligned : field vec 30 2 = (0 : BitVec 2)) (inv : Invariant s) : Invariant t := by
  have pc : PcAligned t := by
    unfold PcAligned
    rw [h.pc]
    have high : (0xFFF00000 : Word).toNat = 0xFFF00000 := rfl
    have low : (0 : Word).toNat = 0 := rfl
    rw [aligned_iff] at aligned ⊢
    rw [BitVec.toNat_add]
    split <;> omega
  exact inv.congr (by rw [h.frame]) (by rw [h.frame]) (by rw [h.frame]) h.msrLegal pc

theorem Entered.entryStep {s u t : State} {vec a info : Word} (h : Entered u t vec a info)
    (aligned : field vec 30 2 = (0 : BitVec 2)) (k : Invariant s → Invariant u) : EntryStep s t :=
  ⟨by rw [h.frame], h.supervisor, fun inv => h.kept aligned (k inv)⟩

theorem withDar_kept {s : State} (dar dsisr : Word) (inv : Invariant s) : Invariant (withDar s dar dsisr) :=
  inv.congr rfl rfl rfl inv.msr inv.pc

theorem takeDsi_entryStep (dar dsisr : Word) (s : State) : EntryStep s (takeDsi dar dsisr s) :=
  (takeDsi_entered dar dsisr s).entryStep (by decide) (withDar_kept dar dsisr)

theorem takeAlignment_entryStep (dar dsisr : Word) (s : State) : EntryStep s (takeAlignment dar dsisr s) :=
  (takeAlignment_entered dar dsisr s).entryStep (by decide) (withDar_kept dar dsisr)

theorem takeException_entryStep {vec : Word} (aligned : field vec 30 2 = (0 : BitVec 2)) (a info : Word) (s : State) :
    EntryStep s (takeException vec a info s) := (takeException_entered vec a info s).entryStep aligned id

theorem takeProgram_entryStep (info : Word) (s : State) : EntryStep s (takeProgram info s) :=
  takeException_entryStep (by decide) _ _ _

theorem DsiFrom.entryStep {s t : State} (h : DsiFrom s t) : EntryStep s t := by
  obtain ⟨u, dar, dsisr, side, rfl⟩ := h
  exact (takeDsi_entryStep dar dsisr u).after side.userStep

/-! ## Outcomes of instructions -/

/-- What an instruction can do: as in user mode, or in supervisor mode anything that keeps the invariant. -/
def Allowed (s t : State) : Prop := Confined s t ∨ (msrPr s = false ∧ (Invariant s → Invariant t))

theorem Keeps.allowed {s : State} {o : Out} (h : Keeps o (Confined s)) : Keeps o (Allowed s) := fun t e => .inl (h t e)

theorem keeps_next {P : State → Prop} {t : State} (h : P t) : Keeps (.next t) P := fun _ e => by cases e; exact h

@[simp] theorem keeps_refused (P : State → Prop) (r : Refusal) : Keeps (.refused r) P := fun _ e => nomatch e

@[simp] theorem keeps_fault (P : State → Prop) (f : Fault) : Keeps (.fault f) P := fun _ e => nomatch e

/-- An instruction's end, its user-level state moved. -/
theorem UserStep.nextInstr {s u : State} (h : UserStep s u) : Keeps (nextInstr u) (Confined s) :=
  keeps_next (.inl (h.trans (advance_userStep u)))

theorem EntryStep.next {s t : State} (h : EntryStep s t) : Keeps (.next t) (Confined s) := keeps_next (.inr h)

theorem Keeps.after {s u : State} {o : Out} (h : UserStep s u) (k : Keeps o (Confined u)) : Keeps o (Confined s) :=
  fun t e => (k t e).after h

theorem keeps_finish {α : Type} {s : State} {r : Res α} {f : α → State → Out} (h : ResSide s r)
    (k : ∀ a u, UserStep s u → Keeps (f a u) (Confined s)) : Keeps (finish r f) (Confined s) := by
  cases r with
  | ok a u => exact k a u (MemSide.userStep h)
  | exc u => exact (DsiFrom.entryStep h).next
  | fault e => exact keeps_fault _ _

theorem keeps_ite {c : Prop} [Decidable c] {o q : Out} {P : State → Prop} (h : Keeps o P) (k : Keeps q P) :
    Keeps (if c then o else q) P := by
  split
  · exact h
  · exact k

theorem keeps_needsFp {s : State} {o : Out} (h : Keeps o (Confined s)) : Keeps (needsFp s o) (Confined s) :=
  keeps_ite h (takeException_entryStep (by decide) _ _ _).next

theorem keeps_needsWordAligned {s : State} {ea dsisr : Word} {o : Out} (h : Keeps o (Confined s)) :
    Keeps (needsWordAligned ea dsisr s o) (Confined s) :=
  keeps_ite h (takeAlignment_entryStep _ _ _).next

theorem keeps_privileged {s : State} {o : Out} (h : msrPr s = false → Keeps o (Allowed s)) :
    Keeps (privileged s o) (Allowed s) := by
  unfold privileged
  split
  · exact (takeProgram_entryStep _ _).next.allowed
  · next user => exact h (by simpa using user)

/-! ## Register writes -/

theorem gprSet_userStep (s : State) (r : Reg) (v : Word) : UserStep s (gprSet s r v) := .registers s _ _ _ _ _ _ _ _ _

theorem fprSet_userStep (s : State) (r : Reg) (v : DWord) : UserStep s (fprSet s r v) := .registers s _ _ _ _ _ _ _ _ _

theorem setCrField_userStep (n : CrField) (v : BitVec 4) (s : State) : UserStep s (setCrField n v s) :=
  .registers s _ _ _ _ _ _ _ _ _

theorem fresh_userStep (w : Nat) (s : State) : UserStep s (fresh w s).2 := .registers s _ _ _ _ _ _ _ _ _

/-- The bits outside a mask are 0. -/
theorem and_not_eq_zero_iff (x m : Word) : x &&& ~~~ m = 0 ↔ ∀ k < 32, bitAt m k = false → bitAt x k = false := by
  have zero (k : Nat) : bitAt (0 : Word) k = false := by simp [bitAt]
  constructor
  · intro h k hk clear
    have bit := congrArg (bitAt · k) h
    simpa only [bitAt_and, bitAt_not _ hk, clear, zero, Bool.not_false, Bool.and_true] using bit
  · intro h
    apply eq_of_bitAt
    intro k hk
    rw [bitAt_and, bitAt_not _ hk, zero]
    cases e : bitAt m k
    · rw [h k hk e, Bool.false_and]
    · exact Bool.and_false _

theorem setBit_legal {x m : Word} {i : Nat} (b : Bool) (inside : bitAt m i = true) (h : x &&& ~~~ m = 0) :
    setBit x i b &&& ~~~ m = 0 := by
  rw [and_not_eq_zero_iff] at h ⊢
  intro k hk clear
  rw [bitAt_setBit _ _ _ hk]
  split
  · next e => exact absurd (e ▸ clear) (by simp [inside])
  · exact h k hk clear

theorem setCa_userStep (c : Bool) (s : State) : UserStep s (setCa c s) :=
  .withXer fun inv => setBit_legal c (by decide) inv.xer

theorem setOv_userStep (v : Bool) (s : State) : UserStep s (setOv v s) :=
  .withXer fun inv => setBit_legal _ (by decide) (setBit_legal v (by decide) inv.xer)

theorem userStep_ite {c : Prop} [Decidable c] {s u : State} (h : UserStep s u) : UserStep s (if c then u else s) := by
  split
  · exact h
  · exact .refl s

theorem recordIf_userStep (rc : Bool) (r : Word) (s : State) : UserStep s (recordIf rc r s) := by
  cases rc
  · exact .refl s
  · exact setCrField_userStep _ _ _

theorem recordAny_userStep (rc : Bool) (s : State) : UserStep s (recordAny rc s) := by
  cases rc
  · exact .refl s
  · exact (fresh_userStep 4 s).trans (setCrField_userStep _ _ _)

theorem recordFp_userStep (rc : Bool) (s : State) : UserStep s (recordFp rc s) := by
  cases rc
  · exact .refl s
  · exact setCrField_userStep _ _ _

/-! ## Integer instructions -/

theorem addInto_keeps (rD : Reg) (x y : Word) (c ca oe rc : Bool) (s : State) :
    Keeps (addInto rD x y c ca oe rc s) (Confined s) :=
  ((((gprSet_userStep s rD _).trans (userStep_ite (setCa_userStep _ _))).trans (userStep_ite (setOv_userStep _ _))).trans
    (recordIf_userStep rc _ _)).nextInstr

theorem resultInto_keeps (rD : Reg) (r : Word) (ovf oe rc : Bool) (s : State) :
    Keeps (resultInto rD r ovf oe rc s) (Confined s) :=
  (((gprSet_userStep s rD r).trans (userStep_ite (setOv_userStep ovf _))).trans (recordIf_userStep rc r _)).nextInstr

theorem undefinedQuotient_keeps (rD : Reg) (oe rc : Bool) (s : State) :
    Keeps (undefinedQuotient rD oe rc s) (Confined s) := by
  have quotient := (fresh_userStep 32 s).trans (gprSet_userStep _ rD (fresh 32 s).1)
  have flags := quotient.trans (userStep_ite (c := oe = true) (setOv_userStep true _))
  unfold undefinedQuotient
  dsimp only
  split
  · exact ((flags.trans (fresh_userStep 3 _)).trans (setCrField_userStep _ _ _)).nextInstr
  · exact flags.nextInstr

theorem logicInto_keeps (rA : Reg) (r : Word) (rc : Bool) (s : State) : Keeps (logicInto rA r rc s) (Confined s) :=
  ((gprSet_userStep s rA r).trans (recordIf_userStep rc r _)).nextInstr

theorem shiftInto_keeps (rA : Reg) (r : Word) (ca rc : Bool) (s : State) : Keeps (shiftInto rA r ca rc s) (Confined s) :=
  (((gprSet_userStep s rA r).trans (setCa_userStep ca _)).trans (recordIf_userStep rc r _)).nextInstr

theorem compare_keeps (l : Bool) (m : Refusal) (n : CrField) (c : BitVec 3) (s : State) :
    Keeps (if l then .refused m else nextInstr (setCompare n c s)) (Confined s) :=
  keeps_ite (keeps_refused _ _) (setCrField_userStep _ _ _).nextInstr

/-! ## Loads and stores -/

theorem loadOp_keeps (ea : Word) (n : Nat) (rc : Bool) {f : List Byte → State → State} (s : State)
    (h : ∀ bs u, UserStep u (f bs u)) : Keeps (loadOp ea n rc f s) (Confined s) :=
  keeps_finish (dataLoad_side ea n s) fun bs u side => ((side.trans (h bs u)).trans (recordAny_userStep rc _)).nextInstr

theorem storeOp_keeps (ea : Word) (bs : List Byte) (rc : Bool) {f : State → State} (s : State)
    (h : ∀ u, UserStep u (f u)) : Keeps (storeOp ea bs rc f s) (Confined s) :=
  keeps_finish (dataStore_side ea bs s) fun _ u side => ((side.trans (h u)).trans (recordAny_userStep rc _)).nextInstr

theorem intoGpr_userStep (rD : Reg) (conv : List Byte → Word) (bs : List Byte) (u : State) :
    UserStep u (intoGpr rD conv bs u) := gprSet_userStep _ _ _

theorem intoGprU_userStep (rD rA : Reg) (ea : Word) (conv : List Byte → Word) (bs : List Byte) (u : State) :
    UserStep u (intoGprU rD rA ea conv bs u) := (gprSet_userStep _ _ _).trans (gprSet_userStep _ _ _)

theorem intoFpr_userStep (frD : Reg) (conv : List Byte → DWord) (bs : List Byte) (u : State) :
    UserStep u (intoFpr frD conv bs u) := fprSet_userStep _ _ _

theorem intoFprU_userStep (frD rA : Reg) (ea : Word) (conv : List Byte → DWord) (bs : List Byte) (u : State) :
    UserStep u (intoFprU frD rA ea conv bs u) := (fprSet_userStep _ _ _).trans (gprSet_userStep _ _ _)

theorem updateBase_userStep (rA : Reg) (ea : Word) (u : State) : UserStep u (updateBase rA ea u) := gprSet_userStep _ _ _

theorem load_keeps (rD : Reg) (conv : List Byte → Word) (ea : Word) (n : Nat) (rc : Bool) (s : State) :
    Keeps (loadOp ea n rc (intoGpr rD conv) s) (Confined s) := loadOp_keeps _ _ _ _ (intoGpr_userStep rD conv)

theorem loadUpdate_keeps (m : String) (rD rA : Reg) (conv : List Byte → Word) (ea : Word) (n : Nat) (rc : Bool) (s : State) :
    Keeps (updateLoadForm m rD rA (loadOp ea n rc (intoGprU rD rA ea conv) s)) (Confined s) :=
  keeps_ite (keeps_refused _ _) (loadOp_keeps _ _ _ _ (intoGprU_userStep rD rA ea conv))

theorem store_keeps (bs : List Byte) (ea : Word) (rc : Bool) (s : State) : Keeps (storeOp ea bs rc id s) (Confined s) :=
  storeOp_keeps _ _ _ _ .refl

theorem storeUpdate_keeps (m : String) (rA : Reg) (bs : List Byte) (ea : Word) (rc : Bool) (s : State) :
    Keeps (updateForm m rA (storeOp ea bs rc (updateBase rA ea) s)) (Confined s) :=
  keeps_ite (keeps_refused _ _) (storeOp_keeps _ _ _ _ (updateBase_userStep rA ea))

theorem fpLoadOp_keeps (ea dsisr : Word) (n : Nat) (rc : Bool) {f : List Byte → State → State} (s : State)
    (h : ∀ bs u, UserStep u (f bs u)) : Keeps (fpLoadOp ea dsisr n rc f s) (Confined s) :=
  keeps_needsFp (keeps_needsWordAligned (loadOp_keeps _ _ _ _ h))

theorem fpLoad_keeps (frD : Reg) (conv : List Byte → DWord) (ea dsisr : Word) (n : Nat) (rc : Bool) (s : State) :
    Keeps (fpLoadOp ea dsisr n rc (intoFpr frD conv) s) (Confined s) := fpLoadOp_keeps _ _ _ _ _ (intoFpr_userStep frD conv)

theorem fpLoadUpdate_keeps (m : String) (frD rA : Reg) (conv : List Byte → DWord) (ea dsisr : Word) (n : Nat) (rc : Bool)
    (s : State) :
    Keeps (needsFp s (updateForm m rA (fpLoadOp ea dsisr n rc (intoFprU frD rA ea conv) s))) (Confined s) :=
  keeps_needsFp (keeps_ite (keeps_refused _ _) (fpLoadOp_keeps _ _ _ _ _ (intoFprU_userStep frD rA ea conv)))

theorem unsetStore_keeps (m : String) (ea : Word) (conv : DWord → List Byte) (s : State) :
    Keeps (unsetStore m ea conv s) (Confined s) :=
  (keeps_finish (dataStore_side _ _ _) fun _ _ _ => keeps_refused _ _).after (fresh_userStep 64 s)

theorem fpStoreOp_keeps (m : String) (ea dsisr : Word) (frS : Reg) (conv : DWord → List Byte) (rc : Bool) {f : State → State}
    (s : State) (h : ∀ u, UserStep u (f u)) : Keeps (fpStoreOp m ea dsisr frS conv rc f s) (Confined s) :=
  keeps_needsFp (keeps_needsWordAligned (keeps_ite (storeOp_keeps _ _ _ _ h) (unsetStore_keeps _ _ _ _)))

theorem fpStore_keeps (m : String) (ea dsisr : Word) (frS : Reg) (conv : DWord → List Byte) (rc : Bool) (s : State) :
    Keeps (fpStoreOp m ea dsisr frS conv rc id s) (Confined s) := fpStoreOp_keeps _ _ _ _ _ _ _ .refl

theorem fpStoreUpdate_keeps (m m' : String) (rA : Reg) (ea dsisr : Word) (frS : Reg) (conv : DWord → List Byte) (rc : Bool)
    (s : State) :
    Keeps (needsFp s (updateForm m rA (fpStoreOp m' ea dsisr frS conv rc (updateBase rA ea) s))) (Confined s) :=
  keeps_needsFp (keeps_ite (keeps_refused _ _) (fpStoreOp_keeps _ _ _ _ _ _ _ (updateBase_userStep rA ea)))

/-! ### Multiple and string -/

/-- A part of an instruction goes on with user-level state moved, or has taken an exception. -/
def ResKeeps {α : Type} (s : State) : Res α → Prop
  | .ok _ t => UserStep s t
  | .exc t => EntryStep s t
  | .fault _ => True

theorem ResSide.resKeeps {α : Type} {s : State} {r : Res α} (h : ResSide s r) : ResKeeps s r := by
  cases r with
  | ok a t => exact MemSide.userStep h
  | exc t => exact DsiFrom.entryStep h
  | fault f => trivial

theorem ResKeeps.after {α : Type} {s u : State} {r : Res α} (h : UserStep s u) (k : ResKeeps u r) : ResKeeps s r := by
  cases r with
  | ok a t => exact h.trans k
  | exc t => exact EntryStep.after h k
  | fault f => trivial

theorem andThen_keeps {α β : Type} {s : State} {r : Res α} {f : α → State → Res β} (h : ResKeeps s r)
    (k : ∀ a t, ResKeeps t (f a t)) : ResKeeps s (andThen r f) := by
  cases r with
  | ok a t => exact (k a t).after h
  | exc t => exact h
  | fault e => trivial

theorem ResKeeps.finish {α : Type} {s : State} {r : Res α} {f : α → State → Out} (h : ResKeeps s r)
    (k : ∀ a u, UserStep s u → Keeps (f a u) (Confined s)) : Keeps (finish r f) (Confined s) := by
  cases r with
  | ok a u => exact k a u h
  | exc u => exact EntryStep.next h
  | fault e => exact keeps_fault _ _

theorem loadWords_keeps (ea : Word) (rs : List Reg) (s : State) : ResKeeps s (loadWords ea rs s) := by
  induction rs generalizing ea s with
  | nil => exact .refl s
  | cons r rs ih =>
    exact andThen_keeps (dataLoad_side ea 4 s).resKeeps fun bs u => (ih _ _).after (gprSet_userStep u r (zeroed bs))

theorem stringLoad_keeps (r : Reg) (ks : List Nat) (ea : Word) (s : State) : ResKeeps s (stringLoad r ks ea s) := by
  induction ks generalizing r ea s with
  | nil => exact .refl s
  | cons k ks ih =>
    exact andThen_keeps (dataLoad_side ea k s).resKeeps fun bs u => (ih _ _ _).after (gprSet_userStep u r (highBytes bs))

theorem mixRegs_eq (old : Vector Word 32) (s : State) : ∃ g n, mixRegs old s = { s with gpr := g, freeCtr := n } :=
  ⟨_, _, rfl⟩

theorem EntryStep.withGprs {s t : State} (h : EntryStep s t) (g : Vector Word 32) (n : Nat) :
    EntryStep s { t with gpr := g, freeCtr := n } :=
  ⟨h.taken, h.supervisor, fun inv => (h.kept inv).congr rfl rfl rfl (h.kept inv).msr (h.kept inv).pc⟩

/-- A DSI whose registers are then mixed is still an entry: the MSR and the windows are those of the entry. -/
theorem abandon_keeps {α : Type} {s : State} (old : Vector Word 32) {r : Res α} (h : ResKeeps s r) :
    ResKeeps s (abandon old r) := by
  cases r with
  | ok a t => exact h
  | exc t =>
    obtain ⟨g, n, e⟩ := mixRegs_eq old t
    show EntryStep s (mixRegs old t)
    rw [e]
    exact EntryStep.withGprs h g n
  | fault e => trivial

theorem lmw_keeps (rD : Reg) (d : BitVec 16) (rA : Reg) (s : State) : Keeps (execLmw rD d rA s) (Confined s) :=
  keeps_ite (keeps_refused _ _) (keeps_ite (takeAlignment_entryStep _ _ _).next (keeps_needsWordAligned
    ((abandon_keeps _ (loadWords_keeps _ _ s)).finish fun _ _ h => h.nextInstr)))

theorem stmw_keeps (rS : Reg) (d : BitVec 16) (rA : Reg) (s : State) : Keeps (execStmw rS d rA s) (Confined s) :=
  keeps_ite (takeAlignment_entryStep _ _ _).next (keeps_needsWordAligned
    (keeps_finish (storePieces_side _ _ s) fun _ _ h => h.nextInstr))

theorem keeps_stringCheck {ea dsisr : Word} {n : Nat} {s : State} {o : Out} (h : Keeps o (Confined s)) :
    Keeps (stringCheck ea dsisr n s o) (Confined s) :=
  keeps_ite (takeAlignment_entryStep _ _ _).next (keeps_ite (takeAlignment_entryStep _ _ _).next h)

theorem stringLoadOp_keeps (ea dsisr : Word) (n : Nat) (rD : Reg) (rc : Bool) (s : State) :
    Keeps (stringLoadOp ea dsisr n rD rc s) (Confined s) :=
  keeps_stringCheck ((abandon_keeps _ (stringLoad_keeps _ _ _ s)).finish fun _ _ h =>
    (h.trans (recordAny_userStep rc _)).nextInstr)

theorem stringStoreOp_keeps (ea dsisr : Word) (n : Nat) (rS : Reg) (rc : Bool) (s : State) :
    Keeps (stringStoreOp ea dsisr n rS rc s) (Confined s) :=
  keeps_stringCheck (keeps_finish (storePieces_side _ _ s) fun _ _ h => (h.trans (recordAny_userStep rc _)).nextInstr)

theorem lswx_keeps (rD rA rB : Reg) (rc : Bool) (s : State) : Keeps (execLswx rD rA rB rc s) (Confined s) :=
  keeps_ite (keeps_refused _ _) (keeps_ite (keeps_stringCheck
    (((fresh_userStep 32 s).trans (gprSet_userStep _ _ _)).trans (recordAny_userStep rc _)).nextInstr)
    (stringLoadOp_keeps _ _ _ _ _ _))

/-! ### The reservation -/

theorem reserve_userStep (pa : Word) (s : State) : UserStep s (reserve pa s) := .registers s _ _ _ _ _ _ _ _ _

theorem lwarx_keeps (rD rA rB : Reg) (rc : Bool) (s : State) : Keeps (execLwarx rD rA rB rc s) (Confined s) := by
  refine keeps_needsWordAligned (keeps_finish ((dataAccess_side _ _ _ _ _ _).after (newUse_side s)) fun t u h => ?_)
  generalize eaX s rA rB = ea
  dsimp only
  have reserved := h.trans (reserve_userStep (spanByte t ea ea u).1 u)
  generalize reserve _ u = v at reserved ⊢
  have read := reserved.trans (readList_side t ea (byteEas ea 4) v).userStep
  generalize readList t ea _ v = p at read ⊢
  exact ((read.trans (gprSet_userStep _ _ _)).trans (recordAny_userStep rc _)).nextInstr

theorem condEnd_keeps (rc stored : Bool) (s : State) : Keeps (condEnd rc stored s) (Confined s) := by
  have noted : UserStep s (unreserve { s with seen := { s.seen with stored := stored } }) := .registers s _ _ _ _ _ _ _ _ _
  unfold condEnd condRecord
  split
  · exact (noted.trans (setCrField_userStep _ _ _)).nextInstr
  · exact (noted.trans (recordAny_userStep true _)).nextInstr

theorem condStore_keeps (t : Span) (ea : Word) (rS : Reg) (rc : Bool) (s : State) :
    Keeps (condStore t ea rS rc s) (Confined s) := by
  have pushed (way : Option (Fin 2)) := (condPush_side way (spanByte t ea ea s).1 (spanByte t ea ea s).2 s).userStep
  unfold condStore
  dsimp only
  generalize condStoreWay _ _ s = way
  specialize pushed way
  generalize condPush way _ _ s = u at pushed ⊢
  refine Keeps.after pushed (keeps_ite ?_ (condEnd_keeps rc false u))
  exact (condEnd_keeps rc true _).after ((beginStore_side u).userStep.trans (condStoreList_side _ _ _ _ _ _).userStep)

theorem stwcxRc_keeps (rS rA rB : Reg) (rc : Bool) (s : State) : Keeps (execStwcxRc rS rA rB rc s) (Confined s) := by
  refine keeps_needsWordAligned (keeps_finish ((translateSpan_side _ _ _ _ _ _).after (newUse_side s)) fun t u h => ?_)
  generalize eaX s rA rB = ea
  dsimp only
  have gapped := h.trans (gap_side u).userStep
  generalize gap u = g at gapped ⊢
  refine Keeps.after gapped (keeps_ite ?_ (condEnd_keeps rc false g))
  exact keeps_finish ((dabrCheck_side _ _ _ _).after (furtherUse_side g)) fun _ v k => (condStore_keeps t ea rS rc v).after k

/-! ### Floating point -/

/-- The summary bits follow from the others, which they leave alone (R602). -/
theorem bitAt_fpSummary_other (f : Word) {k : Nat} (hk : k < 32) (other : k ≠ 1 ∧ k ≠ 2 ∧ k ≠ 20) :
    bitAt (fpSummary f) k = bitAt f k := by
  obtain ⟨fex, vx, reserved⟩ := other
  simp [fpSummary, bitAt_setBit _ _ _ hk, fex, vx, reserved]

theorem bitAt_fpSummary_reserved (f : Word) : bitAt (fpSummary f) 20 = false := by
  simp [fpSummary, bitAt_setBit]

/-- Masks that select no summary bit see the FPSCR as it was. -/
theorem fpSummary_and (f : Word) {m : Word} (h : m &&& 0x60000800 = 0) : fpSummary f &&& m = f &&& m := by
  apply eq_of_bitAt
  intro k hk
  rw [bitAt_and, bitAt_and]
  by_cases other : k ≠ 1 ∧ k ≠ 2 ∧ k ≠ 20
  · rw [bitAt_fpSummary_other f hk other]
  · have bit := congrArg (bitAt · k) h
    have set : bitAt (0x60000800 : Word) k = true := by
      have : k = 1 ∨ k = 2 ∨ k = 20 := by omega
      rcases this with rfl | rfl | rfl <;> decide
    have zero : bitAt (0 : Word) k = false := by simp [bitAt]
    simp only [bitAt_and, set, zero, Bool.and_true] at bit
    simp only [bit, Bool.and_false]

theorem bitAt_fpSummary_vx (f : Word) : bitAt (fpSummary f) 2 = (f &&& vxBits != 0) := by
  have clear : setBit f 20 false &&& vxBits = f &&& vxBits := by
    apply eq_of_bitAt
    intro k hk
    rw [bitAt_and, bitAt_and, bitAt_setBit _ _ _ hk]
    split
    · next e =>
      subst e
      have : bitAt vxBits 20 = false := by decide
      simp [this]
    · rfl
  simp [fpSummary, bitAt_setBit, clear]

theorem bitAt_fpSummary_fex (f : Word) : bitAt (fpSummary f) 1 = ((bitAt (fpSummary f) 2 && bitAt f 24) ||
    (bitAt f 3 && bitAt f 25) || (bitAt f 4 && bitAt f 26) || (bitAt f 5 && bitAt f 27) || (bitAt f 6 && bitAt f 28)) := by
  simp [fpSummary, bitAt_setBit]

theorem fpSummary_idem (f : Word) : fpSummary (fpSummary f) = fpSummary f := by
  have vx : bitAt (fpSummary (fpSummary f)) 2 = bitAt (fpSummary f) 2 := by
    rw [bitAt_fpSummary_vx, bitAt_fpSummary_vx, fpSummary_and f (by decide)]
  apply eq_of_bitAt
  intro k hk
  by_cases other : k ≠ 1 ∧ k ≠ 2 ∧ k ≠ 20
  · exact bitAt_fpSummary_other _ hk other
  · have : k = 1 ∨ k = 2 ∨ k = 20 := by omega
    rcases this with rfl | rfl | rfl
    · rw [bitAt_fpSummary_fex, bitAt_fpSummary_fex f, vx]
      simp [bitAt_fpSummary_other]
    · exact vx
    · rw [bitAt_fpSummary_reserved, bitAt_fpSummary_reserved]

theorem withSummary_userStep (s : State) (f : Word) : UserStep s { s with fpscr := fpSummary f } := .withFpscr (fpSummary_idem f)

theorem fprSetOpt_userStep (frD : Reg) (v : Option DWord) (s : State) : UserStep s (fprSetOpt frD v s) := by
  cases v with
  | none => exact .refl s
  | some v => exact fprSet_userStep s frD v

theorem fpEnd_keeps (rc : Bool) {s u : State} (h : UserStep s u) : Keeps (fpEnd rc u) (Confined s) := by
  have recorded := h.trans (recordFp_userStep rc u)
  exact keeps_ite ((takeProgram_entryStep _ _).after recorded).next recorded.nextInstr

theorem fpCommit_keeps (frD : Reg) (rc : Bool) (r : FpResult) (s : State) : Keeps (fpCommit frD rc r s) (Confined s) := by
  have end_ (fr : Bool) (u : State) :
      Keeps (fpEnd rc (fprSetOpt frD r.value { u with fpscr := fpscrAfter u.fpscr r.exc fr r.fi r.fprf })) (Confined u) :=
    fpEnd_keeps rc ((withSummary_userStep u _).trans (fprSetOpt_userStep frD r.value _))
  unfold fpCommit
  dsimp only
  by_cases any : r.frAny = true
  · simp only [any, ↓reduceIte]
    exact (end_ _ _).after (fresh_userStep 1 s)
  · simp only [any]
    exact end_ _ s

theorem fpCommitAny_keeps (frD : Reg) (rc : Bool) (r : FpResult) (s : State) :
    Keeps (fpCommitAny frD rc r s) (Confined s) := by
  have drawn := ((fresh_userStep 64 s).trans (fresh_userStep 32 _)).trans (fresh_userStep 4 _)
  unfold fpCommitAny
  dsimp only
  generalize (fresh 4 (fresh 32 (fresh 64 s).2).2).2 = u at drawn ⊢
  refine (fpEnd_keeps false ?_).after drawn
  have written (f : Word) := (withSummary_userStep u f).trans
    (userStep_ite (c := r.value.isSome = true) (fprSet_userStep _ frD (fresh 64 s).1))
  exact (written _).trans (userStep_ite (setCrField_userStep _ _ _))

theorem fpCommitSingle_keeps (l : List DWord) (frD : Reg) (rc : Bool) (r : FpResult) (s : State) :
    Keeps (fpCommitSingle l frD rc r s) (Confined s) :=
  keeps_ite (fpCommit_keeps _ _ _ _) (fpCommitAny_keeps _ _ _ _)

theorem fpCommitEstimate_keeps (frD : Reg) (rc ordinary : Bool) (r : FpResult) (s : State) :
    Keeps (fpCommitEstimate frD rc ordinary r s) (Confined s) :=
  fpEnd_keeps rc (((fresh_userStep 2 s).trans (withSummary_userStep _ _)).trans (fprSetOpt_userStep frD r.value _))

theorem fpDouble_keeps (kind : FpKind) (frD frA frB frC : Reg) (rc : Bool) (s : State) :
    Keeps (fpDouble kind frD frA frB frC rc s) (Confined s) := keeps_needsFp (fpCommit_keeps _ _ _ _)

theorem fpSingle_keeps (kind : FpKind) (frD frA frB frC : Reg) (rc : Bool) (s : State) :
    Keeps (fpSingle kind frD frA frB frC rc s) (Confined s) := keeps_needsFp (fpCommitSingle_keeps _ _ _ _ _)

theorem fres_keeps (frD frB : Reg) (rc : Bool) (s : State) : Keeps (execFres frD frB rc s) (Confined s) := by
  refine keeps_needsFp ?_
  split
  · exact keeps_ite (fpCommitEstimate_keeps _ _ _ _ _) (fpCommitAny_keeps _ _ _ _)
  · exact keeps_ite (fpCommitAny_keeps _ _ _ _) (keeps_ite (fpCommit_keeps _ _ _ _) (fpCommitEstimate_keeps _ _ _ _ _))

theorem frsqrte_keeps (frD frB : Reg) (rc : Bool) (s : State) : Keeps (execFrsqrte frD frB rc s) (Confined s) := by
  refine keeps_needsFp ?_
  split <;> exact fpCommitEstimate_keeps _ _ _ _ _

theorem fpMove_keeps (frD : Reg) (v : DWord) (rc : Bool) (s : State) :
    Keeps (needsFp s (nextInstr (recordFp rc (fprSet s frD v)))) (Confined s) :=
  keeps_needsFp ((fprSet_userStep s frD v).trans (recordFp_userStep rc _)).nextInstr

theorem frsp_keeps (frD frB : Reg) (rc : Bool) (s : State) : Keeps (execFrsp frD frB rc s) (Confined s) :=
  keeps_needsFp (fpCommit_keeps _ _ _ _)

theorem intCommit_keeps (frD : Reg) (rc : Bool) (r : IntResult) (s : State) :
    Keeps (needsFp s (intCommit frD rc r s)) (Confined s) := by
  refine keeps_needsFp ?_
  unfold intCommit
  split
  · exact fpEnd_keeps rc (withSummary_userStep s _)
  · exact fpEnd_keeps rc ((((fresh_userStep 32 s).trans (fresh_userStep 5 _)).trans (withSummary_userStep _ _)).trans
      (fprSet_userStep _ frD _))

theorem fpCompareInto_keeps (ordered : Bool) (crfD : CrField) (frA frB : Reg) (rc : Bool) (s : State) :
    Keeps (fpCompareInto ordered crfD frA frB rc s) (Confined s) := by
  refine keeps_needsFp (keeps_ite ?_ ?_)
  · have written (f c : Word) (u : State) : UserStep u { u with fpscr := fpSummary f, cr := c } :=
      (withSummary_userStep u f).trans (.registers _ _ _ _ c _ _ _ _ _)
    exact fpEnd_keeps false (((fresh_userStep 32 s).trans (fresh_userStep 4 _)).trans (written _ _ _))
  · exact fpEnd_keeps false ((withSummary_userStep s _).trans (setCrField_userStep _ _ _))

theorem mffs_keeps (frD : Reg) (rc : Bool) (s : State) : Keeps (execMffs frD rc s) (Confined s) :=
  keeps_needsFp (((fresh_userStep 32 s).trans (fprSet_userStep _ frD _)).trans (recordFp_userStep rc _)).nextInstr

theorem mcrfs_keeps (crfD crfS : CrField) (s : State) : Keeps (execMcrfs crfD crfS s) (Confined s) :=
  keeps_needsFp (fpEnd_keeps false ((withSummary_userStep s _).trans (setCrField_userStep _ _ _)))

theorem withSummary_keeps (rc : Bool) (f : Word) (s : State) :
    Keeps (needsFp s (fpEnd rc { s with fpscr := fpSummary f })) (Confined s) :=
  keeps_needsFp (fpEnd_keeps rc (withSummary_userStep s f))

/-! ### Branches, the condition register, traps -/

theorem linkIf_userStep (lk : Bool) (s : State) : UserStep s (linkIf lk s) := by
  cases lk
  · exact .refl s
  · exact .registers s _ _ _ _ _ _ _ _ _

theorem branchTo_keeps (taken : Bool) (target : Word) {s u : State} (h : UserStep s u) :
    Keeps (branchTo taken target u) (Confined s) := by
  refine keeps_next (.inl (h.trans (.withPc fun inv => ?_)))
  split
  · exact field_word_and target
  · exact field_add_four inv.pc

theorem countDown_userStep (s : State) (c : Word) (lk : Bool) : UserStep s (linkIf lk { s with ctr := c }) :=
  (UserStep.registers s _ _ _ _ _ c _ _ _).trans (linkIf_userStep lk _)

theorem bcctr_keeps (bo bi : Reg) (lk : Bool) (s : State) : Keeps (execBcctr bo bi lk s) (Confined s) :=
  keeps_ite (keeps_refused _ _) (branchTo_keeps _ _ (linkIf_userStep lk s))

theorem setCrBit_userStep (n : Reg) (b : Bool) (s : State) : UserStep s (setCrBit n b s) := .registers s _ _ _ _ _ _ _ _ _

theorem trapIf_keeps (c : Bool) (s : State) : Keeps (trapIf c s) (Confined s) :=
  keeps_ite (takeProgram_entryStep _ s).next (UserStep.refl s).nextInstr

theorem sc_keeps (s : State) : Keeps (execSc s) (Confined s) := (takeException_entryStep (by decide) _ _ _).next

/-! ### Moves of the condition register, and synchronisation -/

theorem mtcrf_keeps (crm : BitVec 8) (rS : Reg) (s : State) : Keeps (execMtcrf crm rS s) (Confined s) :=
  UserStep.nextInstr (.registers s _ _ _ _ _ _ _ _ _)

theorem mcrxr_keeps (crfD : CrField) (s : State) : Keeps (execMcrxr crfD s) (Confined s) := by
  have cleared : UserStep s { s with xer := s.xer &&& 0x0FFFFFFF } := .withXer fun inv => by
    have legal := (and_not_eq_zero_iff _ _).mp inv.xer
    rw [and_not_eq_zero_iff]
    intro k hk clear
    rw [bitAt_and, legal k hk clear, Bool.false_and]
  exact (cleared.trans (setCrField_userStep crfD _ _)).nextInstr

theorem broadcastIf_userStep (c : Bool) (op : BusOp) (s : State) : UserStep s (if c then logBus op s else s) :=
  userStep_ite (logBus_side op s).userStep

theorem sync_keeps (rc : Bool) (s : State) : Keeps (execSync rc s) (Confined s) :=
  (((broadcastIf_userStep _ .sync s).trans (drainStores_side _).userStep).trans (recordAny_userStep rc _)).nextInstr

theorem eieio_keeps (s : State) : Keeps (execEieio s) (Confined s) := (broadcastIf_userStep _ .eieio s).nextInstr

theorem contextSync_userStep (s : State) : UserStep s (contextSync s) :=
  ⟨rfl, fun h => ⟨h, rfl⟩, fun inv => inv.congr rfl rfl rfl inv.msr inv.pc⟩

/-! ### Cache instructions and external control -/

theorem blockAccess_keeps (k : Access) (ea : Word) (s : State) : ResSide s (blockAccess k ea s) := by
  have h := translate_side k ea (newUse s)
  unfold blockAccess
  split
  · trivial
  · next e => rw [e] at h; exact (newUse_side s).trans h
  · next e => rw [e] at h; exact (newUse_side s).trans h
  · next u _ e => rw [e] at h; exact ⟨u, _, _, (newUse_side s).trans h, rfl⟩

theorem blockOp_keeps (k : Access) (ea : Word) {f : Word → BitVec 4 → State → State} (s : State)
    (h : ∀ pa w u, UserStep u (f pa w u)) : Keeps (blockOp k ea f s) (Confined s) := by
  refine keeps_finish (blockAccess_keeps k ea s) fun p u side => ?_
  cases p with
  | none => exact side.nextInstr
  | some x => exact ((side.trans (gap_side u).userStep).trans (h x.1 x.2 _)).nextInstr

theorem broadcast_userStep (op : BusOp) (s : State) : UserStep s (broadcast op s) := broadcastIf_userStep _ op s

theorem l2Clean_side (pa : Word) (s : State) : MemSide s (l2Clean pa s).2 := by
  unfold l2Clean
  split
  · split
    · exact ((beginPush_side _ s).trans (busWriteBlock_side _ _ _)).trans (l2SectorPut_side _ _ _ _)
    · exact .refl s
  · exact .refl s

theorem l2Flush_side (pa : Word) (s : State) : MemSide s (l2Flush pa s).2 := by
  unfold l2Flush
  split
  · split
    · split
      · exact ((beginPush_side _ s).trans (busWriteBlock_side _ _ _)).trans (l2SectorPut_side _ _ _ _)
      · exact l2SectorPut_side _ _ _ _
    · exact .refl s
  · exact .refl s

theorem l2Kill_side (pa : Word) (s : State) : MemSide s (l2Kill pa s) := by
  unfold l2Kill
  split
  · split
    · exact l2SectorPut_side _ _ _ _
    · exact .refl s
  · exact .refl s

/-- What a cache instruction leaves to the L2 and the bus where it pushed no L1 block. -/
theorem below_userStep {s : State} {r : Bool × State} (h : MemSide s r.2) (op : BusOp) :
    UserStep s (if r.1 then r.2 else broadcast op r.2) := by
  split
  · exact h.userStep
  · exact h.userStep.trans (broadcast_userStep op _)

theorem cleanBlock_userStep (pa : Word) (w : BitVec 4) (s : State) : UserStep s (cleanBlock pa w s) := by
  have room := (pushRoom_side pa s).userStep
  unfold cleanBlock
  dsimp only
  generalize pushRoom pa s = r at room ⊢
  refine room.trans ?_
  split
  · split
    · exact (((pushByInstr_side _ _ _ _).trans (dWayPut_side _ _ _ _)).trans (dTouch_side _ _ _)).userStep
    · exact (dTouch_side _ _ _).userStep.trans (below_userStep (l2Clean_side pa _) _)
  · exact below_userStep (l2Clean_side pa _) _

theorem flushBlock_userStep (pa : Word) (w : BitVec 4) (s : State) : UserStep s (flushBlock pa w s) := by
  have room := (pushRoom_side pa s).userStep
  unfold flushBlock
  dsimp only
  generalize pushRoom pa s = r at room ⊢
  refine room.trans ?_
  split
  · split
    · exact (((pushByInstr_side _ _ _ _).trans (dWayPut_side _ _ _ _)).trans (dTouch_side _ _ _)).userStep
    · exact ((dWayPut_side _ _ _ _).trans (dTouch_side _ _ _)).userStep.trans (below_userStep (l2Flush_side pa _) _)
  · exact below_userStep (l2Flush_side pa _) _

theorem killBlock_userStep (pa : Word) (w : BitVec 4) (s : State) : UserStep s (killBlock pa w s) := by
  unfold killBlock
  dsimp only
  refine UserStep.trans ?_ (broadcast_userStep _ _)
  split
  · exact (((dWayPut_side _ _ _ _).trans (dTouch_side _ _ _)).trans (l2Kill_side _ _)).userStep
  · exact (l2Kill_side _ _).userStep

theorem zeroBlock_userStep (pa : Word) (w : BitVec 4) (s : State) : UserStep s (zeroBlock pa w s) := by
  unfold zeroBlock
  dsimp only
  split
  · exact ((dWayPut_side _ _ _ _).trans (dTouch_side _ _ _)).userStep
  · refine UserStep.trans ?_ ((dWayPut_side _ _ _ _).trans (dTouch_side _ _ _)).userStep
    exact ((castoutWay_side _ _ _).trans (gap_side _)).userStep.trans (broadcastIf_userStep _ _ _)

theorem touch_keeps (ea : Word) (s : State) : Keeps (touch ea s) (Confined s) := by
  have used := (newUse_side s).userStep
  have h := translateWith_side false .load ea (newUse s)
  unfold touch
  dsimp only
  split
  · exact keeps_fault _ _
  · exact used.nextInstr
  · next pa w u e =>
    rw [e] at h
    have reached := used.trans (MemSide.userStep h)
    refine keeps_ite used.nextInstr ?_
    split
    · exact (reached.trans (dTouch_side _ _ _).userStep).nextInstr
    · exact (reached.trans (dFill_side _ _).userStep).nextInstr

theorem dcbzStore_keeps (ea : Word) (rA : Reg) (s : State) : Keeps (dcbzStore ea rA s) (Confined s) := by
  have h := translateWith_side false .store ea s
  unfold dcbzStore
  split
  · exact keeps_fault _ _
  · next e => rw [e] at h; exact ((takeDsi_entryStep _ _ _).after (MemSide.userStep h)).next
  · next u e =>
    rw [e] at h
    have reached := MemSide.userStep h
    have k := translate_side .store ea u
    refine keeps_ite ((takeDsi_entryStep _ _ _).after reached).next (keeps_ite ?_ ?_)
    · exact ((takeAlignment_entryStep _ _ _).after (reached.trans (fresh_userStep 5 u))).next
    · split
      · exact keeps_fault _ _
      · next e => rw [e] at k; exact ((takeDsi_entryStep _ _ _).after (reached.trans (MemSide.userStep k))).next
      · next e =>
        rw [e] at k
        exact ((reached.trans (MemSide.userStep k)).trans (zeroBlock_userStep _ _ _)).nextInstr

theorem dcbz_keeps (rA rB : Reg) (s : State) : Keeps (execDcbz rA rB s) (Confined s) := by
  have h := translate_side .load (eaX s rA rB) (newUse s)
  unfold execDcbz
  dsimp only
  split
  · exact keeps_fault _ _
  · next e => rw [e] at h; exact ((newUse_side s).trans h).userStep.nextInstr
  · next e => rw [e] at h; exact ((takeDsi_entryStep _ _ _).after ((newUse_side s).trans h).userStep).next
  · next e => rw [e] at h; exact (dcbzStore_keeps _ _ _).after ((newUse_side s).trans h).userStep

theorem icbi_keeps (rA rB : Reg) (s : State) : Keeps (execIcbi rA rB s) (Confined s) :=
  (invalidateISet_side _ s).userStep.nextInstr

theorem extAddress_side (k : Access) (ea : Word) (s : State) : ResSide s (extAddress k ea s) := by
  unfold extAddress
  split
  · exact andThen_side (dataAccess_side _ _ _ _ _ _) fun _ u => .refl u
  · exact andThen_side (dabrCheck_side _ _ _ _) fun _ u => (gap_side u).trans (fresh_side 32 _)

theorem externalControl_keeps (k : Access) (xo : BitVec 10) (r rA : Reg) (ea : Word) {f : Word → State → State} (s : State)
    (h : ∀ pa u, UserStep u (f pa u)) : Keeps (externalControl k xo r rA ea f s) (Confined s) := by
  have used := (newUse_side s).userStep
  refine keeps_ite ((takeDsi_entryStep _ _ _).after used).next (Keeps.after used (keeps_needsWordAligned ?_))
  refine keeps_finish (extAddress_side k ea _) fun pa u side => ?_
  exact ((side.trans (userStep_ite (raiseTea_side u).userStep)).trans (h pa _)).nextInstr

theorem eciwx_keeps (rD rA rB : Reg) (s : State) : Keeps (execEciwx rD rA rB s) (Confined s) := by
  refine externalControl_keeps _ _ _ _ _ _ fun pa u => ?_
  exact ((UserStep.registers u _ _ _ _ _ _ (u.freeCtr + 1) _ _).trans (logBus_side _ _).userStep).trans (gprSet_userStep _ _ _)

theorem ecowx_keeps (rS rA rB : Reg) (s : State) : Keeps (execEcowx rS rA rB s) (Confined s) :=
  externalControl_keeps _ _ _ _ _ _ fun _ _ => (logBus_side _ _).userStep

/-! ### Supervisor instructions -/

/-- What the invariant is about is as it was. -/
structure SameInvariant (s t : State) : Prop where
  mem : t.mem = s.mem
  pc : t.pc = s.pc
  msr : t.msr = s.msr
  xer : t.xer = s.xer
  fpscr : t.fpscr = s.fpscr

theorem SameInvariant.kept {s t : State} (h : SameInvariant s t) (inv : Invariant s) : Invariant t :=
  inv.congr h.mem h.xer h.fpscr (by simpa only [MsrLegal, h.msr] using inv.msr)
    (by simpa only [PcAligned, h.pc] using inv.pc)

theorem SameInvariant.trans {s t u : State} (h : SameInvariant s t) (k : SameInvariant t u) : SameInvariant s u :=
  ⟨k.mem.trans h.mem, k.pc.trans h.pc, k.msr.trans h.msr, k.xer.trans h.xer, k.fpscr.trans h.fpscr⟩

theorem PerfSide.sameInvariant {s t : State} (h : PerfSide s t) : SameInvariant s t :=
  ⟨by rw [h.frame], by rw [h.frame], by rw [h.frame], by rw [h.frame], by rw [h.frame]⟩

theorem setTbl_sameInvariant (m : Moment) (v : Word) (s : State) : SameInvariant s (setTbl m v s) := by
  unfold setTbl
  dsimp only
  split
  · refine SameInvariant.trans ?_ (pmTransition_side m _).sameInvariant
    exact ⟨rfl, rfl, rfl, rfl, rfl⟩
  · exact ⟨rfl, rfl, rfl, rfl, rfl⟩

theorem setPmc_sameInvariant (n : Fin 4) (v : Word) (s : State) : SameInvariant s (setPmc n v s) :=
  ((pmcPut_side s n v).trans (pmSignal_side _ _ _)).sameInvariant

theorem setHid0_sameInvariant (v : Word) (s : State) : SameInvariant s (setHid0 v s) := by
  unfold setHid0
  dsimp only
  split <;> split <;> exact ⟨rfl, rfl, rfl, rfl, rfl⟩

theorem setL2cr_sameInvariant (v : Word) (s : State) : SameInvariant s (setL2cr v s) := by
  unfold setL2cr
  dsimp only
  split <;> exact ⟨rfl, rfl, rfl, rfl, rfl⟩

theorem batMove_sameInvariant (data : Bool) (i : Fin 8) (lower : Bool) (v : Word) (s : State) :
    SameInvariant s (batMove data i lower v s) := by
  cases data <;> exact ⟨rfl, rfl, rfl, rfl, rfl⟩

theorem supervisorSprSet_sameInvariant {n : Nat} {v : Word} {s t : State} (h : supervisorSprSet n v s = some t) :
    SameInvariant s t := by
  unfold supervisorSprSet at h
  split at h
  case h_33 =>
    split at h
    · cases h
      exact batMove_sameInvariant _ _ _ _ _
    · cases h
  case h_12 => cases h; exact setTbl_sameInvariant _ _ _
  case h_15 =>
    cases h
    refine SameInvariant.trans ?_ (pmSignal_side _ _ _).sameInvariant
    exact ⟨rfl, rfl, rfl, rfl, rfl⟩
  case h_16 => cases h; exact setPmc_sameInvariant _ _ _
  case h_17 => cases h; exact setPmc_sameInvariant _ _ _
  case h_20 => cases h; exact setPmc_sameInvariant _ _ _
  case h_21 => cases h; exact setPmc_sameInvariant _ _ _
  case h_23 => cases h; exact setHid0_sameInvariant _ _
  case h_28 => cases h; exact setL2cr_sameInvariant _ _
  all_goals
    cases h
    exact ⟨rfl, rfl, rfl, rfl, rfl⟩

theorem userSprSet_userStep {n : Nat} {v : Word} {s t : State} (h : userSprSet n v s = some t) : UserStep s t := by
  unfold userSprSet at h
  split at h
  · cases h
    refine .withXer fun _ => ?_
    rw [and_not_eq_zero_iff]
    intro k _ clear
    rw [bitAt_and, clear, Bool.and_false]
  · cases h
    exact .registers s _ _ _ _ _ _ _ _ _
  · cases h
    exact .registers s _ _ _ _ _ _ _ _ _
  · cases h

/-- In supervisor mode an instruction need only keep the invariant. -/
theorem keeps_supervisor {s : State} {o : Out} (super : msrPr s = false) (h : Keeps o fun t => Invariant s → Invariant t) :
    Keeps o (Allowed s) := fun t e => .inr ⟨super, h t e⟩

theorem SameInvariant.nextInstr {s u : State} (h : SameInvariant s u) (super : msrPr s = false) :
    Keeps (nextInstr u) (Allowed s) :=
  keeps_supervisor super (keeps_next fun inv => (advance_userStep u).kept (h.kept inv))

theorem UserStep.nextInstr_allowed {s u : State} (h : UserStep s u) : Keeps (Machine.nextInstr u) (Allowed s) :=
  h.nextInstr.allowed

theorem fpPending_keeps {s u : State} (super : msrPr s = false) (h : Invariant s → Invariant u) :
    Keeps (fpPending u) (Allowed s) := by
  refine keeps_supervisor super (keeps_ite ?_ (keeps_next h))
  exact keeps_next fun inv => (takeProgram_entryStep (maskBit 11) u).kept (h inv)

theorem msrMove_kept (v : Word) {s : State} (inv : Invariant s) : Invariant (msrMove (v &&& msrMask) s) := by
  refine inv.congr rfl rfl rfl ?_ inv.pc
  show (v &&& msrMask) &&& ~~~ msrMask = 0
  rw [and_not_eq_zero_iff]
  intro k _ clear
  rw [bitAt_and, clear, Bool.and_false]

theorem returnFromException_kept {s : State} (inv : Invariant s) : Invariant (returnFromException s) := by
  refine inv.congr rfl rfl rfl ?_ (field_word_and s.sup.srr0)
  show merge rfiMask s.msr s.sup.srr1 &&& ~~~ msrMask = 0
  have legal := (and_not_eq_zero_iff _ _).mp inv.msr
  have inside : rfiMask &&& ~~~ msrMask = 0 := by decide
  rw [and_not_eq_zero_iff] at inside ⊢
  intro k hk clear
  rw [bitAt_merge _ _ _ hk, inside k hk clear]
  exact legal k hk clear

theorem readSpr_keeps (rD : Reg) (n : Nat) (rc : Bool) (s : State) : Keeps (readSpr rD n rc s) (Allowed s) := by
  have read (v : Word) := ((gprSet_userStep s rD v).trans (recordAny_userStep rc _)).nextInstr_allowed
  unfold readSpr
  split
  · exact read _
  · split
    · exact keeps_privileged fun _ => read _
    · exact (takeProgram_entryStep _ s).next.allowed

theorem writeSpr_keeps (n : Nat) (v : Word) (rc : Bool) (s : State) : Keeps (writeSpr n v rc s) (Allowed s) := by
  have illegal := (takeProgram_entryStep (maskBit 12) s).next.allowed
  unfold writeSpr
  split
  · next t e => exact ((userSprSet_userStep e).trans (recordAny_userStep rc t)).nextInstr_allowed
  · refine keeps_ite (keeps_ite illegal (recordAny_userStep rc s).nextInstr_allowed) ?_
    split
    · next t e =>
      refine keeps_privileged fun super => keeps_ite (keeps_fault _ _) (keeps_supervisor super (keeps_next fun inv => ?_))
      exact ((recordAny_userStep rc t).trans (advance_userStep _)).kept ((supervisorSprSet_sameInvariant e).kept inv)
    · exact illegal

/-! ### Every instruction -/

/-- What any instruction can do, going on. -/
theorem exec_allowed (i : Instr) (s : State) : Keeps (exec i s) (Allowed s) := by
  cases i with
  | mtmsr rS =>
    exact keeps_privileged fun super => fpPending_keeps super fun inv => (advance_userStep _).kept (msrMove_kept _ inv)
  | rfi => exact keeps_privileged fun super => fpPending_keeps super returnFromException_kept
  | mtsr sr rS => exact keeps_privileged fun super => SameInvariant.nextInstr ⟨rfl, rfl, rfl, rfl, rfl⟩ super
  | mtsrin rS rB => exact keeps_privileged fun super => SameInvariant.nextInstr ⟨rfl, rfl, rfl, rfl, rfl⟩ super
  | tlbie rB => exact keeps_privileged fun super => SameInvariant.nextInstr ⟨rfl, rfl, rfl, rfl, rfl⟩ super
  | tlbsync =>
    exact keeps_privileged fun _ => keeps_ite (keeps_next (.inl (.inl (.refl s)))) (UserStep.refl s).nextInstr_allowed
  | dcbi rA rB => exact keeps_privileged fun _ => (blockOp_keeps _ _ s killBlock_userStep).allowed
  | mfmsr | mfsr | mfsrin => exact keeps_privileged fun _ => (gprSet_userStep s _ _).nextInstr_allowed
  | mtspr => exact writeSpr_keeps _ _ _ s
  | mfspr | mftb => exact readSpr_keeps _ _ _ s
  | addi | addis | mulli | mfcr => exact (gprSet_userStep s _ _).nextInstr_allowed
  | addic | addicRc | subfic | add | subf | addc | subfc | adde | subfe | addme | subfme | addze | subfze | neg =>
    exact (addInto_keeps _ _ _ _ _ _ _ s).allowed
  | mullw | mulhw | mulhwu => exact (resultInto_keeps _ _ _ _ _ s).allowed
  | divw | divwu => exact (keeps_ite (undefinedQuotient_keeps _ _ _ s) (resultInto_keeps _ _ _ _ _ s)).allowed
  | cmpi | cmp | cmpli | cmpl => exact (compare_keeps _ _ _ _ s).allowed
  | andiRc | andisRc | ori | oris | xori | xoris | and | or | xor | nand | nor | eqv | andc | orc | extsb | extsh | cntlzw
  | rlwinm | rlwnm | rlwimi | slw | srw => exact (logicInto_keeps _ _ _ s).allowed
  | srawi | sraw => exact (shiftInto_keeps _ _ _ _ s).allowed
  | fadd | fsub | fmul | fdiv | fmadd | fmsub | fnmadd | fnmsub => exact (fpDouble_keeps _ _ _ _ _ _ s).allowed
  | fadds | fsubs | fmuls | fdivs | fmadds | fmsubs | fnmadds | fnmsubs => exact (fpSingle_keeps _ _ _ _ _ _ s).allowed
  | fres => exact (fres_keeps _ _ _ s).allowed
  | frsqrte => exact (frsqrte_keeps _ _ _ s).allowed
  | fsel | fmr | fneg | fabs | fnabs => exact (fpMove_keeps _ _ _ s).allowed
  | frsp => exact (frsp_keeps _ _ _ s).allowed
  | fctiw | fctiwz => exact (intCommit_keeps _ _ _ s).allowed
  | fcmpu | fcmpo => exact (fpCompareInto_keeps _ _ _ _ _ s).allowed
  | mffs => exact (mffs_keeps _ _ s).allowed
  | mcrfs => exact (mcrfs_keeps _ _ s).allowed
  | mtfsfi | mtfsf | mtfsb0 | mtfsb1 => exact (withSummary_keeps _ _ s).allowed
  | lbz | lbzx | lhz | lhzx | lha | lhax | lwz | lwzx | lhbrx | lwbrx => exact (load_keeps _ _ _ _ _ s).allowed
  | lbzu | lbzux | lhzu | lhzux | lhau | lhaux | lwzu | lwzux => exact (loadUpdate_keeps _ _ _ _ _ _ _ s).allowed
  | stb | stbx | sth | sthx | stw | stwx | sthbrx | stwbrx => exact (store_keeps _ _ _ s).allowed
  | stbu | stbux | sthu | sthux | stwu | stwux => exact (storeUpdate_keeps _ _ _ _ _ s).allowed
  | lmw => exact (lmw_keeps _ _ _ s).allowed
  | stmw => exact (stmw_keeps _ _ _ s).allowed
  | lswi => exact (keeps_ite (keeps_refused _ _) (stringLoadOp_keeps _ _ _ _ _ s)).allowed
  | lswx => exact (lswx_keeps _ _ _ _ s).allowed
  | stswi | stswx => exact (stringStoreOp_keeps _ _ _ _ _ s).allowed
  | lfs | lfsx | lfd | lfdx => exact (fpLoad_keeps _ _ _ _ _ _ s).allowed
  | lfsu | lfsux | lfdu | lfdux => exact (fpLoadUpdate_keeps _ _ _ _ _ _ _ _ s).allowed
  | stfs | stfsx | stfd | stfdx | stfiwx => exact (fpStore_keeps _ _ _ _ _ _ s).allowed
  | stfsu | stfsux | stfdu | stfdux => exact (fpStoreUpdate_keeps _ _ _ _ _ _ _ _ s).allowed
  | lwarx => exact (lwarx_keeps _ _ _ _ s).allowed
  | stwcxRc => exact (stwcxRc_keeps _ _ _ _ s).allowed
  | b => exact (branchTo_keeps _ _ (linkIf_userStep _ s)).allowed
  | bc | bclr => exact (branchTo_keeps _ _ (countDown_userStep s _ _)).allowed
  | bcctr => exact (bcctr_keeps _ _ _ s).allowed
  | crand | cror | crxor | crnand | crnor | creqv | crandc | crorc =>
    exact (setCrBit_userStep _ _ s).nextInstr_allowed
  | mcrf => exact (setCrField_userStep _ _ s).nextInstr_allowed
  | tw | twi => exact (trapIf_keeps _ s).allowed
  | sc => exact (sc_keeps s).allowed
  | mtcrf => exact (mtcrf_keeps _ _ s).allowed
  | mcrxr => exact (mcrxr_keeps _ s).allowed
  | sync => exact (sync_keeps _ s).allowed
  | eieio => exact (eieio_keeps s).allowed
  | isync => exact (contextSync_userStep s).nextInstr_allowed
  | dcbt | dcbtst => exact (touch_keeps _ s).allowed
  | dcbz => exact (dcbz_keeps _ _ s).allowed
  | dcbst => exact (blockOp_keeps _ _ s cleanBlock_userStep).allowed
  | dcbf => exact (blockOp_keeps _ _ s flushBlock_userStep).allowed
  | icbi => exact (icbi_keeps _ _ s).allowed
  | eciwx => exact (eciwx_keeps _ _ _ s).allowed
  | ecowx => exact (ecowx_keeps _ _ _ s).allowed

/-- Settles O60, from what any instruction can do: in user mode it moves user-level state, or it has taken an exception. -/
theorem userModeConfined : Obligations.UserModeConfined := by
  intro s t i user e
  have side := exec_allowed i { s with excTaken := false } t e
  rcases side with (moved | entered) | ⟨super, -⟩
  · have frame := moved.frame
    refine ⟨fun _ => ⟨?_, ?_, ?_, fun alone => (moved.alone alone).2, ?_, ?_, ?_, ?_⟩, fun taken => ?_⟩
    all_goals rw [frame]
    rw [frame] at taken
    exact absurd taken Bool.false_ne_true
  · exact ⟨fun none => absurd (entered.taken.symm.trans none) (by decide), fun _ => entered.supervisor⟩
  · exact absurd (user.symm.trans super) (by decide)

/-! ## Steps -/

/-- Settles O58: each part is a closed fact about the reset state. -/
theorem invariantAtReset : Obligations.InvariantAtReset :=
  ⟨rfl, rfl, rfl, rfl, (by decide : fpSummary 0 = 0)⟩

/-- The invariant, if it held, holds. -/
def Kept (s t : State) : Prop := Invariant s → Invariant t

theorem Kept.trans {s t u : State} (h : Kept s t) (k : Kept t u) : Kept s u := k ∘ h

theorem Kept.of_same {s t : State} (mem : t.mem = s.mem := by rfl) (pc : t.pc = s.pc := by rfl)
    (msr : t.msr = s.msr := by rfl) (xer : t.xer = s.xer := by rfl) (fpscr : t.fpscr = s.fpscr := by rfl) : Kept s t :=
  SameInvariant.kept ⟨mem, pc, msr, xer, fpscr⟩

theorem SameInvariant.refl (s : State) : SameInvariant s s := ⟨rfl, rfl, rfl, rfl, rfl⟩

theorem MemSide.kept {s t : State} (h : MemSide s t) : Kept s t := h.userStep.kept

theorem OtherSide.kept {s t : State} (h : OtherSide s t) : Kept s t := fun inv =>
  have frame := h.frame
  { memory := h.mem inv.memory
    pc := by rw [frame]; exact inv.pc
    msr := by rw [frame]; exact inv.msr
    xer := by rw [frame]; exact inv.xer
    fpscr := by rw [frame]; exact inv.fpscr }

theorem Allowed.kept {s t : State} (h : Allowed s t) : Kept s t := by
  rcases h with (moved | entered) | ⟨-, kept⟩
  · exact moved.kept
  · exact entered.kept
  · exact kept

/-! ### Entries at a boundary -/

/-- Entering an exception with any set of bits that the MSR holds. -/
theorem enterWith_kept {keep vec : Word} (a info : Word) (s : State) (aligned : vec.toNat % 4 = 0) :
    Kept s (enterWith keep vec a info s) := by
  intro inv
  refine inv.congr rfl rfl rfl ?_ ?_
  · have legal := (and_not_eq_zero_iff _ _).mp inv.msr
    have le (b : Bool) : boolWord b &&& ~~~ msrMask = 0 := by cases b <;> decide
    have leClear := (and_not_eq_zero_iff _ _).mp (le (bitAt s.msr 15))
    show ((s.msr &&& keep) ||| boolWord (bitAt s.msr 15)) &&& ~~~ msrMask = 0
    rw [and_not_eq_zero_iff]
    intro k hk clear
    rw [bitAt_or, bitAt_and, legal k hk clear, leClear k hk clear]
    rfl
  · have high : (0xFFF00000 : Word).toNat = 0xFFF00000 := rfl
    have low : (0 : Word).toNat = 0 := rfl
    show field (vectorBase s + vec) 30 2 = (0 : BitVec 2)
    rw [aligned_iff, BitVec.toNat_add, vectorBase]
    split <;> omega

theorem takeSoftReset_kept (a : Word) (s : State) : Kept s (takeSoftReset a s) := by
  have entered := enterWith_kept (keep := 0x00011040) (vec := 0x00100) a 0 s rfl
  unfold takeSoftReset
  generalize enterWith _ _ _ _ s = u at entered ⊢
  exact entered.trans Kept.of_same

theorem machineCheckNow_kept (s : State) : Kept s (machineCheckNow s) := by
  unfold machineCheckNow
  split
  · have cleared : Kept s { s with latch := { s.latch with machineCheck := false, mcCause := 0 } } :=
      Kept.of_same
    exact cleared.trans (enterWith_kept _ _ _ rfl)
  · exact Kept.of_same

theorem takeException_kept {vec : Word} (a info : Word) {s u : State} (h : SameInvariant s u)
    (aligned : field vec 30 2 = (0 : BitVec 2)) : Kept s (takeException vec a info u) :=
  Kept.trans h.kept (takeException_entryStep aligned a info u).kept

theorem maskableNow_kept {s t : State} (h : maskableNow s = some t) : Kept s t := by
  unfold maskableNow at h
  split at h
  · cases h; exact takeException_kept _ _ (.refl s) (by decide)
  split at h
  · cases h; exact takeException_kept _ _ (.refl s) (by decide)
  split at h
  · cases h; exact takeException_kept _ _ ⟨rfl, rfl, rfl, rfl, rfl⟩ (by decide)
  split at h
  · cases h; exact takeException_kept _ _ ⟨rfl, rfl, rfl, rfl, rfl⟩ (by decide)
  split at h
  · cases h; exact takeException_kept _ _ ⟨rfl, rfl, rfl, rfl, rfl⟩ (by decide)
  · cases h

theorem asyncNow_kept {s t : State} (h : asyncNow s = some t) : Kept s t := by
  unfold asyncNow at h
  split at h
  · cases h; exact machineCheckNow_kept s
  split at h
  · cases h
    have cleared : Kept s { s with latch := { s.latch with sreset := false } } :=
      Kept.of_same
    exact cleared.trans (takeSoftReset_kept _ _)
  split at h
  · exact maskableNow_kept h
  · cases h

theorem awaken_kept (s : State) : Kept s (awaken s) := fun inv =>
  inv.congr rfl rfl rfl (setBit_legal false (by decide) inv.msr) inv.pc

theorem hardReset_kept (s : State) : Kept s (hardReset s) := fun inv =>
  { memory := (loseStores_side s).mem inv.memory
    pc := invariantAtReset.pc
    msr := invariantAtReset.msr
    xer := invariantAtReset.xer
    fpscr := invariantAtReset.fpscr }

theorem boundary_kept {deferred : Bool} {s t : State} (h : boundary deferred s = some t) : Kept s t := by
  have halted (r : RunState) : Kept s { s with run := r } := Kept.of_same
  have saving : (if s.pins.ckstpIn then some { s with run := .checkstop }
      else if deferred || !wakes s then some s
      else some ((asyncNow (awaken s)).getD s)) = some t → Kept s t := by
    intro h
    split at h
    · cases h; exact halted _
    split at h
    · cases h; exact id
    · cases e : asyncNow (awaken s) with
      | none => rw [e] at h; cases h; exact id
      | some u => rw [e] at h; cases h; exact (awaken_kept s).trans (asyncNow_kept e)
  unfold boundary at h
  split at h
  · cases h; exact halted _
  split at h
  · cases h; exact hardReset_kept s
  · cases h; exact id
  · split at h
    · cases h; exact halted _
    split at h
    · cases h
    · exact asyncNow_kept h
  all_goals exact saving h

/-! ### The environment -/

/-- The part of a step goes on, or ends it, with the invariant kept. -/
def ResKept {α : Type} (s : State) : Res α → Prop
  | .ok _ t => Kept s t
  | .exc t => Kept s t
  | .fault _ => True

theorem tick_kept (s : State) : Kept s (tick s) := by
  unfold tick
  split
  · refine (SameInvariant.trans ?_ (setTbl_sameInvariant _ _ _)).kept
    exact ⟨rfl, rfl, rfl, rfl, rfl⟩
  · exact id

theorem thermCompare_kept (second : Bool) (temp : Int) (s : State) : Kept s (thermCompare second temp s) := by
  cases second <;> exact Kept.of_same

theorem thermSample_kept (temp : Int) (s : State) : Kept s (thermSample temp s) := by
  unfold thermSample
  split
  · exact id
  split
  · exact thermCompare_kept _ _ s
  split
  · exact thermCompare_kept _ _ s
  · exact id

theorem pinEffect_kept (p : Pin) (b : Bool) (s : State) : Kept s (pinEffect p b s) := by
  have halted (r : RunState) : Kept s { s with run := r } := Kept.of_same
  unfold pinEffect
  split
  · split
    · exact halted _
    · exact id
  · split
    · exact halted _
    split
    · exact halted _
    · exact id
  · exact id

theorem kept_ite {c : Prop} [Decidable c] {s t : State} (h : Kept s t) : Kept s (if c then t else s) := by
  split
  · exact h
  · exact id

theorem raiseCheck_kept (cause : BitVec 5) (s : State) : Kept s (raiseCheck cause s) :=
  Kept.of_same

theorem chosenMode_kept (s : State) : Kept s (chosenMode s).2 := by
  unfold chosenMode
  split
  · exact id
  · exact id
  · exact (fresh_side 8 s).kept

theorem powerEntry_kept (s : State) : Kept s (powerEntry s) := by
  have chosen := chosenMode_kept s
  unfold powerEntry
  split
  · split
    · next e => rw [e] at chosen; exact chosen.trans Kept.of_same
    · next e => rw [e] at chosen; exact chosen.trans (kept_ite Kept.of_same)
    · next e => rw [e] at chosen; exact chosen
  · exact id

theorem watchTea_kept {α : Type} {f : State → α × State} (h : ∀ u, Kept u (f u).2) (s : State) :
    Kept s (watchTea f s).2.2 := by
  have cleared : Kept s { s with latch := { s.latch with machineCheck := false } } :=
    Kept.of_same
  exact (cleared.trans (h _)).trans Kept.of_same

theorem prefetch_kept (ea : Word) (s : State) : Kept s (prefetch ea s) := by
  have reached := translateWith_side false .fetch (fetchEa ea s) s
  unfold prefetch
  split
  · split
    · next pa w u e =>
      rw [e] at reached
      split
      · have watched := watchTea_kept (f := fetchPhys (pa &&& 0xFFFFFFFC) w) (fun v => (fetchPhys_side _ _ v).kept) u
        dsimp only
        generalize watchTea _ u = r at watched ⊢
        have fetched := (MemSide.kept reached).trans watched
        split
        · exact fetched
        · exact fetched.trans Kept.of_same
      · exact MemSide.kept reached
    · next e => rw [e] at reached; exact MemSide.kept reached
    · exact id
  · exact id

theorem speculate_kept (ea : Word) (s : State) : Kept s (speculate ea s) := by
  have reached := translateWith_side false .load ea s
  unfold speculate
  split
  · split
    · next pa w u e =>
      rw [e] at reached
      exact (MemSide.kept reached).trans (kept_ite (dataReadByte_side pa w u).kept)
    · next e => rw [e] at reached; exact MemSide.kept reached
    · exact id
  · exact id

theorem envMove_kept (m : EnvMove) (s : State) : ResKept s (envMove m s) := by
  have used := (newUse_side s).kept
  cases m with
  | pin p b => exact (Kept.of_same : Kept s _).trans (pinEffect_kept p b { s with pins := pinsSet p b s.pins })
  | mcpFall => exact used.trans (kept_ite (raiseCheck_kept _ _))
  | sresetFall =>
    show Kept s (sresetFall s)
    unfold sresetFall
    split
    · exact id
    · exact Kept.of_same
  | tick => exact tick_kept s
  | thermSample t => exact thermSample_kept t s
  | addressParity => exact used.trans (kept_ite (raiseCheck_kept _ _))
  | dataParity => exact used.trans (kept_ite (raiseCheck_kept _ _))
  | pmCount n k sampled => exact (countEvents_side n k sampled s).sameInvariant.kept
  | powerEntry => exact used.trans (powerEntry_kept _)
  | pllSwitch => exact kept_ite Kept.of_same
  | snoop k g pa data =>
    show ResKept s (Machine.snoop _ (newUse s))
    unfold Machine.snoop
    split
    · trivial
    · exact used.trans (applySnoop_other _ _).kept
  | gaps l =>
    show ResKept s (if gapsStated l then _ else _)
    split
    · exact Kept.of_same
    · trivial
  | deviceBlocks bs => exact Kept.of_same
  | answer bs => exact Kept.of_same
  | prefetch ea => exact used.trans (prefetch_kept _ _)
  | speculate ea => exact used.trans (speculate_kept _ _)
  | teaBlocks bs => exact Kept.of_same
  | defer => exact id

theorem envMoves_kept (l : List EnvMove) (s : State) : ResKept s (envMoves l s) := by
  induction l generalizing s with
  | nil => exact id
  | cons m l ih =>
    have first := envMove_kept m s
    show ResKept s (andThen (envMove m s) fun _ s => envMoves l s)
    cases e : envMove m s with
    | fault f => trivial
    | exc t => rw [e] at first; exact first
    | ok a t =>
      rw [e] at first
      have rest := ih t
      show ResKept s (envMoves l t)
      cases d : envMoves l t with
      | fault f => trivial
      | exc u => rw [d] at rest; exact Kept.trans first rest
      | ok b u => rw [d] at rest; exact Kept.trans first rest

/-! ### Instructions in a step -/

theorem endStep_sameInvariant (before after : State) : SameInvariant after (endStep before after) := by
  rw [endStep_side]
  exact ⟨rfl, rfl, rfl, rfl, rfl⟩

theorem complete_sameInvariant (i : Instr) (before after : State) : SameInvariant after (complete i before after) := by
  refine SameInvariant.trans ?_ (complete_side i before after).sameInvariant
  exact ⟨rfl, rfl, rfl, rfl, rfl⟩

theorem endOut_keeps {s u : State} (before : State) (h : Kept s u) : Keeps (endOut before (.next u)) (Kept s) :=
  keeps_next (h.trans (endStep_sameInvariant before u).kept)

theorem runInstr_keeps (i : Instr) {s u : State} (h : Kept s u) : Keeps (runInstr exec i u) (Kept s) := by
  unfold runInstr completeOut
  split
  · next t e =>
    have cleared : Kept u { u with excTaken := false } := Kept.of_same
    have executed : Kept s t := (h.trans cleared).trans (exec_allowed i _ t e).kept
    exact keeps_next (executed.trans ((complete_sameInvariant i u t).trans (endStep_sameInvariant u _)).kept)
  · exact keeps_fault _ _
  · exact keeps_refused _ _

theorem iabrChoice_kept (w : Word) (s : State) : Kept s (iabrChoice w s) := by
  unfold iabrChoice
  split
  · exact id
  · exact (iabrUse_side s).kept

theorem runWord_keeps (w : Word) {s u : State} (h : Kept s u) : Keeps (runWord exec w u) (Kept s) := by
  have compared : Kept s (passIabr (iabrChoice w u)) :=
    (h.trans (iabrChoice_kept w u)).trans (Kept.of_same : Kept _ (passIabr _))
  unfold runWord
  refine keeps_ite (endOut_keeps _ (compared.trans (takeException_entryStep (by decide) _ _ _).kept)) ?_
  split
  · exact endOut_keeps _ (compared.trans (takeProgram_entryStep _ _).kept)
  · exact keeps_ite (runInstr_keeps _ compared) (keeps_refused _ _)
  · exact runInstr_keeps _ compared

theorem fetchInTurn_kept (pa : Word) (wimg : BitVec 4) (s : State) : Kept s (fetchInTurn pa wimg s).2 := by
  unfold fetchInTurn
  split
  · have noted : Kept s { s with fetch := { s.fetch with single := false } } :=
      Kept.of_same
    exact noted.trans (fetchSingle_side _ _ _).kept
  · exact (fetchPhys_side _ _ _).kept

theorem fetchInstr_kept (s : State) : ResKept s (fetchInstr s) := by
  have reached := translate_side .fetch (fetchEa s.pc s) s
  unfold fetchInstr
  dsimp only
  split
  · trivial
  · next e =>
    rw [e] at reached
    exact (MemSide.kept reached).trans (takeException_entryStep (by decide) _ _ _).kept
  · next pa w u e =>
    rw [e] at reached
    have watched := watchTea_kept (fetchInTurn_kept (pa &&& 0xFFFFFFFC) w) u
    generalize watchTea _ u = r at watched ⊢
    have fetched := (MemSide.kept reached).trans watched
    split
    · exact fetched.trans (machineCheckNow_kept _)
    · exact fetched

theorem nextWord_keeps {s u : State} (h : Kept s u) : Keeps (nextWord exec u) (Kept s) := by
  have used := h.trans (newUse_side u).kept
  unfold nextWord
  dsimp only
  generalize newUse u = v at used ⊢
  refine keeps_ite (keeps_fault _ _) ?_
  split
  · refine runWord_keeps _ (used.trans ?_)
    unfold takeQueued
    split <;> exact Kept.of_same
  · have fetched := fetchInstr_kept v
    split
    · exact keeps_fault _ _
    · next e => rw [e] at fetched; exact endOut_keeps _ (used.trans fetched)
    · next e =>
      rw [e] at fetched
      refine runWord_keeps _ ((Kept.trans used fetched).trans ((furtherUse_side _).kept.trans ?_))
      exact Kept.of_same

theorem takeIabr_kept (s : State) : Kept s (takeIabr s) := takeException_kept s.pc 0 (.refl s) (by decide)

theorem takeTrace_kept (s : State) : Kept s (takeTrace s) := takeException_kept s.pc 0 (.refl s) (by decide)

theorem traceTaken_kept (s : State) : Kept s (if iabrMatches s then takeIabr s else takeTrace s) := by
  split
  · exact takeIabr_kept s
  · exact takeTrace_kept s

theorem traceStep_keeps {s u : State} (h : Kept s u) : Keeps (traceStep u) (Kept s) := by
  have used := h.trans (newUse_side u).kept
  unfold traceStep
  dsimp only
  generalize newUse u = v at used ⊢
  refine endOut_keeps _ (Kept.trans ?_ (traceTaken_kept _))
  split
  · exact used.trans (iabrChoice_kept _ v)
  · exact used.trans (iabrUse_side v).kept

/-- Settles O59, part by part of a step: the environment's moves, what happens at a boundary, the fetch and the instruction. -/
theorem invariantKept : Obligations.InvariantKept := by
  intro s t inv e
  suffices steps : Keeps (step s) (Kept s) from steps t e inv
  have advanced : Kept s (envAdvance s) := Kept.of_same
  have moves := envMoves_kept (movesNow s) (envAdvance s)
  unfold step stepWith
  dsimp only
  split
  · exact keeps_fault _ _
  · next d => rw [d] at moves; exact keeps_next (advanced.trans moves)
  · next u d =>
    rw [d] at moves
    have moved := Kept.trans advanced moves
    split
    · next b => exact endOut_keeps _ (moved.trans (boundary_kept b))
    · exact keeps_ite (traceStep_keeps moved) (nextWord_keeps moved)

end Sys2Proof.Machine
end

section
/-! PROOF. O1 to O5: the integer arithmetic instructions. The 33-bit sums and 64-bit products of the model are the exact ones. -/

namespace Sys2Proof.Machine

/-- OV says nothing where OE is 0. -/
theorem IntOutcome.without_oe {s t : State} {rD : Reg} {v : Word} {ovf ca rc : Bool} (ovf' : Bool)
    (h : IntOutcome s t rD v false ovf ca rc) : IntOutcome s t rD v false ovf' ca rc := ⟨h.value, h.flags, h.record, h.frame⟩

theorem Goes.mono {o : Out} {P Q : State → Prop} (h : Goes o P) (k : ∀ t, P t → Q t) : Goes o Q := by
  obtain ⟨t, e, p⟩ := h
  exact ⟨t, e, k t p⟩

/-! ## Exact sums -/

theorem sumWord_eq_ofInt (x y : Word) (c : Bool) :
    sumWord x y c = BitVec.ofInt 32 (x.toInt + y.toInt + (if c then 1 else 0)) := by
  rw [sumWord_eq]
  cases c <;> simp [BitVec.ofInt_add, BitVec.ofNat_add]

/-- What `addInto` does, for the exact signed sum. -/
theorem addInto_exact {rD : Reg} {x y : Word} {c ca oe rc : Bool} {s : State} (n : Int)
    (h : x.toInt + y.toInt + (if c then 1 else 0) = n) :
    Goes (addInto rD x y c ca oe rc s) fun t =>
      IntOutcome s t rD (BitVec.ofInt 32 n) oe (!fitsWord n) (if ca then carryOut x y c else xerCa s) rc := by
  have outcome := addInto_outcome rD x y c ca oe rc s
  rw [sumWord_eq_ofInt, sumOvf_eq, h] at outcome
  exact outcome

/-- The same with the exact unsigned sum. -/
theorem addInto_carry {rD : Reg} {x y : Word} {c oe rc : Bool} {s : State} (n : Int) (u : Nat)
    (h : x.toInt + y.toInt + (if c then 1 else 0) = n) (k : x.toNat + y.toNat + (if c then 1 else 0) = u) :
    Goes (addInto rD x y c true oe rc s) fun t =>
      IntOutcome s t rD (BitVec.ofInt 32 n) oe (!fitsWord n) (decide (2 ^ 32 ≤ u)) rc := by
  have outcome := addInto_exact (rD := rD) (ca := true) (oe := oe) (rc := rc) (s := s) n h
  rw [if_pos rfl, carryOut_eq, k] at outcome
  exact outcome

theorem gprSet_exact {rD : Reg} {v : Word} {s : State} (n : Int) (h : v = BitVec.ofInt 32 n) :
    Goes (nextInstr (gprSet s rD v)) fun t =>
      IntOutcome s t rD (BitVec.ofInt 32 n) false (!fitsWord n) (xerCa s) false := by
  subst h
  exact (gprSet_outcome rD _ s).mono fun t k => k.without_oe _

theorem toInt_sext16 (x : BitVec 16) : (sext16 x).toInt = x.toInt := BitVec.toInt_signExtend_of_le (by decide)

theorem toInt_high16 (x : BitVec 16) : (high16 x).toInt = x.toInt * 65536 := by
  have := x.isLt
  rw [high16, BitVec.toInt_eq_toNat_cond, BitVec.toInt_eq_toNat_cond, BitVec.toNat_append]
  simp only [Nat.shiftLeft_eq, BitVec.toNat_ofNat, BitVec.ofNat_eq_ofNat, Nat.zero_mod, Nat.or_zero]
  split <;> split <;> omega

theorem toNat_not (x : Word) : (~~~ x).toNat = 2 ^ 32 - 1 - x.toNat := BitVec.toNat_not

theorem toInt_not (x : Word) : (~~~ x).toInt = -x.toInt - 1 := by
  have := x.isLt
  rw [BitVec.toInt_eq_toNat_cond, BitVec.toInt_eq_toNat_cond, toNat_not]
  split <;> split <;> omega

/-- Settles O1, each instruction's exact sum being that of its two addends and carry in. -/
theorem addSubtractResults : Obligations.AddSubtractResults := by
  intro s rD rA rB simm oe rc
  refine ⟨gprSet_exact _ ?_, gprSet_exact _ ?_, addInto_exact _ ?_, addInto_exact _ ?_, addInto_exact _ ?_⟩
  · rw [← toInt_sext16, BitVec.ofInt_add, BitVec.ofInt_toInt, BitVec.ofInt_toInt]
  · rw [← toInt_high16, BitVec.ofInt_add, BitVec.ofInt_toInt, BitVec.ofInt_toInt]
  · simp
  · rw [toInt_not, if_pos rfl]
    omega
  · rw [toInt_not, if_pos rfl, BitVec.ofNat_eq_ofNat, BitVec.toInt_zero]
    omega

/-- Settles O2, likewise with the exact unsigned sum for CA. -/
theorem carryingResults : Obligations.CarryingResults := by
  intro s rD rA rB simm oe rc
  have ones : (0xFFFFFFFF : Word).toInt = -1 := rfl
  have onesNat : (0xFFFFFFFF : Word).toNat = 2 ^ 32 - 1 := rfl
  have zero : (0 : Word).toInt = 0 := rfl
  have zeroNat : (0 : Word).toNat = 0 := rfl
  have imm : (simm.signExtend 32).toInt = simm.toInt := toInt_sext16 simm
  have notA := toInt_not (gprGet s rA)
  have notANat := toNat_not (gprGet s rA)
  have carry : (if xerCa s then (1 : Int) else 0) = ((if xerCa s then 1 else 0 : Nat) : Int) := by split <;> rfl
  refine ⟨?_, ?_, ?_, ?_, ?_, ?_, ?_, ?_, ?_, ?_, ?_⟩
  all_goals refine addInto_carry _ _ ?_ ?_
  all_goals simp only [notA, notANat, imm, ones, onesNat, zero, zeroNat, carry, sext16, if_true, if_false, Bool.false_eq_true]
  all_goals omega

/-! ## Comparisons -/

theorem setCompare_goes {s : State} {n : CrField} {c : BitVec 3} {lt gt : Bool}
    (h : CrFieldIs s (setCompare n c s) n (orderField lt gt (xerSo s))) :
    Goes (nextInstr (setCompare n c s)) fun t =>
      CrFieldIs s t n (orderField lt gt (xerSo s)) ∧ t = { s with cr := t.cr, pc := s.pc + 4 } :=
  ⟨_, rfl, h, rfl⟩

/-- Settles O5: the two comparisons of the model order the operands as signed and as unsigned numbers. -/
theorem compareResults : Obligations.CompareResults := by
  intro s crfD rA rB imm
  have signed := toInt_sext16 imm
  have unsigned : (zext16 imm).toNat = imm.toNat := by
    have := imm.isLt
    rw [zext16, BitVec.toNat_setWidth]
    omega
  refine ⟨setCompare_goes ?_, setCompare_goes ?_, setCompare_goes ?_, setCompare_goes ?_, ⟨_, rfl⟩, ⟨_, rfl⟩, ⟨_, rfl⟩, ⟨_, rfl⟩⟩
  · rw [← signed]
    exact setCompare_signed _ _ _ _
  · exact setCompare_signed _ _ _ _
  · rw [← unsigned]
    simpa only [Nat.cast_lt] using setCompare_unsigned crfD (gprGet s rA) (zext16 imm) s
  · simpa only [Nat.cast_lt] using setCompare_unsigned crfD (gprGet s rA) (gprGet s rB) s

/-! ## Products -/

theorem toInt_productSigned (a b : Word) : (productSigned a b).toInt = a.toInt * b.toInt := by
  have wide (x : Word) : (x.signExtend 64).toInt = x.toInt := BitVec.toInt_signExtend_of_le (by decide)
  have bound : |a.toInt * b.toInt| ≤ 2 ^ 62 := by
    have ha : |a.toInt| ≤ 2 ^ 31 := abs_le.mpr ⟨BitVec.le_toInt a, (BitVec.toInt_lt (x := a)).le⟩
    have hb : |b.toInt| ≤ 2 ^ 31 := abs_le.mpr ⟨BitVec.le_toInt b, (BitVec.toInt_lt (x := b)).le⟩
    calc |a.toInt * b.toInt| = |a.toInt| * |b.toInt| := abs_mul _ _
      _ ≤ 2 ^ 31 * 2 ^ 31 := mul_le_mul ha hb (abs_nonneg _) (by norm_num)
  obtain ⟨least, greatest⟩ := abs_le.mp bound
  rw [productSigned, BitVec.toInt_mul, wide, wide, Int.bmod_eq_of_le] <;> norm_num <;> omega

/-- The low word of a doubleword. -/
theorem field_low (x : DWord) : field x 32 32 = BitVec.ofInt 32 x.toInt := by
  apply BitVec.eq_of_toNat_eq
  rw [field_toNat, BitVec.toNat_ofInt, BitVec.toInt_eq_toNat_cond]
  have := x.isLt
  split <;> omega

/-- The high word of a doubleword. -/
theorem field_high (x : DWord) : field x 0 32 = BitVec.ofInt 32 (x.toInt / 2 ^ 32) := by
  apply BitVec.eq_of_toNat_eq
  rw [field_toNat, BitVec.toNat_ofInt, BitVec.toInt_eq_toNat_cond]
  have := x.isLt
  split <;> omega

theorem productOvf_eq (a b : Word) : productOvf a b = !fitsWord (a.toInt * b.toInt) := by
  have p := toInt_productSigned a b
  have wide : ((field (productSigned a b) 32 32 : Word).signExtend 64).toInt = (a.toInt * b.toInt).bmod (2 ^ 32) := by
    rw [BitVec.toInt_signExtend_of_le (by decide), field_low, p, BitVec.toInt_ofInt]
  unfold productOvf fitsWord
  rw [Bool.eq_iff_iff]
  simp only [bne_iff_ne, ne_eq, Bool.not_eq_true', decide_eq_false_iff_not, not_iff_not]
  rw [← BitVec.toInt_inj, wide, p]
  generalize a.toInt * b.toInt = n
  constructor
  · intro e
    have := Int.bmod_lt (x := n) (m := 2 ^ 32) (by decide)
    have := Int.le_bmod (x := n) (m := 2 ^ 32) (by decide)
    omega
  · rintro ⟨least, greatest⟩
    rw [Int.bmod_eq_of_le] <;> omega

theorem toNat_productUnsigned (a b : Word) : (productUnsigned a b).toNat = a.toNat * b.toNat := by
  have wide (x : Word) : (x.setWidth 64).toNat = x.toNat := by
    have := x.isLt
    rw [BitVec.toNat_setWidth]
    omega
  have bound : a.toNat * b.toNat < 2 ^ 64 := (Nat.mul_lt_mul'' a.isLt b.isLt).trans_eq (by norm_num)
  rw [productUnsigned, BitVec.toNat_mul, wide, wide, Nat.mod_eq_of_lt bound]

theorem resultInto_exact {rD : Reg} {r v : Word} {ovf ovf' oe rc : Bool} {s : State} (h : r = v) (k : ovf = ovf') :
    Goes (resultInto rD r ovf oe rc s) fun t => IntOutcome s t rD v oe ovf' (xerCa s) rc := by
  subst h k
  exact resultInto_outcome _ _ _ _ _ _

/-- Settles O3, from the exact value of the 64-bit products. -/
theorem multiplyResults : Obligations.MultiplyResults := by
  intro s rD rA rB simm oe rc
  refine ⟨?_, resultInto_exact ?_ (productOvf_eq _ _), resultInto_exact ?_ rfl, resultInto_exact ?_ rfl⟩
  · have exact_ : field (productSigned (gprGet s rA) (sext16 simm)) 32 32 =
        BitVec.ofInt 32 ((gprGet s rA).toInt * simm.toInt) := by
      rw [field_low, toInt_productSigned, toInt_sext16]
    exact (gprSet_exact _ exact_).mono fun t k => k.without_oe _
  · rw [field_low, toInt_productSigned]
  · rw [field_high, toInt_productSigned]
  · apply BitVec.eq_of_toNat_eq
    rw [field_toNat, toNat_productUnsigned, BitVec.toNat_ofNat]

/-! ## Quotients -/

theorem sdiv_eq_ofInt (a b : Word) : a.sdiv b = BitVec.ofInt 32 (a.toInt.tdiv b.toInt) := by
  rw [← BitVec.toInt_inj, BitVec.toInt_sdiv, BitVec.toInt_ofInt]

theorem eq_least_iff (a : Word) : a = 0x80000000 ↔ a.toInt = -2 ^ 31 := by
  rw [← BitVec.toInt_inj]
  rfl

theorem eq_ones_iff (b : Word) : b = 0xFFFFFFFF ↔ b.toInt = -1 := by
  rw [← BitVec.toInt_inj]
  rfl

/-- The register and the flags where there is no quotient: rD holds any value. -/
theorem anyQuotient_eq (rD : Reg) (oe : Bool) (s : State) :
    ∃ g x, (if oe then setOv true (gprSet (fresh 32 s).2 rD (fresh 32 s).1) else gprSet (fresh 32 s).2 rD (fresh 32 s).1) =
        { s with gpr := g, xer := x, freeCtr := s.freeCtr + 1 } ∧
      (∀ r, r ≠ rD → gprGet { s with gpr := g } r = gprGet s r) ∧
      XerFlags s { s with xer := x } (xerSo s || oe) (if oe then true else xerOv s) (xerCa s) := by
  have others : ∀ r, r ≠ rD → gprGet (gprSet s rD (fresh 32 s).1) r = gprGet s r :=
    fun r other => by rw [gprGet_gprSet, if_neg other]
  cases oe
  · exact ⟨_, s.xer, rfl, others, by rw [Bool.or_false]; exact XerFlags.refl s⟩
  · exact ⟨_, _, rfl, others, setOv_flags true s⟩

theorem bitAt_append_ofBit : ∀ (c : BitVec 3) (b : Bool), bitAt (c ++ ofBit b) 3 = b := by decide

/-- What is left where there is no quotient: any value in rD and in CR0[LT, GT, EQ]. -/
theorem undefinedQuotient_goes (rD : Reg) (oe rc : Bool) (s : State) :
    Goes (undefinedQuotient rD oe rc s) fun t =>
      XerFlags s t (xerSo s || oe) (if oe then true else xerOv s) (xerCa s) ∧
      (∀ r, r ≠ rD → gprGet t r = gprGet s r) ∧ CrOutside s t 0 ∧ (rc = false → t.cr = s.cr) ∧
      (rc = true → bitAt (crField t 0) 3 = xerSo t) ∧
      t = { s with gpr := t.gpr, xer := t.xer, cr := t.cr, freeCtr := t.freeCtr, pc := s.pc + 4 } := by
  obtain ⟨g, x, written, others, flags⟩ := anyQuotient_eq rD oe s
  unfold undefinedQuotient
  dsimp only
  rw [written]
  cases rc
  · exact ⟨_, rfl, flags.congr rfl, others, CrOutside.of_eq rfl 0, fun _ => rfl, (nomatch ·), rfl⟩
  · have recorded := setCrField_is { s with gpr := g, xer := x, freeCtr := s.freeCtr + 2 } 0
      ((fresh 3 { s with gpr := g, xer := x, freeCtr := s.freeCtr + 1 }).1 ++ ofBit (bitAt x 0))
    refine ⟨_, rfl, flags.congr rfl, others, recorded.outside, (nomatch ·), fun _ => ?_, rfl⟩
    exact (congrArg (bitAt · 3) (recorded 0)).trans (bitAt_append_ofBit _ _)

/-- Settles O4: the model divides as `Int.tdiv` does where there is a quotient. -/
theorem divideResults : Obligations.DivideResults := by
  refine ⟨fun s rD rA rB oe rc => ⟨fun nonzero fits => ?_, fun nonzero => ?_⟩,
    fun s rD rA rB oe rc => ⟨fun zero => ⟨?_, ?_⟩, fun least ones => ?_⟩⟩
  · have defined : ¬ (gprGet s rB = 0 ∨ (gprGet s rA = 0x80000000 ∧ gprGet s rB = 0xFFFFFFFF)) := by
      rw [eq_least_iff, eq_ones_iff]
      exact not_or.mpr ⟨nonzero, fits⟩
    show Goes (execDivw rD rA rB oe rc s) _
    rw [execDivw, if_neg defined]
    exact resultInto_exact (sdiv_eq_ofInt _ _) rfl
  · show Goes (execDivwu rD rA rB oe rc s) _
    rw [execDivwu, if_neg nonzero]
    refine resultInto_exact ?_ rfl
    apply BitVec.eq_of_toNat_eq
    have le := Nat.div_le_self (gprGet s rA).toNat (gprGet s rB).toNat
    have := (gprGet s rA).isLt
    rw [BitVec.toNat_udiv, BitVec.toNat_ofNat, Nat.mod_eq_of_lt (by omega)]
  · show Goes (execDivw rD rA rB oe rc s) _
    rw [execDivw, if_pos (.inl zero)]
    exact undefinedQuotient_goes rD oe rc s
  · show Goes (execDivwu rD rA rB oe rc s) _
    rw [execDivwu, if_pos zero]
    exact undefinedQuotient_goes rD oe rc s
  · have overflow : gprGet s rA = 0x80000000 ∧ gprGet s rB = 0xFFFFFFFF :=
      ⟨(eq_least_iff _).mpr least, (eq_ones_iff _).mpr ones⟩
    show Goes (execDivw rD rA rB oe rc s) _
    rw [execDivw, if_pos (.inr overflow)]
    exact undefinedQuotient_goes rD oe rc s

end Sys2Proof.Machine
end

section
/-! PROOF. O6 to O9: the logical instructions, rotates and shifts bit by bit, and the forms of the effective address. -/

namespace Sys2Proof.Machine

/-! ## Bit by bit -/

/-- What `logicInto` writes, by its bits. -/
theorem logicInto_bits {rA : Reg} {r : Word} {rc : Bool} {s : State} {f : Nat → Bool} (h : ∀ k, k < 32 → bitAt r k = f k) :
    Goes (logicInto rA r rc s) fun t =>
      (∀ k, k < 32 → bitAt (gprGet t rA) k = f k) ∧ IntOutcome s t rA (gprGet t rA) false false (xerCa s) rc := by
  refine (logicInto_outcome rA r rc s).mono fun t outcome => ?_
  have value : gprGet t rA = r := by simpa [List.lookup] using outcome.value rA
  rw [value]
  exact ⟨h, outcome⟩

theorem logicInto_exact {rA : Reg} {r v : Word} {rc : Bool} {s : State} (h : r = v) :
    Goes (logicInto rA r rc s) fun t => IntOutcome s t rA v false false (xerCa s) rc := h ▸ logicInto_outcome rA r rc s

theorem zext16_eq (x : BitVec 16) : zext16 x = BitVec.ofNat 32 x.toNat := by
  apply BitVec.eq_of_toNat_eq
  rw [zext16, BitVec.toNat_setWidth, BitVec.toNat_ofNat]

theorem high16_eq (x : BitVec 16) : high16 x = BitVec.ofNat 32 (x.toNat * 65536) := by
  apply BitVec.eq_of_toNat_eq
  have := x.isLt
  rw [high16, BitVec.toNat_append, BitVec.toNat_ofNat]
  simp only [Nat.shiftLeft_eq, BitVec.toNat_ofNat, BitVec.ofNat_eq_ofNat, Nat.zero_mod, Nat.or_zero]
  omega

/-- Sign extension of the low bits is the balanced remainder. -/
theorem signExtend_low {n : Nat} (hn : n ≤ 32) (x : Word) :
    (field x (32 - n) n : BitVec n).signExtend 32 = BitVec.ofInt 32 ((x.toNat : Int).bmod (2 ^ n)) := by
  have low : (field x (32 - n) n : BitVec n).toNat = x.toNat % 2 ^ n := by
    rw [field_toNat, show 32 - (32 - n) - n = 0 by omega, pow_zero, Nat.div_one]
  rw [BitVec.signExtend, BitVec.toInt_eq_toNat_bmod, low, Int.natCast_emod, Int.emod_bmod]

/-- The count of leading zeros: zeros before it, and a one at it. -/
theorem countLeadingZeros_spec (x : Word) :
    countLeadingZeros x ≤ 32 ∧ (∀ k, k < countLeadingZeros x → bitAt x k = false) ∧
      (countLeadingZeros x < 32 → bitAt x (countLeadingZeros x) = true) := by
  unfold countLeadingZeros
  cases e : (List.range 32).find? fun i => bitAt x i with
  | none =>
    have none_set := List.find?_eq_none.mp e
    refine ⟨le_rfl, fun k hk => ?_, fun h => absurd h (lt_irrefl _)⟩
    simpa using none_set k (List.mem_range.mpr hk)
  | some n =>
    obtain ⟨found, inside, before⟩ := List.find?_range_eq_some.mp e
    exact ⟨(List.mem_range.mp inside).le, fun k hk => by simpa using before k hk, fun _ => found⟩

/-- Settles O6. -/
theorem logicalResults : Obligations.LogicalResults := by
  refine ⟨fun s rA rS rB uimm rc => ?_, fun s rA rS rc => ⟨logicInto_exact ?_, logicInto_exact ?_, ?_⟩⟩
  · dsimp only
    rw [← zext16_eq, ← high16_eq]
    refine ⟨?_, ?_, ?_, ?_, ?_, ?_, ?_, ?_, ?_, ?_, ?_, ?_, ?_, ?_⟩
    all_goals
      refine logicInto_bits fun k hk => ?_
      simp only [bitAt_and, bitAt_or, bitAt_xor, bitAt_not _ hk]
    simp only [bne, Bool.not_not]
  · exact signExtend_low (n := 8) (by decide) _
  · exact signExtend_low (n := 16) (by decide) _
  · obtain ⟨bound, zeros, one⟩ := countLeadingZeros_spec (gprGet s rS)
    exact ⟨_, bound, logicInto_exact rfl, zeros, one⟩

/-! ## Rotation -/

theorem bitAt_rotl32 (x : Word) (n : Reg) {k : Nat} (hk : k < 32) : bitAt (rotl32 x n) k = bitAt x ((k + n.toNat) % 32) := by
  simp only [bitAt, rotl32, BitVec.getMsbD_rotateLeft, hk, decide_true, Bool.true_and, Nat.add_comm]

theorem bitAt_maskMbMe (mb me : Reg) {k : Nat} (hk : k < 32) : bitAt (maskMbMe mb me) k = inMask mb me k := by
  have last := me.isLt
  have up : bitAt ((0xFFFFFFFF : Word) >>> mb.toNat) k = decide (mb.toNat ≤ k) := by
    rw [bitAt, show (0xFFFFFFFF : Word) = BitVec.allOnes 32 from rfl, BitVec.getMsbD_ushiftRight, BitVec.getMsbD_allOnes,
      Bool.eq_iff_iff]
    simp only [Bool.and_eq_true, Bool.not_eq_true', decide_eq_true_iff, decide_eq_false_iff_not]
    omega
  have down : bitAt ((0xFFFFFFFF : Word) <<< (31 - me.toNat)) k = decide (k ≤ me.toNat) := by
    rw [bitAt, show (0xFFFFFFFF : Word) = BitVec.allOnes 32 from rfl, BitVec.getMsbD_shiftLeft, BitVec.getMsbD_allOnes,
      decide_eq_decide]
    omega
  unfold maskMbMe inMask
  simp only [BitVec.le_def]
  split
  · rw [bitAt_and, up, down, Bool.decide_and]
  · rw [bitAt_or, up, down, Bool.decide_or]

theorem bitAt_zero {w : Nat} (k : Nat) : bitAt (0 : BitVec w) k = false := by simp [bitAt]

theorem bitAt_and_mask (x : Word) (mb me : Reg) {k : Nat} (hk : k < 32) :
    bitAt (x &&& maskMbMe mb me) k = if inMask mb me k then bitAt x k else bitAt (0 : Word) k := by
  rw [bitAt_and, bitAt_maskMbMe _ _ hk, bitAt_zero]
  cases inMask mb me k <;> simp

/-- Settles O7, from the bits of a rotated word and of a mask. -/
theorem rotateResults : Obligations.RotateResults := by
  intro s rA rS rB sh mb me rc
  have amount : (field (gprGet s rB) 27 5 : BitVec 5).toNat = (gprGet s rB).toNat % 32 := by
    rw [field_toNat]
    norm_num
  refine ⟨logicInto_bits fun k hk => ?_, logicInto_bits fun k hk => ?_, logicInto_bits fun k hk => ?_⟩
  · rw [bitAt_and_mask _ _ _ hk, bitAt_rotl32 _ _ hk]
  · rw [bitAt_and_mask _ _ _ hk, bitAt_rotl32 _ _ hk, amount]
  · rw [bitAt_merge _ _ _ hk, bitAt_maskMbMe _ _ hk, bitAt_rotl32 _ _ hk]

/-! ## Shifts -/

theorem shiftAmount_eq (x : Word) : shiftAmount x = x.toNat % 64 := by
  rw [shiftAmount, field_toNat]
  norm_num

theorem shiftLeft_eq_ofNat (x : Word) (n : Nat) : x <<< n = BitVec.ofNat 32 (x.toNat * 2 ^ n) := by
  apply BitVec.eq_of_toNat_eq
  rw [BitVec.toNat_shiftLeft, BitVec.toNat_ofNat, Nat.shiftLeft_eq]

theorem shiftRight_eq_ofNat (x : Word) (n : Nat) : x >>> n = BitVec.ofNat 32 (x.toNat / 2 ^ n) := by
  have := x.isLt
  have le := Nat.div_le_self x.toNat (2 ^ n)
  apply BitVec.eq_of_toNat_eq
  rw [BitVec.toNat_ushiftRight, BitVec.toNat_ofNat, Nat.shiftRight_eq_div_pow, Nat.mod_eq_of_lt (by omega)]

theorem sshiftRight_eq_ofInt (x : Word) (n : Nat) : x.sshiftRight n = BitVec.ofInt 32 (x.toInt / 2 ^ n) := by
  rw [BitVec.sshiftRight, Int.shiftRight_eq_div_pow]
  norm_num

theorem sshiftRight_shiftLeft (x : Word) (n : Nat) : x.sshiftRight n <<< n = BitVec.ofInt 32 (x.toInt / 2 ^ n * 2 ^ n) := by
  have power : BitVec.twoPow 32 n = BitVec.ofInt 32 (2 ^ n) := by
    apply BitVec.eq_of_toNat_eq
    rw [BitVec.toNat_twoPow, show ((2 : Int) ^ n) = ((2 ^ n : Nat) : Int) by push_cast; rfl, BitVec.ofInt_natCast,
      BitVec.toNat_ofNat]
  rw [sshiftRight_eq_ofInt, BitVec.shiftLeft_eq_mul_twoPow, power, BitVec.ofInt_mul]

/-- A multiple of 2^n next below a word is that word, modulo 2^32, exactly if the word is a multiple of 2^n. -/
theorem ofInt_floor_eq_iff (x : Word) (n : Nat) : BitVec.ofInt 32 (x.toInt / 2 ^ n * 2 ^ n) = x ↔ x.toInt % 2 ^ n = 0 := by
  have split_ := Int.ediv_mul_add_emod x.toInt (2 ^ n)
  constructor
  · intro e
    have e := congrArg BitVec.toInt e
    rw [BitVec.toInt_ofInt] at e
    have divides : (x.toInt % 2 ^ n) % 2 ^ 32 = 0 := by
      generalize x.toInt / 2 ^ n * 2 ^ n = m at e split_
      rw [Int.bmod_def] at e
      split at e <;> omega
    rcases Nat.le_total n 32 with narrow | wide
    · have nonneg := Int.emod_nonneg x.toInt (b := 2 ^ n) (by positivity)
      have below : x.toInt % 2 ^ n < 2 ^ 32 :=
        (Int.emod_lt_of_pos x.toInt (by positivity)).trans_le (pow_le_pow_right₀ (by norm_num) narrow)
      rwa [Int.emod_eq_of_lt nonneg below] at divides
    · rw [Int.emod_emod_of_dvd _ (pow_dvd_pow 2 wide)] at divides
      have least := BitVec.le_toInt x
      have greatest := BitVec.toInt_lt (x := x)
      have zero : x.toInt = 0 := by omega
      rw [zero, Int.zero_emod]
  · intro zero
    rw [zero, add_zero] at split_
    rw [split_, BitVec.ofInt_toInt]

/-- CA of an algebraic shift: the number is negative, and the division is not exact. -/
theorem sraCarry_eq (x : Word) (n : Nat) : sraCarry x n = decide (x.toInt < 0 ∧ x.toInt % 2 ^ n ≠ 0) := by
  have sign : bitAt x 0 = decide (x.toInt < 0) := by rw [bitAt, ← BitVec.msb_eq_getMsbD_zero, BitVec.msb_eq_toInt]
  have exact_ : x.sshiftRight n <<< n = x ↔ x.toInt % 2 ^ n = 0 := by rw [sshiftRight_shiftLeft, ofInt_floor_eq_iff]
  rw [sraCarry, sign, Bool.decide_and]
  congr 1
  rw [Bool.eq_iff_iff, bne_iff_ne, decide_eq_true_iff, ne_eq, exact_]

theorem shiftInto_exact {rA : Reg} {r v : Word} {ca ca' rc : Bool} {s : State} (h : r = v) (k : ca = ca') :
    Goes (shiftInto rA r ca rc s) fun t => IntOutcome s t rA v false false ca' rc := by
  subst h k
  exact shiftInto_outcome _ _ _ _ _

/-- Settles O8, from the shifts as multiplication and division. -/
theorem shiftResults : Obligations.ShiftResults := by
  intro s rA rS rB sh rc
  dsimp only
  rw [← shiftAmount_eq]
  exact ⟨logicInto_exact (shiftLeft_eq_ofNat _ _), logicInto_exact (shiftRight_eq_ofNat _ _),
    shiftInto_exact (sshiftRight_eq_ofInt _ _) (sraCarry_eq _ _), shiftInto_exact (sshiftRight_eq_ofInt _ _) (sraCarry_eq _ _)⟩

/-! ## Effective addresses -/

/-- Settles O9: the base and the displacement or index, added as exact numbers. -/
theorem effectiveAddresses : Obligations.EffectiveAddresses := by
  intro s rA rB d
  have signed (x : Word) : x + sext16 d = BitVec.ofInt 32 (x.toInt + d.toInt) := by
    rw [← toInt_sext16, BitVec.ofInt_add, BitVec.ofInt_toInt, BitVec.ofInt_toInt]
  have unsigned (x y : Word) : x + y = BitVec.ofNat 32 (x.toNat + y.toNat) := by
    rw [BitVec.ofNat_add, BitVec.ofNat_toNat, BitVec.ofNat_toNat, BitVec.setWidth_eq, BitVec.setWidth_eq]
  have baseInt : (base s rA).toInt = if rA = 0 then 0 else (gprGet s rA).toInt := by unfold base; split <;> rfl
  have baseNat : (base s rA).toNat = if rA = 0 then 0 else (gprGet s rA).toNat := by unfold base; split <;> rfl
  exact ⟨by rw [← baseInt]; exact signed _, by rw [← baseNat]; exact unsigned _ _, signed _, unsigned _ _⟩

end Sys2Proof.Machine
end

section
/-! PROOF. O21 to O23 and O31: branches, the condition register, traps and the system call. -/

namespace Sys2Proof.Machine

/-! ## Branches -/

/-- Clearing the low two bits of an address. -/
theorem word_and_eq_ofNat (a : Word) : a &&& 0xFFFFFFFC = BitVec.ofNat 32 (a.toNat / 4 * 4) := by
  have low : a &&& (0xFFFFFFFC : Word) = (a >>> 2) <<< 2 := by
    apply eq_of_bitAt
    intro k hk
    have mask : bitAt (0xFFFFFFFC : Word) k = decide (k < 30) := by
      have : ∀ i : Fin 32, bitAt (0xFFFFFFFC : Word) i.val = decide (i.val < 30) := by decide
      exact this ⟨k, hk⟩
    rw [bitAt_and, mask]
    simp only [bitAt, BitVec.getMsbD_shiftLeft, BitVec.getMsbD_ushiftRight]
    by_cases inside : k < 30
    · simp [inside]
      omega
    · simp [inside]
      omega
  have := a.isLt
  rw [low, shiftRight_eq_ofNat, shiftLeft_eq_ofNat, BitVec.toNat_ofNat, Nat.mod_eq_of_lt (by omega)]
  norm_num

theorem word_and_of_aligned {a : Word} (h : a.toNat % 4 = 0) : a &&& 0xFFFFFFFC = a := by
  rw [word_and_eq_ofNat, show a.toNat / 4 * 4 = a.toNat by omega, BitVec.ofNat_toNat, BitVec.setWidth_eq]

/-- A displacement counts words. -/
theorem displacement_eq {n : Nat} (hn : n + 2 ≤ 32) (x : BitVec n) : displacement x = BitVec.ofInt 32 (4 * x.toInt) := by
  have wide : (displacement x).toInt = 4 * x.toInt := by
    rw [displacement, BitVec.toInt_signExtend_of_le hn, BitVec.toInt_eq_toNat_cond, BitVec.toInt_eq_toNat_cond,
      BitVec.toNat_append]
    simp only [Nat.shiftLeft_eq, BitVec.toNat_ofNat, BitVec.ofNat_eq_ofNat, Nat.zero_mod, Nat.or_zero]
    have := x.isLt
    have power : 2 ^ (n + 2) = 2 ^ n * 4 := by rw [pow_add]; rfl
    split <;> split <;> omega
  rw [← wide, BitVec.ofInt_toInt]

/-- The target of a relative branch is a word address already. -/
theorem relative_target {n : Nat} (hn : n + 2 ≤ 32) {s : State} (aligned : PcAligned s) (x : BitVec n) (aa : Bool) :
    (if aa then displacement x else s.pc + displacement x) &&& 0xFFFFFFFC =
      BitVec.ofInt 32 ((if aa then 0 else s.pc.toInt) + 4 * x.toInt) := by
  have whole : (if aa then displacement x else s.pc + displacement x) =
      BitVec.ofInt 32 ((if aa then 0 else s.pc.toInt) + 4 * x.toInt) := by
    rw [displacement_eq hn]
    cases aa
    · simp [BitVec.ofInt_add]
    · simp
  rw [whole]
  refine word_and_of_aligned ?_
  have pc := (aligned_iff s.pc).mp aligned
  have signed := BitVec.toInt_eq_toNat_cond s.pc
  rw [BitVec.toNat_ofInt]
  generalize x.toInt = m
  split at signed <;> cases aa <;> simp <;> omega

/-- A branch with its condition as a proposition. -/
theorem branchTo_goes {taken : Bool} {c : Prop} {target v : Word} {s u : State} (h : taken = true ↔ c)
    (hv : target &&& 0xFFFFFFFC = v) (pc : u.pc = s.pc) :
    (c → branchTo taken target u = .next { u with pc := v }) ∧
      (¬ c → branchTo taken target u = .next { u with pc := s.pc + 4 }) := by
  constructor
  · intro yes
    rw [branchTo, h.mpr yes, if_pos rfl, hv]
  · intro no
    have off : taken = false := Bool.eq_false_iff.mpr fun on => no (h.mp on)
    rw [branchTo, off, npc, pc]
    rfl

theorem linkIf_eq (lk : Bool) (s : State) : linkIf lk s = { s with lr := if lk then s.pc + 4 else s.lr } := by
  cases lk <;> rfl

theorem condOk_iff (bo bi : Reg) (s : State) :
    condOk bo bi s = true ↔ bitAt bo 0 = true ∨ bitAt s.cr bi.toNat = bitAt bo 1 := by
  rw [condOk, Bool.or_eq_true, beq_iff_eq]
  rfl

theorem ctrOk_iff (bo : Reg) (s : State) : ctrOk bo s = true ↔ bitAt bo 2 = true ∨
    (if bitAt bo 3 then (if bitAt bo 2 then s.ctr else s.ctr - 1) = 0 else (if bitAt bo 2 then s.ctr else s.ctr - 1) ≠ 0) := by
  rw [ctrOk, Bool.or_eq_true]
  refine or_congr Iff.rfl ?_
  show ((ctrAfter bo s != 0) != bitAt bo 3) = true ↔ if bitAt bo 3 = true then ctrAfter bo s = 0 else ctrAfter bo s ≠ 0
  cases bitAt bo 3 <;> simp

theorem branchOk_iff (bo bi : Reg) (s : State) : (ctrOk bo s && condOk bo bi s) = true ↔
    (bitAt bo 2 = true ∨
      (if bitAt bo 3 then (if bitAt bo 2 then s.ctr else s.ctr - 1) = 0 else (if bitAt bo 2 then s.ctr else s.ctr - 1) ≠ 0)) ∧
    (bitAt bo 0 = true ∨ bitAt s.cr bi.toNat = bitAt bo 1) := by
  rw [Bool.and_eq_true, ctrOk_iff, condOk_iff]

/-- Settles O21: each branch is `branchTo` with the count and the link written before. -/
theorem branchResults : Obligations.BranchResults := by
  intro s li bo bi bd aa lk aligned
  refine ⟨?_, ?_, ?_, ?_⟩
  · have goes := branchTo_goes (u := linkIf lk s) (c := True) (taken := true) (by simp)
      (relative_target (by decide) aligned li aa) (by rw [linkIf_eq])
    rw [linkIf_eq] at goes
    simp only [exec, execB, linkIf_eq]
    exact goes
  · have goes := branchTo_goes (u := linkIf lk { s with ctr := ctrAfter bo s }) (branchOk_iff bo bi s)
      (relative_target (by decide) aligned bd aa) (by rw [linkIf_eq])
    rw [linkIf_eq] at goes
    simp only [exec, execBc, linkIf_eq]
    exact goes
  · have goes := branchTo_goes (u := linkIf lk { s with ctr := ctrAfter bo s }) (branchOk_iff bo bi s)
      (word_and_eq_ofNat s.lr) (by rw [linkIf_eq])
    rw [linkIf_eq] at goes
    simp only [exec, execBclr, linkIf_eq]
    exact goes
  · have goes := branchTo_goes (u := linkIf lk s) (condOk_iff bo bi s) (word_and_eq_ofNat s.ctr) (by rw [linkIf_eq])
    rw [linkIf_eq] at goes
    cases fixed : bitAt bo 2
    · exact ⟨_, by simp only [exec, execBcctr, fixed, Bool.not_false, if_true]; rfl⟩
    · simp only [exec, execBcctr, fixed, Bool.not_true, Bool.false_eq_true, if_false, if_true, linkIf_eq]
      exact goes

/-! ## The condition register -/

theorem crLogic_goes (f : Bool → Bool → Bool) (d a b : Reg) (s : State) :
    Goes (crLogic f d a b s) fun t =>
      (∀ k, k < 32 →
        bitAt t.cr k = if k = d.toNat then f (bitAt s.cr a.toNat) (bitAt s.cr b.toNat) else bitAt s.cr k) ∧
      t = { s with cr := t.cr, pc := s.pc + 4 } :=
  ⟨_, rfl, fun _ hk => bitAt_setBit _ _ _ hk, rfl⟩

theorem setCrField_goes (n : CrField) (v : BitVec 4) (s : State) :
    Goes (nextInstr (setCrField n v s)) fun t => CrFieldIs s t n v ∧ t = { s with cr := t.cr, pc := s.pc + 4 } :=
  ⟨_, rfl, setCrField_is s n v, rfl⟩

/-- Settles O22: every one is `crLogic` with its function. -/
theorem conditionRegisterResults : Obligations.ConditionRegisterResults := fun s d a b _ _ =>
  ⟨crLogic_goes (fun x y => x && y) d a b s, crLogic_goes (fun x y => x || y) d a b s,
    crLogic_goes (fun x y => x != y) d a b s, crLogic_goes (fun x y => !(x && y)) d a b s,
    crLogic_goes (fun x y => !(x || y)) d a b s, crLogic_goes (fun x y => x == y) d a b s,
    crLogic_goes (fun x y => x && !y) d a b s, crLogic_goes (fun x y => x || !y) d a b s, setCrField_goes _ _ _⟩

/-! ## Traps -/

theorem trapCondition_iff (cond : Reg) (a b : Word) : trapCondition cond a b = true ↔
    (bitAt cond 0 = true ∧ a.toInt < b.toInt) ∨ (bitAt cond 1 = true ∧ b.toInt < a.toInt) ∨
      (bitAt cond 2 = true ∧ a = b) ∨ (bitAt cond 3 = true ∧ a.toNat < b.toNat) ∨
      (bitAt cond 4 = true ∧ b.toNat < a.toNat) := by
  simp only [trapCondition, Bool.or_eq_true, Bool.and_eq_true, beq_iff_eq, BitVec.slt_iff_toInt_lt, BitVec.ult_iff_toNat_lt,
    or_assoc]

theorem trapIf_goes {c : Bool} {met : Prop} (h : c = true ↔ met) (s : State) :
    (¬ met → trapIf c s = .next { s with pc := s.pc + 4 }) ∧
      (met → Goes (trapIf c s) fun t => Entered s t 0x700 s.pc 0x00020000) := by
  rw [← h]
  cases c
  · exact ⟨fun _ => rfl, fun yes => nomatch yes⟩
  · exact ⟨fun no => absurd rfl no, fun _ => goes_next (takeTrap_entered s) rfl⟩

/-- Settles O23, from what a trap and an entry do. -/
theorem trapAndSystemCallResults : Obligations.TrapAndSystemCallResults := by
  refine ⟨fun s cond rA rB simm => ⟨trapIf_goes (trapCondition_iff _ _ _) s, ?_⟩,
    fun s => goes_next (takeException_entered 0xC00 (s.pc + 4) 0 s) rfl⟩
  have imm : BitVec.ofInt 32 simm.toInt = sext16 simm := by rw [← toInt_sext16, BitVec.ofInt_toInt]
  rw [imm]
  exact trapIf_goes (trapCondition_iff _ _ _) s

/-! ## Moves of the condition register -/

theorem field_merge {w : Nat} {m x y : BitVec w} {f l : Nat} {b : Bool} (h : f + l ≤ w)
    (select : ∀ k, k < l → bitAt m (f + k) = b) :
    (field (merge m x y) f l : BitVec l) = if b then field y f l else field x f l := by
  apply eq_of_bitAt
  intro k hk
  rw [bitAt_field _ h hk, bitAt_merge _ _ _ (by omega), select k hk]
  cases b <;> simp [bitAt_field _ h hk]

theorem bitAt_nibble : ∀ (b : Bool) (k : Fin 4), bitAt (if b then 0b1111 else 0 : BitVec 4) k.val = b := by decide

/-- The mask of `mtcrf` and `mtfsf` holds a field's bits as its selector does. -/
theorem bitAt_fieldsMask (m : BitVec 8) {j k : Nat} (hj : j < 8) (hk : k < 4) :
    bitAt (fieldsMask m) (4 * j + k) = bitAt m j := by
  have nibble (b : Bool) := bitAt_nibble b ⟨k, hk⟩
  unfold fieldsMask
  interval_cases j
  all_goals
    simp (disch := omega) only [bitAt_append_left, bitAt_append_right]
    simpa using nibble _

/-- Settles O31, by the fields of a merged word. -/
theorem conditionRegisterMoves : Obligations.ConditionRegisterMoves := by
  intro s crm rD rS crfD
  refine ⟨⟨_, rfl, fun n => ?_, rfl⟩, ⟨_, rfl, gprs_one rfl, rfl⟩,
    ⟨_, rfl, setCrField_is { s with xer := s.xer &&& 0x0FFFFFFF } crfD (field s.xer 0 4), ?_, ?_, rfl⟩⟩
  · have := n.isLt
    exact field_merge (by omega) fun k hk => bitAt_fieldsMask crm this hk
  · apply eq_of_bitAt
    intro k hk
    have clear : ∀ k : Fin 4, bitAt (0x0FFFFFFF : Word) k.val = false := by decide
    rw [bitAt_field _ (by decide) hk]
    show bitAt (s.xer &&& 0x0FFFFFFF) (0 + k) = _
    rw [bitAt_and, Nat.zero_add, clear ⟨k, hk⟩, Bool.and_false, bitAt_zero]
  · refine field_congr (by decide) fun k hk => ?_
    have set : ∀ k : Fin 28, bitAt (0x0FFFFFFF : Word) (4 + k.val) = true := by decide
    show bitAt (s.xer &&& 0x0FFFFFFF) (4 + k) = _
    rw [bitAt_and, set ⟨k, hk⟩, Bool.and_true]

end Sys2Proof.Machine
end

section
/-! PROOF. O24 to O29: the moves of processor control. -/

namespace Sys2Proof.Machine

/-! ## The MSR and the segment registers -/

theorem privileged_goes {s : State} (super : msrPr s = false) {k : Out} {P : State → Prop} (h : Goes k P) :
    Goes (privileged s k) P := by rwa [privileged_supervisor super]

theorem srMove_goes (n : BitVec 4) (v : Word) (s : State) :
    Goes (nextInstr (srMove n v s)) fun t =>
      (∀ m, srGet t m = if m = n then v else srGet s m) ∧
      t = { s with
        mmu := { s.mmu with sr := t.mmu.sr }, ctx := opened (.sr n) (srGet s n) s.ctx
        fetch := { s.fetch with queue := [] }, pc := s.pc + 4 } :=
  ⟨_, rfl, fun m => srGet_srSet s n m v, rfl⟩

theorem gprSet_goes (r : Reg) (v : Word) (s : State) :
    Goes (nextInstr (gprSet s r v)) fun t => Gprs s t [(r, v)] ∧ t = { s with gpr := t.gpr, pc := s.pc + 4 } :=
  ⟨_, rfl, gprs_one rfl, rfl⟩

/-- A write of the MSR and what follows where it sets an enabled floating-point exception free. -/
theorem fpPending_cases (u : State) :
    if bitAt u.fpscr 1 = true ∧ (bitAt u.msr 20 = true ∨ bitAt u.msr 23 = true) then
      Goes (fpPending u) fun t => Entered u t 0x700 u.pc 0x00100000
    else fpPending u = .next u := by
  unfold fpPending
  split
  · next h =>
    rw [if_pos (by simp [h.1, h.2])]
    exact goes_next (takeFpEnabled_entered u) rfl
  · next h =>
    rw [if_neg (by simpa [and_comm] using h)]

/-- Settles O24. -/
theorem msrAndSegmentMoves : Obligations.MsrAndSegmentMoves := by
  intro s rD rS rB n super
  refine ⟨⟨?_, ?_, ?_, ?_⟩, ?_, ?_⟩
  · exact privileged_goes super (srMove_goes n _ s)
  · exact privileged_goes super (srMove_goes _ _ s)
  · exact privileged_goes super (gprSet_goes rD _ s)
  · exact privileged_goes super (gprSet_goes rD _ s)
  · exact privileged_goes super (gprSet_goes rD _ s)
  · have moved : exec (.mtmsr rS) s = fpPending (advance (msrMove (gprGet s rS &&& msrMask) s)) :=
      privileged_supervisor super _
    have cases_ := fpPending_cases (advance (msrMove (gprGet s rS &&& msrMask) s))
    rw [← moved] at cases_
    exact cases_

theorem merge_rfiMask (x y : Word) : merge rfiMask x y = (x &&& 0x783F0080) ||| (y &&& 0x87C0FF7F) := by
  have outside : ~~~ rfiMask = 0x783F0080 := by decide
  rw [merge, outside]
  rfl

/-- Settles O25. -/
theorem returnFromInterruptResult : Obligations.ReturnFromInterruptResult := by
  intro s super
  have returned : exec .rfi s = fpPending (returnFromException s) := privileged_supervisor super _
  have cases_ := fpPending_cases (returnFromException s)
  rw [← returned] at cases_
  rw [← merge_rfiMask, ← word_and_eq_ofNat]
  exact cases_

/-! ## Reading special registers -/

theorem readSpr_user {n : Nat} {s : State} {v : Word} (h : userSpr n s = some v) (rD : Reg) (rc : Bool) :
    Goes (readSpr rD n rc s) fun t => LoadOutcome s t [(rD, v)] rc := by
  unfold readSpr
  rw [h]
  exact ⟨_, rfl, loadOutcome_of rc (gprs_one rfl)⟩

theorem readSpr_supervisor {n : Nat} {s : State} {v : Word} (super : msrPr s = false) (hidden : userSpr n s = none)
    (h : supervisorSpr n s = some v) (rD : Reg) (rc : Bool) :
    Goes (readSpr rD n rc s) fun t => LoadOutcome s t [(rD, v)] rc := by
  unfold readSpr
  rw [hidden, h]
  exact ⟨_, privileged_supervisor super _, loadOutcome_of rc (gprs_one rfl)⟩

/-- Settles O26. -/
theorem specialRegisterReads : Obligations.SpecialRegisterReads := by
  intro s rD rc
  have user (n : BitVec 10) (v : Word) (h : userSpr n.toNat s = some v) :
      (Goes (exec (.mfspr rD n rc) s) fun t => LoadOutcome s t [(rD, v)] rc) ∧
      (Goes (exec (.mftb rD n) s) fun t => LoadOutcome s t [(rD, v)] false) :=
    ⟨readSpr_user h rD rc, readSpr_user h rD false⟩
  refine ⟨⟨user _ _ rfl, user _ _ rfl, user _ _ rfl, user _ _ rfl, user _ _ rfl, user _ _ rfl, user _ _ rfl, user _ _ rfl,
    user _ _ rfl, user _ _ rfl, user _ _ rfl, user _ _ rfl, user _ _ rfl⟩, fun super => ?_⟩
  have supervisor (n : BitVec 10) (v : Word) (hidden : userSpr n.toNat s = none) (h : supervisorSpr n.toNat s = some v) :
      (Goes (exec (.mfspr rD n rc) s) fun t => LoadOutcome s t [(rD, v)] rc) ∧
      (Goes (exec (.mftb rD n) s) fun t => LoadOutcome s t [(rD, v)] false) :=
    ⟨readSpr_supervisor super hidden h rD rc, readSpr_supervisor super hidden h rD false⟩
  have l2ip : l2crValue s = setBit s.hid.l2cr 31 (decide (s.caches.l2Inval ≠ 0)) := by
    unfold l2crValue
    congr 1
    rw [Bool.eq_iff_iff]
    simp
  refine ⟨?_, ?_, ?_, ?_, ?_, ?_, ?_, ?_, ?_, ?_, ?_, ?_, ?_, ?_, ?_, ?_, ?_, ?_, ?_, ?_, ?_, ?_, ?_, ?_, ?_, ?_, ?_, ?_, ?_, ?_,
    ⟨?_, ?_⟩, ⟨?_, ?_⟩, ⟨?_, ?_⟩, ⟨?_, ?_⟩, ⟨?_, ?_⟩, ⟨?_, ?_⟩, ⟨?_, ?_⟩, ⟨?_, ?_⟩, ⟨?_, ?_⟩, ⟨?_, ?_⟩, ⟨?_, ?_⟩, ⟨?_, ?_⟩,
    ⟨?_, ?_⟩, ⟨?_, ?_⟩, ⟨?_, ?_⟩, ⟨?_, ?_⟩⟩
  case refine_26 => exact l2ip ▸ supervisor 1017 _ rfl rfl
  all_goals exact supervisor _ _ rfl rfl

/-! ## Writing special registers -/

/-- A write has stored the value: `u` is the state with it. -/
def Stored (s u : State) (rc : Bool) (t : State) : Prop :=
  (rc = false → t.cr = s.cr ∧ t.freeCtr = s.freeCtr) ∧ CrOutside s t 0 ∧
    t = { u with cr := t.cr, freeCtr := t.freeCtr, pc := s.pc + 4 }

/-- The rest of the state is that of the write. -/
structure SameFlow (s u : State) : Prop where
  cr : u.cr = s.cr
  freeCtr : u.freeCtr = s.freeCtr
  pc : u.pc = s.pc

theorem stored_goes {s u : State} (h : SameFlow s u) (rc : Bool) : Goes (nextInstr (recordAny rc u)) (Stored s u rc) := by
  have outside : CrOutside s (recordAny rc u) 0 := fun m hm =>
    (recordAny_outside rc u m hm).trans (crField_congr h.cr m)
  refine ⟨_, rfl, fun off => ?_, outside, ?_⟩
  · subst off
    exact ⟨h.cr, h.freeCtr⟩
  · rw [← h.pc]
    cases rc <;> rfl

theorem writeSpr_user {n : Nat} {v : Word} {s u : State} (h : userSprSet n v s = some u) (same : SameFlow s u) (rc : Bool) :
    Goes (writeSpr n v rc s) (Stored s u rc) := by
  unfold writeSpr
  rw [h]
  exact stored_goes same rc

theorem writeSpr_eq_supervisor {n : Nat} {v : Word} {s u : State} (super : msrPr s = false)
    (hidden : userSprSet n v s = none) (usda : n ≠ 943) (h : supervisorSprSet n v s = some u) (rc : Bool) :
    writeSpr n v rc s =
      if n = 1017 ∧ l2crMisuse v s then .fault .l2InvalidateMisuse else nextInstr (recordAny rc u) := by
  unfold writeSpr
  rw [hidden, if_neg usda, h]
  exact privileged_supervisor super _

theorem writeSpr_supervisor {n : Nat} {v : Word} {s u : State} (super : msrPr s = false)
    (hidden : userSprSet n v s = none) (other : n ≠ 943 ∧ n ≠ 1017) (h : supervisorSprSet n v s = some u)
    (same : SameFlow s u) (rc : Bool) : Goes (writeSpr n v rc s) (Stored s u rc) := by
  rw [writeSpr_eq_supervisor super hidden other.1 h, if_neg fun e => other.2 e.1]
  exact stored_goes same rc

theorem writeSpr_usda {s : State} (super : msrPr s = false) (v : Word) (rc : Bool) :
    Goes (writeSpr 943 v rc s) (Stored s s rc) := by
  have writes : writeSpr 943 v rc s = nextInstr (recordAny rc s) := by
    show (if msrPr s then _ else _) = _
    rw [super]
    rfl
  rw [writes]
  exact stored_goes ⟨rfl, rfl, rfl⟩ rc

/-- Settles O27. -/
theorem specialRegisterWrites : Obligations.SpecialRegisterWrites := by
  intro s rS rc
  have user (n : BitVec 10) (u : State) (h : userSprSet n.toNat (gprGet s rS) s = some u) (same : SameFlow s u) :
      Goes (exec (.mtspr n rS rc) s) (Stored s u rc) := writeSpr_user h same rc
  refine ⟨⟨user _ _ rfl ⟨rfl, rfl, rfl⟩, user _ _ rfl ⟨rfl, rfl, rfl⟩, user _ _ rfl ⟨rfl, rfl, rfl⟩⟩, fun super => ?_⟩
  have supervisor (n : BitVec 10) (u : State) (hidden : userSprSet n.toNat (gprGet s rS) s = none)
      (other : n.toNat ≠ 943 ∧ n.toNat ≠ 1017) (h : supervisorSprSet n.toNat (gprGet s rS) s = some u)
      (same : SameFlow s u) : Goes (exec (.mtspr n rS rc) s) (Stored s u rc) := writeSpr_supervisor super hidden other h same rc
  refine ⟨?_, ?_, ?_, ?_, ?_, ?_, ?_, ?_, ?_, ?_, ?_, ?_, ?_, ?_, ?_, ?_, ?_, ?_, ?_, ?_, ?_,
    ⟨?_, ?_⟩, ⟨?_, ?_⟩, ⟨?_, ?_⟩, ⟨?_, ?_⟩, ⟨?_, ?_⟩, ⟨?_, ?_⟩, ⟨?_, ?_⟩, ⟨?_, ?_⟩, ⟨?_, ?_⟩, ⟨?_, ?_⟩, ⟨?_, ?_⟩, ⟨?_, ?_⟩,
    ⟨?_, ?_⟩, ⟨?_, ?_⟩, ⟨?_, ?_⟩, ⟨?_, ?_⟩⟩
  case refine_18 => exact writeSpr_usda super (gprGet s rS) rc
  all_goals exact supervisor _ _ rfl (by decide) rfl ⟨rfl, rfl, rfl⟩

/-! ## Numbers that name no register -/

theorem readSpr_illegal {n : Nat} {s : State} (user : userSpr n s = none) (super : supervisorSpr n s = none) (rD : Reg)
    (rc : Bool) : Goes (readSpr rD n rc s) fun t => Entered s t 0x700 s.pc 0x00080000 := by
  unfold readSpr
  rw [user, super]
  exact goes_next (takeIllegal_entered s) rfl

theorem writeSpr_illegal {n : Nat} {v : Word} {s : State} (user : userSprSet n v s = none) (usda : n ≠ 943)
    (super : supervisorSprSet n v s = none) (rc : Bool) :
    Goes (writeSpr n v rc s) fun t => Entered s t 0x700 s.pc 0x00080000 := by
  unfold writeSpr
  rw [user, if_neg usda, super]
  exact goes_next (takeIllegal_entered s) rfl

/-- Settles O29, from the numbers each table of registers names. -/
theorem specialRegisterTraps : Obligations.SpecialRegisterTraps := by
  intro s n r rc illegal priv both sup
  have none_of {α : Type} {o : Option α} {p : Prop} (h : o.isSome ↔ p) (no : ¬ p) : o = none := by
    rw [← Option.not_isSome_iff_eq_none, h]
    exact no
  have listed : supervisorNumbers ⊆ both := by decide
  have unnamed (no : ¬ sup) : ¬ NamesSupervisor n.toNat := fun named =>
    no (named.imp (@listed _) (batSpr_isSome_iff _).mp)
  refine ⟨fun no user => ?_, fun no user => ?_, fun user usda => ?_, fun user sda => ?_⟩
  · have h := none_of (userSpr_isSome_iff n.toNat s) user
    have k := none_of (supervisorSpr_isSome_iff n.toNat s) (unnamed no)
    exact ⟨readSpr_illegal h k r rc, readSpr_illegal h k r false⟩
  · simp only [List.mem_cons, List.not_mem_nil, or_false, not_or] at user
    obtain ⟨xer, lr, ctr, tbl, tbu, usda⟩ := user
    have h := none_of (userSprSet_isSome_iff n.toNat (gprGet s r) s) (by simp [xer, lr, ctr])
    have k := none_of (supervisorSprSet_isSome_iff n.toNat (gprGet s r) s) (by simp [unnamed no, tbl, tbu])
    exact writeSpr_illegal h usda k rc
  · subst usda
    have traps : exec (.mtspr 943 r rc) s = .next (takeIllegal s) := by
      show (if msrPr s then _ else _) = _
      rw [user]
      rfl
    exact goes_next (takeIllegal_entered s) traps
  · subst sda
    have named : NamesSupervisor (959 : BitVec 10).toNat := .inl (by decide)
    exact ⟨readSpr_user_enters user named r rc, readSpr_user_enters user named r false,
      writeSpr_user_enters user (.inl named) _ rc⟩

end Sys2Proof.Machine
end

section
/-! PROOF. O28, O48, O56: control register writes, FP unavailable, words that decode. -/

namespace Sys2Proof.Machine

/-! ## The writes of the control registers -/

/-- A machine whose r0 asks for a flash invalidation of the instruction cache, while a block that an `icbi` has
invalidated may still be hit by a fetch. -/
def icbiPending : State :=
  { State.reset with
    gpr := Vector.replicate 32 0x00000800
    caches := { State.reset.caches with leaving := [{ block := 0, data := Vector.replicate 32 0 }] } }

theorem mtspr_hid0_leaving :
    exec (.mtspr 1008 0 false) icbiPending = .next (advance (setHid0 0x00000800 icbiPending)) := rfl

/-- Refutes O28: a write of HID0 with bit 20 set (`icbiPending`) also ends the time in which a fetch may hit a block that
an `icbi` has invalidated, where the statement keeps all of the caches but the two arrays. -/
theorem not_controlRegisterWrites : ¬ Obligations.ControlRegisterWrites := by
  intro h
  obtain ⟨⟨t, goes, -, caches, -⟩, -⟩ := h.1 icbiPending 0 rfl
  rw [mtspr_hid0_leaving] at goes
  cases goes
  have lists := congrArg (fun c : Caches => c.leaving.length) caches
  exact absurd lists (by decide)

/-! ## Floating point not available -/

/-- What the statement lists, each behind the check of MSR[FP]. -/
theorem exec_floatInstr_eq_needsFp (s : State) (a b c d : Reg) (x : BitVec 16) (f g : CrField) (n : BitVec 4) (m : BitVec 8)
    (rc : Bool) :
    ∀ i ∈ fpDoubleInstrs a b c d rc ++ fpSingleInstrs a b c d rc ++
      [.fsel a b c d rc, .fcmpu f a b rc, .fcmpo f a b rc, .mffs a rc, .mcrfs f g, .mtfsfi f n rc, .mtfsf m a rc,
       .mtfsb0 a rc, .mtfsb1 a rc, .fmr a b rc, .fneg a b rc, .fabs a b rc, .fnabs a b rc, .lfs a x b, .lfsx a b c rc,
       .lfsu a x b, .lfsux a b c rc, .lfd a x b, .lfdx a b c rc, .lfdu a x b, .lfdux a b c rc, .stfs a x b,
       .stfsx a b c rc, .stfsu a x b, .stfsux a b c rc, .stfd a x b, .stfdx a b c rc, .stfdu a x b, .stfdux a b c rc,
       .stfiwx a b c rc],
      ∃ k, exec i s = needsFp s k := by
  simp only [fpDoubleInstrs, fpSingleInstrs, List.cons_append, List.nil_append, List.forall_mem_cons, List.not_mem_nil, false_implies,
    implies_true, and_true]
  and_intros <;> exact ⟨_, rfl⟩

/-- Settles O48. -/
theorem floatUnavailableResults : Obligations.FloatUnavailableResults := by
  intro s a b c d n x f g m rc off i hi
  obtain ⟨k, e⟩ := exec_floatInstr_eq_needsFp s a b c d x f g n m rc i hi
  have unavailable : exec i s = .next (takeFpUnavailable s) := by
    rw [e, needsFp, off]
    rfl
  exact goes_next (takeFpUnavailable_entered s) unavailable

/-! ## Words that decode -/

/-- Settles O56. -/
theorem decodeWords : Obligations.DecodeWords := by
  refine ⟨?_, ?_, ?_, ?_, ?_, ?_, ?_, ?_, ?_, ?_, ?_, ?_, ?_, ?_, ?_, ?_⟩ <;> rfl

end Sys2Proof.Machine
end

section
/-! PROOF. O53 to O55: the hard reset, the step, and what follows an instruction. -/

namespace Sys2Proof.Machine

/-! ## The hard reset -/

/-- Bytes put back in memory: each byte is as it was, or as one of them says. -/
theorem peek_restore {l : List Replaced} {s : State} (h : MemoryCanonical s) (a : Word) :
    peek (restore l s) a = peek s a ∨
      ∃ e ∈ l, e.l2 = false ∧ BitVec.ofNat 32 e.address = a ∧ peek (restore l s) a = e.value := by
  induction l generalizing s with
  | nil => exact .inl rfl
  | cons e l ih =>
    rw [restore]
    cases l2 : e.l2 with
    | true =>
      rw [if_pos rfl]
      refine (ih h).imp_right fun ⟨x, hx, found⟩ => ⟨x, List.mem_cons_of_mem _ hx, found⟩
    | false =>
      rw [if_neg Bool.false_ne_true]
      rcases ih (poke_canonical h (BitVec.ofNat 32 e.address) e.value) with same | ⟨x, hx, found⟩
      · by_cases here : a = BitVec.ofNat 32 e.address
        · refine .inr ⟨e, List.mem_cons_self, l2, here.symm, same.trans ?_⟩
          rw [here, peek_poke_same h]
        · exact .inl (same.trans (peek_poke_other h _ here))
      · exact .inr ⟨x, List.mem_cons_of_mem _ hx, found⟩

theorem loseStores_of_nothing_replaced {s : State} (h : replacedBytes s.storeQueue = []) : loseStores s = s := by
  unfold loseStores
  rw [h]
  rfl

theorem peek_loseStores {s : State} (h : MemoryCanonical s) (a : Word) :
    peek (loseStores s) a = peek s a ∨
      ∃ e ∈ replacedBytes s.storeQueue, e.l2 = false ∧ BitVec.ofNat 32 e.address = a ∧ peek (loseStores s) a = e.value := by
  unfold loseStores
  split
  · exact .inl rfl
  · have newest : (someNewest s).1 ⊆ s.storeQueue := List.take_subset _ _
    rcases peek_restore (l := replacedBytes (someNewest s).1) (s := (someNewest s).2) h a with same | ⟨e, he, found⟩
    · exact .inl same
    · obtain ⟨q, hq, heq⟩ := List.mem_flatMap.mp he
      exact .inr ⟨e, List.mem_flatMap.mpr ⟨q, newest hq, heq⟩, found⟩

/-- Settles O53. -/
theorem hardResetValues : Obligations.HardResetValues := by
  intro s held negated
  have taken : boundary false s = some (hardReset s) := by
    unfold boundary
    rw [negated, held]
    rfl
  refine ⟨_, taken, rfl, rfl, rfl, rfl, rfl, rfl, rfl, rfl, rfl, rfl, rfl, rfl, rfl, rfl, rfl, rfl, rfl, rfl, rfl, rfl, rfl, rfl,
    rfl, rfl, rfl, rfl, rfl, rfl, rfl, rfl, rfl, rfl, rfl, rfl, rfl, rfl, ?_, ?_⟩
  · intro none_replaced
    show (loseStores s).mem = s.mem
    rw [loseStores_of_nothing_replaced none_replaced]
  · exact fun h a => peek_loseStores h a

/-! ## An instruction fetched straight from memory -/

theorem viewByte_nil (pa : Word) (b : Byte) : viewByte [] pa b = b := rfl

/-- The word of four bytes, the first the most significant. -/
theorem wordBytes_append (a b c d : Byte) : wordBytes (a ++ b ++ c ++ d) = [a, b, c, d] := by
  have e0 : field (a ++ b ++ c ++ d) 0 8 = a := by
    rw [field_append_left, field_append_left, field_append_left, field_full] <;> decide
  have e1 : field (a ++ b ++ c ++ d) 8 8 = b := by
    rw [field_append_left, field_append_left, field_append_right, field_full] <;> decide
  have e2 : field (a ++ b ++ c ++ d) 16 8 = c := by
    rw [field_append_left, field_append_right, field_full] <;> decide
  have e3 : field (a ++ b ++ c ++ d) 24 8 = d := by
    rw [field_append_right, field_full] <;> decide
  simp only [wordBytes, e0, e1, e2, e3]

theorem viewWord_nil (pa w : Word) : viewWord [] pa w = w := by
  simp only [viewWord, viewByte_nil]
  rw [field_append_field w (by decide), field_append_field w (by decide), field_append_field w (by decide), field_full]

/-- The word in memory at an address. -/
def wordAt (s : State) (pa : Word) : Word := BitVec.ofNat 32 (valueBig (bytesAt s pa 4))

theorem busReadWord_memory {s : State} (tea : s.tea = []) (devices : s.devices = []) (pa : Word) :
    busReadWord pa s = (wordAt s pa, s) := by
  have read (a : Word) : busReadByte a s = (peek s a, s) := by simp [busReadByte, isTea, tea, isDevice, devices]
  have word : wordAt s pa = peek s pa ++ peek s (pa + 1) ++ peek s (pa + 2) ++ peek s (pa + 3) := by
    have bytes : bytesAt s pa 4 = wordBytes (peek s pa ++ peek s (pa + 1) ++ peek s (pa + 2) ++ peek s (pa + 3)) := by
      rw [wordBytes_append]
      simp only [bytesAt, BitVec.add_assoc]
      rfl
    rw [wordAt, bytes, valueBig_wordBytes, BitVec.ofNat_toNat, BitVec.setWidth_eq]
  simp only [busReadWord, read, word]

/-- A single-beat fetch past caches, devices, gaps and queues reads memory. -/
theorem fetchSingle_memory {s : State} (alone : Alone s) (l2 : l2On s = false) (tea : s.tea = []) (devices : s.devices = [])
    (stores : replacedBytes s.storeQueue = []) (pa : Word) (wimg : BitVec 4) :
    fetchSingle pa wimg s = (wordAt s pa, s) := by
  have looks : fetchLooksL2 wimg s = false := by simp [fetchLooksL2, l2ForFetch, l2]
  have hits : fetchHitsL2 pa wimg s = false := by simp [fetchHitsL2, looks]
  have view : fetchView false false s = ([], s) := by simp [fetchView, stores]
  simp [fetchSingle, looks, hits, gap_alone alone, busReadWord_memory tea devices, view, viewWord_nil]

theorem PcAligned.word {s : State} (h : PcAligned s) : s.pc &&& 0xFFFFFFFC = s.pc := word_and_of_aligned ((aligned_iff _).mp h)

/-- The fetch unit after a fetch: it is not the first one after a reset. -/
def fetched (s : State) : State := { s with fetch := { s.fetch with single := false } }

theorem fetchInTurn_plain {s : State} (h : PlainFetch s) (pa : Word) (wimg : BitVec 4) :
    fetchInTurn pa wimg s = (wordAt s pa, fetched s) := by
  have read (w : BitVec 4) : fetchSingle pa w (fetched s) = (wordAt s pa, fetched s) :=
    fetchSingle_memory (s := fetched s) h.alone h.l2 h.tea h.devices h.stores pa w
  unfold fetchInTurn
  split
  · exact read _
  · next later =>
    have same : fetched s = s := by
      have later : s.fetch.single = false := by simpa using later
      unfold fetched
      rw [← later]
    rw [same] at read ⊢
    simp [fetchPhys, h.l1, read]

theorem fetchInstr_plain {s : State} (h : PlainFetch s) :
    fetchInstr s = .ok (wordAt s (s.pc &&& 0xFFFFFFFC)) (fetched s) := by
  have real : realMode s .fetch = true := by simp [realMode, h.real]
  have place : translate .fetch (fetchEa s.pc s) s = .ok s.pc realWimg s := by
    simp [translate, translateWith, real, fetchEa, h.big]
  have quiet : PlainFetch { s with latch := { s.latch with machineCheck := false } } :=
    ⟨⟨h.settled.stale, h.settled.inForce⟩, h.alone, h.real, h.big, h.l1, h.l2, h.tea, h.devices, h.ahead, h.stores, h.place⟩
  have watched : watchTea (fetchInTurn (s.pc &&& 0xFFFFFFFC) realWimg) s =
      (wordAt s (s.pc &&& 0xFFFFFFFC), false, fetched s) := by
    unfold watchTea
    rw [fetchInTurn_plain quiet]
    rfl
  simp only [fetchInstr, place, watched]
  rfl

/-! ## The running code is where it ran -/

theorem newPage_plain {s : State} (h : PlainFetch s) (ea : Word) : newPage ea s = some (field ea 0 20) := by
  have real : realMode { s with ctx := { s.ctx with inForce := [] } } .fetch = true := by
    have same : ({ s with ctx := { s.ctx with inForce := [] } } : State) = s := by rw [← h.settled.inForce]
    rw [same]
    simp [realMode, h.real]
  simp [newPage, codePageUnder, codePage, real]

theorem runningPage_plain {s : State} (h : PlainFetch s) :
    runningPage s = some { ea := s.pc, here := field s.pc 0 20, next := some (field (s.pc + 4) 0 20) } := by
  have next : npc s = s.pc + 4 := rfl
  simp only [runningPage, newPage_plain h, next, Option.map_some]
  congr 2
  split
  · next same => rw [same]
  · rfl

theorem implicitBranch_plain {s : State} (h : PlainFetch s) : implicitBranch s = false := by
  have stays (ea : Word) : movedFrom (field ea 0 20) ea s = false := by simp [movedFrom, newPage_plain h]
  unfold implicitBranch
  cases page : s.fetch.page with
  | none => rfl
  | some r =>
    obtain ⟨here, next⟩ := h.place r page
    simp only [here, stays, Bool.and_false, Bool.false_or]
    cases seq : s.pc == r.ea + 4 with
    | false => rfl
    | true =>
      cases e : r.next with
      | none => simp
      | some q => simp [next q e, eq_of_beq seq, stays]

/-! ## The step -/

theorem stepWith_undisturbed {s : State} (run : Instr → State → Out) (env : movesNow s = [])
    (async : boundary false (envAdvance s) = none) : stepWith run s = instrStep run (envAdvance s) := by
  have moves : envMoves [] (envAdvance s) = .ok () (envAdvance s) := rfl
  simp [stepWith, env, moves, async]

theorem PlainFetch.envAdvance {s : State} (h : PlainFetch s) : PlainFetch (envAdvance s) :=
  ⟨⟨h.settled.stale, h.settled.inForce⟩, h.alone, h.real, h.big, h.l1, h.l2, h.tea, h.devices, h.ahead, h.stores, h.place⟩

/-- The state in which the fetched instruction runs. -/
def runsFrom (s : State) : State :=
  let place : RunningAt := { ea := s.pc, here := field s.pc 0 20, next := some (field (s.pc + 4) 0 20) }
  { s with fetch := { noFetch with page := some place } }

theorem settled_iabrChoice {s : State} (h : Settled s) (w : Word) : iabrChoice w s = s := by
  rw [iabrChoice, settled_iabrUse h, ite_self]

theorem nextWord_plain {s : State} (h : PlainFetch s) (run : Instr → State → Out) :
    nextWord run s = runWord run (wordAt s (s.pc &&& 0xFFFFFFFC)) (notePage (runningPage s) (fetched s)) := by
  have nothing_queued : queued s = none := by simp [queued, h.ahead]
  have further : furtherUse (fetched s) = fetched s := settled_furtherUse ⟨h.settled.stale, h.settled.inForce⟩
  simp only [nextWord, settled_newUse h.settled, implicitBranch_plain h, nothing_queued, fetchInstr_plain h, further,
    Bool.false_eq_true, if_false]

theorem iabrChoice_plain {s : State} (h : PlainFetch s) (w : Word) :
    passIabr (iabrChoice w (notePage (runningPage s) (fetched s))) = runsFrom s := by
  have settled : Settled (notePage (runningPage s) (fetched s)) := ⟨h.settled.stale, h.settled.inForce⟩
  rw [settled_iabrChoice settled]
  simp only [runningPage_plain h, passIabr, notePage, fetched, runsFrom, h.ahead, noFetch]

/-- The instruction address breakpoint, where no window is open. -/
theorem iabrMatches_settled {s : State} (h : Settled s) :
    iabrMatches s = true ↔
      bitAt s.hid.iabr 30 = true ∧ field s.hid.iabr 0 30 = field s.pc 0 30 ∧ bitAt s.hid.iabr 31 = msrIr s := by
  have value : control s .iabr = s.hid.iabr := settled_control h .iabr
  simp [iabrMatches, value, and_assoc]

/-- A word meets no breakpoint and runs from `v`. -/
structure Meets (w : Word) (u v : State) : Prop where
  chosen : passIabr (iabrChoice w u) = v
  quiet : iabrMatches v = false

theorem meets_plain {s : State} (h : PlainFetch s) (iabr : bitAt s.hid.iabr 30 = false) (w : Word) :
    Meets w (notePage (runningPage s) (fetched s)) (runsFrom s) where
  chosen := iabrChoice_plain h w
  quiet := by
    have settled : Settled (runsFrom s) := ⟨h.settled.stale, h.settled.inForce⟩
    rw [Bool.eq_false_iff, ne_eq, iabrMatches_settled settled]
    exact fun hit => Bool.false_ne_true (iabr.symm.trans hit.1)

theorem runWord_breakpoint {w : Word} {u v : State} (chosen : passIabr (iabrChoice w u) = v) (hit : iabrMatches v = true)
    (run : Instr → State → Out) : runWord run w u = .next (endStep v (takeIabr v)) := by
  simp only [runWord, chosen, hit, if_true, endOut]

section RunWord

variable {w : Word} {u v : State} (m : Meets w u v) (run : Instr → State → Out)
include m

theorem runWord_instr {i : Instr} (h : decode w = .instr i) : runWord run w u = runInstr run i v := by
  simp only [runWord, m.chosen, m.quiet, h, Bool.false_eq_true, if_false]

theorem runWord_illegal (h : decode w = .illegal) : runWord run w u = .next (endStep v (takeIllegal v)) := by
  simp only [runWord, m.chosen, m.quiet, h, Bool.false_eq_true, if_false, endOut]

theorem runWord_reserved {n : String} {i : Instr} (h : decode w = .reservedField n i) :
    runWord run w u = if takesEarly i v then runInstr run i v else .refused (.reservedField n) := by
  simp only [runWord, m.chosen, m.quiet, h, Bool.false_eq_true, if_false]

end RunWord

theorem runInstr_next {run : Instr → State → Out} {i : Instr} {s t : State} (h : run i { s with excTaken := false } = .next t) :
    runInstr run i s = .next (endStep s (complete i s t)) := by
  rw [runInstr, h]
  rfl

/-- Settles O54. -/
theorem stepRunsTheDecodedInstruction : Obligations.StepRunsTheDecodedInstruction := by
  intro s quiet plain aligned w place here now runs
  have stepped : step s = runWord exec w (notePage (runningPage (envAdvance s)) (fetched (envAdvance s))) := by
    have untraced : (envAdvance s).traceDue = false := quiet.trace
    rw [step, stepWith_undisturbed exec quiet.env quiet.async, instrStep, untraced]
    have word : wordAt (envAdvance s) ((envAdvance s).pc &&& 0xFFFFFFFC) = w := congrArg (wordAt s) aligned.word
    exact word ▸ nextWord_plain plain.envAdvance exec
  have meets : Meets w (notePage (runningPage (envAdvance s)) (fetched (envAdvance s))) here :=
    meets_plain plain.envAdvance quiet.iabr w
  have runs_of {i : Instr} (h : step s = runInstr exec i here) : runs i := by
    refine ⟨fun t e => h.trans (runInstr_next e), fun f e => ?_, fun r e => ?_⟩
    · rw [h, runInstr, e]
      rfl
    · rw [h, runInstr, e]
      rfl
  refine ⟨fun i e => ?_, fun e => ?_, fun m i e => ?_⟩
  · exact runs_of (stepped.trans (runWord_instr meets exec e))
  · exact ⟨_, stepped.trans (runWord_illegal meets exec e), takeIllegal_entered here⟩
  · have reserved := stepped.trans (runWord_reserved meets exec e)
    split
    · next early => exact runs_of (reserved.trans (if_pos early))
    · next late => exact reserved.trans (if_neg late)

/-! ## What follows an instruction -/

theorem PerfSide.traceDue {s t : State} (h : PerfSide s t) : t.traceDue = s.traceDue := by rw [h.frame]

/-- `t` is `s` but for the registers of the performance monitor. -/
structure Counted (s t : State) : Prop where
  frame : t = { s with perf := t.perf }

theorem Counted.trans {s t u : State} (h : Counted s t) (k : Counted t u) : Counted s u :=
  ⟨by rw [k.frame, h.frame]⟩

theorem pmAdd_counted (n : Fin 4) (k : Nat) (s : State) : Counted s (pmAdd n k s) := by
  unfold pmAdd pmcPut
  split
  · split <;> exact ⟨rfl⟩
  · exact ⟨rfl⟩

theorem pmEventIf_counted (c : Bool) (n : Fin 4) (k : Nat) (s : State) : Counted s (pmEventIf c n k s) := by
  unfold pmEventIf pmEvent
  split
  · split
    · exact pmAdd_counted n 1 s
    · exact ⟨rfl⟩
  · exact ⟨rfl⟩

theorem completionEvents_counted (i : Instr) (before s : State) : Counted s (completionEvents i before s) := by
  unfold completionEvents
  exact (((((((((pmEventIf_counted _ _ _ s).trans (pmEventIf_counted _ _ _ _)).trans (pmEventIf_counted _ _ _ _)).trans
    (pmEventIf_counted _ _ _ _)).trans (pmEventIf_counted _ _ _ _)).trans (pmEventIf_counted _ _ _ _)).trans
    (pmEventIf_counted _ _ _ _)).trans (pmEventIf_counted _ _ _ _)).trans (pmEventIf_counted _ _ _ _)).trans
    (pmEventIf_counted _ _ _ _)

theorem completed_frame (i : Instr) (before s : State) :
    completed i before s =
      { s with perf := (completed i before s).perf, seen := (completed i before s).seen } := by
  have h := (completionEvents_counted i before (noteCompleted before.pc (isLoad i) s)).frame
  rw [completed, h]
  rfl

theorem complete_of_no_exception {i : Instr} {s t : State} (h : t.excTaken = false)
    (runs : ¬ (i = .tlbsync ∧ s.pins.tlbisync = true)) :
    complete i s t = { completed i s t with traceDue := traced i s } := by
  have done : waits i s = false := by
    rw [Bool.eq_false_iff]
    simpa [waits] using runs
  simp [complete, h, done]

theorem neverTraced_iff (i : Instr) : neverTraced i = true ↔ i = .rfi ∨ i = .isync ∨ i = .sc := by
  cases i <;> simp [neverTraced]

theorem isBranch_iff (i : Instr) :
    isBranch i = true ↔ (∃ li aa lk, i = .b li aa lk) ∨ (∃ bo bi bd aa lk, i = .bc bo bi bd aa lk) ∨
      (∃ bo bi lk, i = .bclr bo bi lk) ∨ (∃ bo bi lk, i = .bcctr bo bi lk) := by
  cases i <;> simp [isBranch]

theorem traced_iff (i : Instr) (s : State) :
    traced i s = true ↔ (bitAt s.msr 21 = true ∧ i ≠ .rfi ∧ i ≠ .isync ∧ i ≠ .sc) ∨ (bitAt s.msr 22 = true ∧ isBranch i = true) := by
  have never := neverTraced_iff i
  rw [traced, Bool.or_eq_true, Bool.and_eq_true, Bool.and_eq_true, Bool.not_eq_true', Bool.eq_false_iff, ne_eq, never]
  simp only [not_or]
  rfl

theorem complete_traceDue_of_exception {i : Instr} {s t : State} (h : t.excTaken = true) :
    (complete i s t).traceDue = t.traceDue := by
  simp only [complete, h, if_true]
  split
  · exact (((completed_side i s t).trans (pmEventIf_side _ 1 9 _)).trans (pmEventIf_side _ 1 9 _)).traceDue
  · rfl

/-! ## Trace and breakpoint -/

theorem traceStep_settled {s : State} (h : Settled s) :
    traceStep s = .next (endStep s (if iabrMatches s then takeIabr s else takeTrace s)) := by
  cases next : upcoming s with
  | some w => simp only [traceStep, settled_newUse h, next, settled_iabrChoice h, endOut]
  | none => simp only [traceStep, settled_newUse h, next, settled_iabrUse h, endOut]

/-- Settles O55. -/
theorem traceAndBreakpoint : Obligations.TraceAndBreakpoint := by
  refine ⟨fun i s t goes_on runs => ?_, fun s t goes_on waits => ?_, fun i s t h => complete_traceDue_of_exception h, ?_⟩
  · intro branch u
    have ends : u = { completed i s t with traceDue := traced i s } := complete_of_no_exception goes_on runs
    refine ⟨?_, ?_⟩
    · rw [ends, traced_iff, isBranch_iff]
    · rw [ends, completed_frame]
  · refine ⟨?_, fun super => ?_⟩
    · simp [complete, goes_on, Machine.waits, waits]
    · show privileged s _ = _
      rw [privileged_supervisor super, waits]
      rfl
  · intro s settled env async matched
    have u_settled : Settled (envAdvance s) := ⟨settled.stale, settled.inForce⟩
    have stepped : step s = instrStep exec (envAdvance s) := stepWith_undisturbed exec env async
    have hits : iabrMatches (envAdvance s) = true ↔ matched := iabrMatches_settled u_settled
    have on_trace (due : s.traceDue = true) :
        step s = .next (endStep (envAdvance s) (if iabrMatches (envAdvance s) then takeIabr (envAdvance s) else takeTrace (envAdvance s))) := by
      have due : (envAdvance s).traceDue = true := due
      rw [stepped, instrStep, due, ← traceStep_settled u_settled]
      rfl
    refine ⟨fun due miss => ?_, fun hit cases_ => ?_⟩
    · have h := on_trace due
      rw [if_neg (hits.not.mpr miss)] at h
      exact ⟨_, h, takeException_entered _ _ _ _⟩
    · by_cases due : s.traceDue = true
      · have h := on_trace due
        rw [if_pos (hits.mpr hit)] at h
        exact ⟨_, h, takeException_entered _ _ _ _⟩
      · have plain := (cases_.resolve_left due).envAdvance
        have untraced : (envAdvance s).traceDue = false := Bool.eq_false_iff.mpr due
        have hit_here : iabrMatches (runsFrom (envAdvance s)) = true :=
          (iabrMatches_settled ⟨settled.stale, settled.inForce⟩).mpr hit
        have h : step s = .next (endStep (envAdvance s) (takeIabr (envAdvance s))) := by
          rw [stepped, instrStep, untraced]
          exact (nextWord_plain plain exec).trans (runWord_breakpoint (iabrChoice_plain plain _) hit_here exec)
        exact ⟨_, h, takeException_entered _ _ _ _⟩

end Sys2Proof.Machine
end

section
/-! PROOF. O49 to O51: interrupts, clocks and the monitor, power modes and checkstop. -/

namespace Sys2Proof.Machine

/-! ## Interrupts -/

/-- What O49 says of an entry: the vector, what is saved, the new MSR; the registers, memory and the mode stay. -/
structure Interrupted (s t : State) (vec info keep : Word) : Prop where
  pc : t.pc = (if msrIp s then 0xFFF00000 else 0) + vec
  srr0 : t.sup.srr0 = s.pc &&& 0xFFFFFFFC
  srr1 : t.sup.srr1 = (s.msr &&& 0x87C0FFFF) ||| info
  msr : t.msr = (s.msr &&& keep) ||| boolWord (msrIle s)
  gpr : t.gpr = s.gpr
  mem : t.mem = s.mem
  run : t.run = .running

theorem Interrupted.taken {s t : State} {o : Option State} {vec info keep : Word} (h : o = some t)
    (i : Interrupted s t vec info keep) :
    ∃ t, o = some t ∧
      t.pc = (if msrIp s then 0xFFF00000 else 0) + vec ∧ t.sup.srr0 = s.pc &&& 0xFFFFFFFC ∧
      t.sup.srr1 = (s.msr &&& 0x87C0FFFF) ||| info ∧ t.msr = (s.msr &&& keep) ||| boolWord (msrIle s) ∧
      t.gpr = s.gpr ∧ t.mem = s.mem ∧ t.run = .running :=
  ⟨t, h, i.pc, i.srr0, i.srr1, i.msr, i.gpr, i.mem, i.run⟩

/-- A state that differs in what is latched only. -/
structure Latching (s u : State) : Prop where
  pc : u.pc = s.pc
  msr : u.msr = s.msr
  gpr : u.gpr = s.gpr
  mem : u.mem = s.mem
  run : u.run = s.run

theorem enterWith_interrupted {s u : State} (running : s.run = .running) (keep vec info : Word) (l : Latching s u) :
    Interrupted s (enterWith keep vec s.pc info u) vec info keep where
  pc := by
    show vectorBase u + vec = _
    simp only [vectorBase, msrIp, l.msr]
    rfl
  srr0 := rfl
  srr1 := by
    show (u.msr &&& _) ||| info = _
    rw [l.msr]
  msr := by
    show msrAfterEntry keep u.msr = _
    rw [l.msr]
    rfl
  gpr := l.gpr
  mem := l.mem
  run := l.run.trans running

theorem takeException_interrupted {s u : State} (running : s.run = .running) (vec : Word) (l : Latching s u) :
    Interrupted s (takeException vec s.pc 0 u) vec 0 0x00011040 :=
  have h := enterWith_interrupted running 0x00011040 vec 0 l
  ⟨h.pc, h.srr0, h.srr1, h.msr, h.gpr, h.mem, h.run⟩

theorem takeSoftReset_interrupted {s u : State} (running : s.run = .running) (l : Latching s u) :
    Interrupted s (takeSoftReset s.pc u) 0x100 0 0x00011040 :=
  have h := enterWith_interrupted running 0x00011040 0x100 0 l
  ⟨h.pc, h.srr0, h.srr1, h.msr, h.gpr, h.mem, h.run⟩

theorem boundary_running {s : State} (running : s.run = .running) (reset : s.pins.hreset = false)
    (check : s.pins.ckstpIn = false) : boundary false s = asyncNow s := by
  simp [boundary, running, reset, check]

theorem ite_intro {c A B : Prop} [Decidable c] (yes : c → A) (no : ¬ c → B) : if c then A else B := by
  split
  · next h => exact yes h
  · next h => exact no h

/-- Settles O49, down the order in which `asyncNow` looks for what is due. -/
theorem interruptPriority : Obligations.InterruptPriority := by
  intro s running reset check it enters
  have now : it = asyncNow s := boundary_running running reset check
  clear_value it
  have same {t : State} {o : Option State} (h : o = some t) {P : State → Prop} (p : P t) : ∀ u, o = some u → P u := by
    rintro u e
    rw [h] at e
    cases e
    exact p
  refine ite_intro (fun mc => ite_intro (fun me => ?_) fun me => ?_) fun mc => ite_intro (fun sr => ?_) fun sr =>
    ite_intro (fun ee => ?_) fun ee => ite_intro (fun smi => ?_) fun smi => ite_intro (fun int => ?_) fun int =>
    ite_intro (fun pm => ?_) fun pm => ite_intro (fun dec => ?_) fun dec => ite_intro (fun th => ?_) fun th => ?_
  · have taken := now.trans (by rw [asyncNow, if_pos mc, machineCheckNow, if_pos me])
    exact ⟨(enterWith_interrupted running _ _ _ (by constructor <;> rfl)).taken taken, same taken rfl⟩
  · rw [now, asyncNow, if_pos mc, machineCheckNow, if_neg me]
  · have taken := now.trans (by rw [asyncNow, if_neg mc, if_pos sr])
    exact ⟨(takeSoftReset_interrupted running (by constructor <;> rfl)).taken taken, same taken rfl⟩
  · have masked : ¬ msrEe s = true := by simpa using ee
    rw [now, asyncNow, if_neg mc, if_neg sr, if_neg masked]
  all_goals
    have enabled : msrEe s = true := by simpa using ee
    rw [asyncNow, if_neg mc, if_neg sr, if_pos enabled, maskableNow] at now
  · rw [if_pos smi] at now
    exact (takeException_interrupted running _ (by constructor <;> rfl)).taken now
  · rw [if_neg smi, if_pos int] at now
    exact (takeException_interrupted running _ (by constructor <;> rfl)).taken now
  · rw [if_neg smi, if_neg int, if_pos pm] at now
    exact ⟨(takeException_interrupted running _ (by constructor <;> rfl)).taken now, same now rfl⟩
  · rw [if_neg smi, if_neg int, if_neg pm, if_pos dec] at now
    exact ⟨(takeException_interrupted running _ (by constructor <;> rfl)).taken now, same now rfl⟩
  · rw [if_neg smi, if_neg int, if_neg pm, if_neg dec, if_pos th] at now
    exact ⟨(takeException_interrupted running _ (by constructor <;> rfl)).taken now, same now rfl⟩
  · rw [if_neg smi, if_neg int, if_neg pm, if_neg dec, if_neg th] at now
    exact now

/-! ## The clocks -/

/-- `t` is `s` but for the monitor's registers and the count of free values. -/
structure Monitored (s t : State) : Prop where
  frame : t = { s with perf := t.perf, freeCtr := t.freeCtr }

theorem Monitored.trans {s t u : State} (h : Monitored s t) (k : Monitored t u) : Monitored s u :=
  ⟨by rw [k.frame, h.frame]⟩

theorem pmEvent_monitored (n : Fin 4) (k : Nat) (s : State) : Monitored s (pmEvent n k s) := by
  unfold pmEvent
  split
  · exact ⟨(pmAdd_counted n 1 s).frame ▸ rfl⟩
  · exact ⟨rfl⟩

theorem pmSignal_monitored (trans : Bool) (m : Moment) (s : State) : Monitored s (pmSignal trans m s) := by
  unfold pmSignal
  split
  · unfold siaNear
    dsimp only
    split <;> exact ⟨rfl⟩
  · exact ⟨rfl⟩

theorem pmTransition_monitored (m : Moment) (s : State) : Monitored s (pmTransition m s) :=
  ((((pmEvent_monitored 0 3 s).trans (pmEvent_monitored 1 3 _)).trans (pmEvent_monitored 2 3 _)).trans
    (pmEvent_monitored 3 3 _)).trans (pmSignal_monitored true m _)

theorem setTbl_monitored (m : Moment) (v : Word) (s : State) :
    Monitored { s with tim := { s.tim with tbl := v } } (setTbl m v s) := by
  unfold setTbl
  dsimp only
  split
  · exact pmTransition_monitored m _
  · exact ⟨rfl⟩

/-- The time base and the decrementer after a tick. -/
theorem tick_tim {s : State} (runs : timersRun s = true) :
    let tb : DWord := (s.tim.tbu ++ s.tim.tbl) + 1
    (tick s).tim = ⟨field tb 0 32, field tb 32 32, s.tim.dec - 1,
      s.tim.pending || (!bitAt s.tim.dec 0 && bitAt (s.tim.dec - 1) 0)⟩ ∧
    tick s = { s with tim := (tick s).tim, perf := (tick s).perf, freeCtr := (tick s).freeCtr } := by
  have h := (setTbl_monitored .between (field ((s.tim.tbu ++ s.tim.tbl) + 1) 32 32)
    { setDec (s.tim.dec - 1) s with
      tim := { (setDec (s.tim.dec - 1) s).tim with tbu := field ((s.tim.tbu ++ s.tim.tbl) + 1) 0 32 } }).frame
  have e : tick s = setTbl .between (field ((s.tim.tbu ++ s.tim.tbl) + 1) 32 32)
    { setDec (s.tim.dec - 1) s with
      tim := { (setDec (s.tim.dec - 1) s).tim with tbu := field ((s.tim.tbu ++ s.tim.tbl) + 1) 0 32 } } := by
    rw [tick, if_pos runs]
  rw [← e] at h
  exact ⟨by rw [h]; rfl, by rw [h]; rfl⟩

/-- A double word counts on from one half to the other. -/
theorem fields_of_count (u l : Word) :
    (field ((u ++ l : DWord) + 1) 0 32).toNat * 2 ^ 32 + (field ((u ++ l : DWord) + 1) 32 32).toNat =
      (u.toNat * 2 ^ 32 + l.toNat + 1) % 2 ^ 64 := by
  have joined : (u ++ l : DWord).toNat = u.toNat * 2 ^ 32 + l.toNat := by
    rw [BitVec.toNat_append, ← Nat.shiftLeft_add_eq_or_of_lt l.isLt, Nat.shiftLeft_eq]
  have count : ((u ++ l : DWord) + 1).toNat = (u.toNat * 2 ^ 32 + l.toNat + 1) % 2 ^ 64 := by
    rw [BitVec.toNat_add, joined]
    rfl
  rw [field_toNat, field_toNat, count]
  omega

/-- Counting down, the highest bit goes from 0 to 1 at 0 only. -/
theorem decrement_sets_sign (x : Word) : (!bitAt x 0 && bitAt (x - 1) 0) = decide (x = 0) := by
  have sign (y : Word) : bitAt y 0 = decide (2 ^ 31 ≤ y.toNat) := BitVec.msb_eq_decide y
  rw [Bool.eq_iff_iff, sign, sign, BitVec.toNat_sub]
  simp only [Bool.and_eq_true, Bool.not_eq_true', decide_eq_false_iff_not, decide_eq_true_iff, ← BitVec.toNat_inj]
  have below := x.isLt
  have one : (1 : Word).toNat = 1 := rfl
  have zero : (0 : Word).toNat = 0 := rfl
  omega

theorem timersRun_iff (s : State) :
    timersRun s = true ↔ s.pins.tben = true ∧ (s.run = .running ∨ s.run = .doze ∨ s.run = .nap) := by
  simp [timersRun, or_assoc]

/-! ## The monitor's interrupt -/

theorem pmSignal_overflow {s : State} (enabled : bitAt s.perf.mmcr0 5 = true) (pmc1 : bitAt s.perf.mmcr0 16 = true)
    (overflows : bitAt s.perf.pmc1 0 = true) (m : Moment) :
    pmSignal false m s = pmRaise (siaNear m s).1 (siaNear m s).2 := by
  have due : pmCondition false s = true := by
    simp [pmCondition, pmOverflow, mmcrEnint, mmcrPmc1Int, enabled, pmc1, overflows]
  rw [pmSignal, if_pos due]

/-- SIA receives one of the addresses there are. -/
theorem siaNear_of_choices {s : State} {m : Moment} (some_ : siaChoices m s ≠ []) : (siaNear m s).1 ∈ siaChoices m s := by
  have nonempty : ¬ (siaChoices m s).isEmpty = true := by simpa using some_
  have place : (fresh 32 s).1.toNat % (siaChoices m s).length < (siaChoices m s).length :=
    Nat.mod_lt _ (List.length_pos_iff.mpr some_)
  simp only [siaNear, if_neg nonempty]
  rw [List.getD_eq_getElem _ _ place]
  exact List.getElem_mem place

theorem siaNear_perf (m : Moment) (s : State) : (siaNear m s).2.perf = s.perf := by
  unfold siaNear
  dsimp only
  split <;> rfl

/-- Settles O50. -/
theorem clockAndMonitorResults : Obligations.ClockAndMonitorResults := by
  intro s temp tb runs
  have runs_iff : timersRun s = true ↔ runs := timersRun_iff s
  refine ⟨fun h => ?_, fun h => ?_, fun enabled pmc1 overflows => ?_, fun running v3 v1 halt first => ?_⟩
  · obtain ⟨tim, frame⟩ := tick_tim (runs_iff.mpr h)
    refine ⟨?_, by rw [tim], ?_, frame⟩
    · simp only [tb, tim]
      exact fields_of_count s.tim.tbu s.tim.tbl
    · rw [tim, decrement_sets_sign]
      simp
  · rw [tick, if_neg (runs_iff.not.mpr h)]
  · intro t
    have signalled : t = pmRaise (siaNear .after s).1 (siaNear .after s).2 := pmSignal_overflow enabled pmc1 overflows .after
    have perf := siaNear_perf .after s
    refine ⟨by rw [signalled]; rfl, ?_, ?_⟩
    · rw [signalled]
      show setBit (siaNear .after s).2.perf.mmcr0 5 false = _
      rw [perf]
      rfl
    · have sia : t.perf.sia = (siaNear .after s).1 := by rw [signalled]; rfl
      rw [sia]
      split
      · next none_ => simp [siaNear, siaChoices, none_]
      · next some_ =>
        have member : (siaNear .after s).1 ∈ siaChoices .after s := siaNear_of_choices (by simpa [siaChoices] using some_)
        obtain ⟨c, hc, e⟩ := List.mem_map.mp member
        exact ⟨c, hc, e.symm⟩
  · intro t threshold crossed
    have active : thermActive s s.therm.second = true := by simp [thermActive, first, v3, v1, halt]
    have compared : t = thermCompare false temp s := by
      have e : t = thermSample temp s := rfl
      rw [e, thermSample, if_neg (by simp [running]), if_pos active, first]
    have crosses : thermCrossed s.therm.thrm1 temp = true ↔ crossed := by
      unfold thermCrossed
      split <;> simp_all [crossed, threshold]
    have therm : t.therm.thrm1 = setBit (setBit s.therm.thrm1 0 (thermCrossed s.therm.thrm1 temp)) 1 true := by
      rw [compared]
      rfl
    have pending : t.therm.pending =
        (s.therm.pending || (thermCrossed s.therm.thrm1 temp &&
          bitAt (setBit (setBit s.therm.thrm1 0 (thermCrossed s.therm.thrm1 temp)) 1 true) 30)) := by
      rw [compared]
      rfl
    rw [therm, pending]
    simp [bitAt_setBit, crosses]

/-! ## Power modes and checkstop -/

theorem awaken_msr (s : State) : (awaken s).msr = s.msr &&& 0xFFFBFFFF := rfl

/-- An external interrupt wakes a processor that is in a power-saving mode. -/
theorem asyncNow_awaken {s : State} (sreset : s.latch.sreset = false) (check : s.latch.machineCheck = false)
    (ee : msrEe s = true) (smi : s.pins.smi = false) (int : s.pins.int = true) :
    asyncNow (awaken s) = some (takeException 0x500 s.pc 0 (awaken s)) := by
  have awake : msrEe (awaken s) = true := by
    show bitAt (setBit s.msr 13 false) 16 = true
    rw [bitAt_setBit _ _ _ (by decide)]
    exact ee
  have now : asyncNow (awaken s) = if msrEe (awaken s) then maskableNow (awaken s) else none := by
    have check : (awaken s).latch.machineCheck = false := check
    have sreset : (awaken s).latch.sreset = false := sreset
    simp [asyncNow, check, sreset]
  have smi : ¬ (awaken s).pins.smi = true := Bool.eq_false_iff.mp smi
  have int : (awaken s).pins.int = true := int
  rw [now, if_pos awake, maskableNow, if_neg smi, if_pos int]
  rfl

/-- What a power-saving mode does at a boundary. -/
theorem boundary_saving {s : State} (saving : s.run = .doze ∨ s.run = .nap ∨ s.run = .sleep) (reset : s.pins.hreset = false)
    (check : s.pins.ckstpIn = false) :
    boundary false s = if wakes s then some ((asyncNow (awaken s)).getD s) else some s := by
  rcases saving with mode | mode | mode <;> cases wake : wakes s <;> simp [boundary, reset, mode, check, wake]

theorem wakes_iff {s : State} (saving : s.run = .doze ∨ s.run = .nap ∨ s.run = .sleep) (sreset : s.latch.sreset = false)
    (check : s.latch.machineCheck = false) (smi : s.pins.smi = true ∨ s.pins.int = true) : wakes s = msrEe s := by
  rcases saving with mode | mode | mode <;> rcases smi with pin | pin <;> simp [wakes, mode, sreset, check, pin]

theorem wakes_masked {s : State} (saving : s.run = .doze ∨ s.run = .nap ∨ s.run = .sleep) (sreset : s.latch.sreset = false)
    (check : s.latch.machineCheck = false) (ee : msrEe s = false) : wakes s = false := by
  rcases saving with mode | mode | mode <;> simp [wakes, mode, sreset, check, ee]

theorem powerEntry_asked {s : State} (running : s.run = .running) (untraced : s.traceDue = false)
    (pow : bitAt s.msr 13 = true) (asked : s.powAsked = true) {m : RunState} (mode : selectedModes s = [m]) :
    powerEntry s =
      if m = .doze then { s with run := .doze } else if s.pins.qack then { s with run := m, storeQueue := [] } else s := by
  have due : (s.run = .running && s.powAsked && msrPow s && !s.traceDue) = true := by
    simp [running, asked, msrPow, pow, untraced]
  have chosen : chosenMode s = (some m, s) := by simp only [chosenMode, mode]
  rw [powerEntry, if_pos due]
  cases m <;> simp only [chosen, reduceCtorEq, if_false, if_true]

/-- The mode bits of HID0, one by one. -/
theorem mode_bits {x : Word} {v : BitVec 3} (h : field x 8 3 = v) :
    bitAt x 8 = bitAt v 0 ∧ bitAt x 9 = bitAt v 1 ∧ bitAt x 10 = bitAt v 2 := by
  subst h
  have bit (k : Nat) (hk : k < 3) : bitAt x (8 + k) = bitAt (field x 8 3) k := (bitAt_field x (by decide) hk).symm
  exact ⟨bit 0 (by decide), bit 1 (by decide), bit 2 (by decide)⟩

theorem selectedModes_eq (s : State) {v : BitVec 3} (h : field (hid0Now s) 8 3 = v) :
    selectedModes s =
      (if bitAt v 0 then [.doze] else []) ++ (if bitAt v 1 then [.nap] else []) ++ (if bitAt v 2 then [.sleep] else []) := by
  obtain ⟨doze, nap, sleep⟩ := mode_bits h
  rw [selectedModes, doze, nap, sleep]

/-- Settles O51. -/
theorem powerAndCheckstop : Obligations.PowerAndCheckstop := by
  intro s env reset
  refine ⟨fun stopped => ?_, fun saving check sreset mc => ⟨fun ee => ?_, fun ee smi int => ?_⟩, rfl, fun running untraced pow
    asked => ?_⟩
  · have moves : envMoves [] (envAdvance s) = .ok () (envAdvance s) := rfl
    have stays : boundary false (envAdvance s) = some (envAdvance s) := by
      have reset : (envAdvance s).pins.hreset = false := reset
      have stopped : (envAdvance s).run = .checkstop := stopped
      simp [boundary, reset, stopped]
    have ended : endStep (envAdvance s) (envAdvance s) = endSupply (envAdvance s) := by
      have halted : (decide ((endSupply (envAdvance s)).run = .checkstop) ||
          decide ((endSupply (envAdvance s)).run = .heldInReset)) = true := by
        rw [show (endSupply (envAdvance s)).run = .checkstop from stopped]
        rfl
      exact if_pos halted
    simp only [step, stepWith, env, moves, List.contains_nil, stays, endOut, ended]
    rfl
  · rw [boundary_saving saving reset check, wakes_masked saving sreset mc ee]
    rfl
  · have wake : wakes s = true := (wakes_iff saving sreset mc (.inr int)).trans ee
    refine ⟨takeException 0x500 s.pc 0 (awaken s), ?_, ?_⟩
    · rw [boundary_saving saving reset check, if_pos wake, asyncNow_awaken sreset mc ee smi int]
      rfl
    · have h := takeException_entered 0x500 s.pc 0 (awaken s)
      exact ⟨h.srr0, h.srr1, h.msr, h.pc, h.frame⟩
  · have entered := @powerEntry_asked s running untraced pow asked
    exact ⟨fun mode => (entered (selectedModes_eq s mode)).trans (if_pos rfl),
      fun mode => (entered (selectedModes_eq s mode)).trans (if_neg (by decide)),
      fun mode => (entered (selectedModes_eq s mode)).trans (if_neg (by decide))⟩

end Sys2Proof.Machine
end

section
/-! PROOF. O52: what another master's transaction does. -/

namespace Sys2Proof.Machine

/-! ## A block written to memory -/

theorem getElem_bytesAt (s : State) (a : Word) (n k : Nat) (hk : k < (bytesAt s a n).length) :
    (bytesAt s a n)[k] = peek s (a + BitVec.ofNat 32 k) := by
  induction n generalizing a k with
  | zero => simp [bytesAt] at hk
  | succ n ih =>
    cases k with
    | zero => simp [bytesAt]
    | succ k =>
      simp only [bytesAt, List.getElem_cons_succ]
      rw [ih (a + 1) k (by simpa [bytesAt] using hk), BitVec.add_assoc]
      congr 2
      apply BitVec.eq_of_toNat_eq
      simp [Nat.add_comm]

/-- The bytes of a block are in memory if it was modified; no other byte has changed. -/
structure BlockWritten (s t : State) (base : Word) (modified : Bool) (d : BlockData) : Prop where
  bytes : if modified then ∀ j : Fin 32, peek t (base + BitVec.ofNat 32 j) = d[j] else t.mem = s.mem
  outside : MemoryOutside s t base 32

/-- The write of a block, where it is modified. -/
def flushed (base : Word) (modified : Bool) (d : BlockData) (s : State) : State :=
  if modified then pokeBytes d.toList base s else s

theorem flushed_eq (base : Word) (modified : Bool) (d : BlockData) (s : State) :
    flushed base modified d s = { s with mem := (flushed base modified d s).mem } := by
  unfold flushed
  split
  · exact pokeBytes_eq _ _ _
  · rfl

theorem flushed_written {s : State} (h : MemoryCanonical s) (base : Word) (modified : Bool) (d : BlockData) :
    BlockWritten s (flushed base modified d s) base modified d := by
  have len : d.toList.length = 32 := d.length_toList
  cases modified with
  | false => exact ⟨rfl, fun x _ => rfl⟩
  | true =>
    refine ⟨fun j => ?_, len ▸ peek_pokeBytes_outside d.toList base h⟩
    have bytes := bytesAt_pokeBytes d.toList base h (by omega)
    have short : (j : Nat) < (bytesAt (pokeBytes d.toList base s) base d.toList.length).length := by
      rw [bytesAt_length]
      omega
    have byte := getElem_bytesAt (pokeBytes d.toList base s) base d.toList.length j short
    simp only [bytes, Vector.getElem_toList] at byte
    exact byte.symm

theorem busWriteBlock_memory {s : State} (tea : s.tea = []) (devices : s.devices = []) (b : BitVec 27) (d : BlockData) :
    busWriteBlock b d s = pokeBytes d.toList (blockBase b) s := by
  simp [busWriteBlock, tea, devices]

theorem push_memory {s : State} (l2 : l2On s = false) (tea : s.tea = []) (devices : s.devices = []) (b : BitVec 27)
    (d : BlockData) : push b d s = pokeBytes d.toList (blockBase b) s := by
  have off : l2On (pokeBytes d.toList (blockBase b) s) = false := by
    rw [pokeBytes_eq]
    exact l2
  simp [push, busWriteBlock_memory tea devices, off]

/-! ## A block of the data cache -/

theorem dset_dsetPut (s : State) (i n : Fin 128) (x : DSet) : dset (dsetPut s i x) n = if n = i then x else dset s n := by
  simp only [dset, dsetPut, Fin.getElem_fin, Vector.getElem_set, Fin.ext_iff, eq_comm]

/-- One way of the data cache is written. -/
theorem dset_dWayPut (s : State) (pa : Word) (w : Fin 8) (b : Option DBlock) (n : Fin 128) (v : Fin 8) :
    (dset (dWayPut s pa w b) n).ways[v] = if n = setOf pa ∧ v = w then b else (dset s n).ways[v] := by
  rw [dWayPut, dset_dsetPut]
  by_cases here : n = setOf pa
  · subst here
    simp only [if_true, Fin.getElem_fin, Vector.getElem_set, Fin.ext_iff, true_and, eq_comm]
  · simp [here]

/-! ## The reservation -/

/-- The reservation after a snooped transaction. -/
def unreserved (k : SnoopKind) (pa : Word) (s : State) : State :=
  { s with resv := { s.resv with held := s.resv.held && !snoopCancels k pa s } }

theorem snoop_eq {s : State} (running : s.run = .running) {k : SnoopKind} {act : SnoopAction} (h : snoopAction k = some act)
    (g : Bool) (pa : Word) : snoop ⟨k, g, pa, []⟩ s = .ok () (snoopCaches act g pa (unreserved k pa s)) := by
  have snoops : snooping s = true := by simp [snooping, running]
  have ends : (if snoopCancels k pa s then { s with resv := { s.resv with held := false } } else s) = unreserved k pa s := by
    unfold unreserved
    cases snoopCancels k pa s <;> simp
  simp only [snoop, applySnoop, snooped, h, snoops, if_true, ends, otherWrites]
  rfl

theorem snoopCancels_iff (k : SnoopKind) (pa : Word) (s : State) :
    snoopCancels k pa s = true ↔
      k = .writeFlushAtomic ∨ (k ∈ [SnoopKind.kill, .writeFlush, .writeKill] ∧ s.resv.block.toNat = pa.toNat / 32) := by
  have block : s.resv.block = blockOf pa ↔ s.resv.block.toNat = pa.toNat / 32 := by
    rw [← BitVec.toNat_inj, blockOf, field_toNat]
    have below := pa.isLt
    omega
  cases k <;> simp [snoopCancels, block]

/-- A snoop has left the reservation as the type of the transaction says. -/
structure Reserved (s t : State) (ends : Prop) : Prop where
  block : t.resv.block = s.resv.block
  held : t.resv.held = true ↔ s.resv.held = true ∧ ¬ ends

theorem unreserved_reserved {s t : State} {k : SnoopKind} {pa : Word} (h : t.resv = (unreserved k pa s).resv) :
    Reserved s t (k = .writeFlushAtomic ∨
      (k ∈ [SnoopKind.kill, .writeFlush, .writeKill] ∧ s.resv.block.toNat = pa.toNat / 32)) where
  block := by rw [h]; rfl
  held := by
    rw [h, ← snoopCancels_iff]
    simp [unreserved]

/-! ## What a transaction acts on -/

theorem snoopCaches_idle {act : SnoopAction} {g : Bool} (h : g = false ∨ act = .nothing) (pa : Word) (s : State) :
    snoopCaches act g pa s = s := by
  rcases h with rfl | rfl <;> simp [snoopCaches]

theorem snoopCaches_acting {act : SnoopAction} (h : act ≠ .nothing) (pa : Word) (s : State) :
    snoopCaches act true pa s = settleBlock (blockOf pa) (snoopLocked pa s (snoopL2 act pa (snoopL1 act pa s))) := by
  simp [snoopCaches, h]

theorem snoopLocked_off {s : State} (h : l2On s = false) (pa : Word) (t : State) : snoopLocked pa s t = t := by
  unfold snoopLocked
  split
  · simp [h]
  · rfl

/-- What is left of a block that a transaction has hit. -/
def DBlock.after (b : DBlock) : SnoopAction → Option DBlock
  | .clean => some { b with modified := false }
  | _ => none

/-- What is left of a sector. -/
def L2Sector.after (x : L2Sector) : SnoopAction → Option L2Sector
  | .clean => some { x with modified := false }
  | _ => none

theorem snoopL1_hit {s : State} (on : hidDce s = true) (l2 : l2On s = false) (tea : s.tea = []) (devices : s.devices = [])
    {pa : Word} {w : Fin 8} {b : DBlock} (found : dFind s pa = some w) (block : (dset s (setOf pa)).ways[w] = some b)
    {act : SnoopAction} (acts : act ≠ .nothing) :
    snoopL1 act pa s =
      dWayPut (flushed (blockBase (blockOf pa)) (b.modified && act ≠ .kill) b.data s) pa w (b.after act) := by
  have here : dBlock s pa = some b := by simp only [dBlock, found, block]
  have pushed : (if b.modified && act ≠ .kill then push (blockOf pa) b.data s else s) =
      flushed (blockBase (blockOf pa)) (b.modified && act ≠ .kill) b.data s := by
    rw [push_memory l2 tea devices, flushed]
  simp only [snoopL1, on, if_true, found, here, pushed]
  cases act with
  | nothing => exact absurd rfl acts
  | _ => rfl

theorem snoopL2_off {s : State} (h : l2On s = false) (act : SnoopAction) (pa : Word) : snoopL2 act pa s = s := by
  simp [snoopL2, h]

theorem snoopL1_off {s : State} (h : hidDce s = false) (act : SnoopAction) (pa : Word) : snoopL1 act pa s = s := by
  simp [snoopL1, h]

theorem snoopL1_miss {s : State} {pa : Word} (h : dFind s pa = none) (act : SnoopAction) : snoopL1 act pa s = s := by
  simp [snoopL1, h]

theorem snoopL2_miss {s : State} {pa : Word} (h : l2Find s pa = none) (act : SnoopAction) : snoopL2 act pa s = s := by
  simp [snoopL2, h]

theorem snoopL2_hit {s : State} (on : l2On s = true) (tea : s.tea = []) (devices : s.devices = [])
    {pa : Word} {w : Fin 2} {x : L2Sector} (found : l2Find s pa = some w)
    (sector : (l2Set s pa).ways[w].sectors[l2SectorOf pa] = some x) {act : SnoopAction} (acts : act ≠ .nothing) :
    snoopL2 act pa s =
      l2SectorPut (flushed (blockBase (blockOf pa)) (x.modified && act ≠ .kill) x.data s) pa w (x.after act) := by
  have here : l2Sector s pa = some x := by simp only [l2Sector, found, sector]
  have pushed : (if x.modified && act ≠ .kill then busWriteBlock (blockOf pa) x.data s else s) =
      flushed (blockBase (blockOf pa)) (x.modified && act ≠ .kill) x.data s := by
    rw [busWriteBlock_memory tea devices, flushed]
  simp only [snoopL2, on, if_true, found, here, pushed]
  cases act with
  | nothing => exact absurd rfl acts
  | _ => rfl

theorem l2Sector_l2SectorPut (s : State) (pa : Word) (w : Fin 2) (x : Option L2Sector) :
    (l2Set (l2SectorPut s pa w x) pa).ways[w].sectors[l2SectorOf pa] = x := by
  simp [l2Set, l2SectorPut, l2SetPut]

theorem snoopLocked_caches (pa : Word) (s t : State) : (snoopLocked pa s t).caches = t.caches := by
  unfold snoopLocked
  split
  · split <;> rfl
  · rfl

theorem snoopLocked_mem (pa : Word) (s t : State) : (snoopLocked pa s t).mem = t.mem := by
  unfold snoopLocked
  split
  · split <;> rfl
  · rfl

theorem snoopLocked_resv (pa : Word) (s t : State) : (snoopLocked pa s t).resv = t.resv := by
  unfold snoopLocked
  split
  · split <;> rfl
  · rfl

theorem snoopLocked_hit {s : State} (on : l2On s = true) {pa : Word} {w : Fin 2} (found : l2Find s pa = some w)
    (locked : l2Locked s w = true) (t : State) :
    snoopLocked pa s t = { t with
      hid := { t.hid with l2cr := setBit t.hid.l2cr 23 true }
      latch := { t.latch with machineCheck := t.latch.machineCheck || bitAt t.hid.l2cr 22 } } := by
  simp [snoopLocked, found, on, locked]

theorem BlockWritten.congr {s t s' t' : State} {base : Word} {modified : Bool} {d : BlockData}
    (h : BlockWritten s t base modified d) (before : s'.mem = s.mem) (after : t'.mem = t.mem) :
    BlockWritten s' t' base modified d := by
  have peeks (x : Word) : peek t' x = peek t x := by rw [peek, peek, after]
  have peeked (x : Word) : peek s' x = peek s x := by rw [peek, peek, before]
  refine ⟨?_, fun x hx => by rw [peeks, peeked]; exact h.outside x hx⟩
  have bytes := h.bytes
  split
  · next m => simpa only [m, if_true, peeks] using bytes
  · next m =>
    rw [if_neg m] at bytes
    rw [after, before, bytes]

/-- Settles O52, by what the transaction's type acts on and where it hits. -/
theorem snoopResults : Obligations.SnoopResults := by
  refine ⟨fun s k g pa running stated => ?_, fun s g pa data => rfl⟩
  intro takes reads ends base written after nothing misses
  let u := unreserved k pa s
  have flush (h : takes) : snoopAction k = some .flush := by
    have all : ∀ k ∈ [SnoopKind.kill, .writeFlush, .readBurst, .rwitm, .writeFlushAtomic, .readAtomicBurst, .rwitmAtomic],
      snoopAction k = some .flush := by decide
    exact all k h
  have clean (h : reads) : snoopAction k = some .clean := by
    have all : ∀ k ∈ [SnoopKind.readSingle, .readAtomicSingle, .rwnitc], snoopAction k = some .clean := by decide
    exact all k h
  have kill (h : k = .writeKill) : snoopAction k = some .kill := by rw [h]; rfl
  have acting (h : takes ∨ reads ∨ k = .writeKill) : ∃ act, snoopAction k = some act ∧ act ≠ .nothing := by
    rcases h with h | h | h
    · exact ⟨_, flush h, by decide⟩
    · exact ⟨_, clean h, by decide⟩
    · exact ⟨_, kill h, by decide⟩
  have done {P : State → Prop} {act : SnoopAction} {t : State} (h : snoopAction k = some act)
      (e : snoopCaches act g pa u = t) (r : t.resv = u.resv) (p : P t) : after P :=
    have left := unreserved_reserved r
    ⟨t, e ▸ snoop_eq running h g pa, p, left.block, left.held⟩
  refine ⟨fun idle => ?_, fun isGlobal tea devices canonical => ?_⟩
  · obtain ⟨act, h, idle⟩ : ∃ act, snoopAction k = some act ∧ (g = false ∨ act = .nothing) := by
      rcases idle with off | ⟨not_taken, not_read, not_killed⟩
      · cases h : snoopAction k with
        | none => exact absurd h (by cases k <;> simp_all [snoopAction])
        | some act => exact ⟨act, rfl, .inl off⟩
      · exact ⟨.nothing, by cases k <;> simp_all [snoopAction, takes, reads], .inr rfl⟩
    exact done h (snoopCaches_idle idle pa u) rfl rfl
  subst isGlobal
  refine ⟨fun l1 l2 => ⟨fun miss acts => ?_, fun w b found block => ?_⟩,
    fun l1 l2 => ⟨fun miss acts => ?_, fun w x found block => ?_⟩⟩
  · obtain ⟨act, h, acts⟩ := acting acts
    have missed : snoopCaches act true pa u = settleBlock (blockOf pa) u := by
      rw [snoopCaches_acting acts, snoopL1_miss (s := u) miss, snoopL2_off (s := u) l2, snoopLocked_off (s := u) l2]
    exact done h missed rfl rfl
  · intro way
    have hit {act : SnoopAction} (h : snoopAction k = some act) (acts : act ≠ .nothing) :
        after fun t => way t (b.after act) ∧ BlockWritten s t base (b.modified && act ≠ .kill) b.data := by
      let v := flushed base (b.modified && act ≠ .kill) b.data u
      have v_eq : v = { u with mem := v.mem } := flushed_eq _ _ _ _
      have e : snoopCaches act true pa u = settleBlock (blockOf pa) (dWayPut v pa w (b.after act)) := by
        have off : l2On (dWayPut v pa w (b.after act)) = false := by
          rw [v_eq]
          exact l2
        rw [snoopCaches_acting acts, snoopL1_hit (s := u) l1 l2 tea devices found block acts, snoopL2_off off,
          snoopLocked_off (s := u) l2]
      have memory : BlockWritten u v base (b.modified && act ≠ .kill) b.data :=
      flushed_written (s := u) canonical _ _ _
      refine done h e (by rw [v_eq]; rfl) ⟨⟨fun n x => ?_, ?_⟩, memory.congr rfl rfl⟩
      · have same : dset v n = dset s n := by rw [v_eq]; rfl
        rw [← same]
        exact dset_dWayPut v pa w _ n x
      · rw [v_eq]
        rfl
    refine ⟨fun h => ?_, fun h => ?_, fun h => ?_⟩
    · obtain ⟨t, e, ⟨put, memory⟩, left⟩ := hit (flush h) (by decide)
      exact ⟨t, e, ⟨put, by simpa using memory.bytes, memory.outside⟩, left⟩
    · obtain ⟨t, e, ⟨put, memory⟩, left⟩ := hit (clean h) (by decide)
      exact ⟨t, e, ⟨put, by simpa using memory.bytes, memory.outside⟩, left⟩
    · obtain ⟨t, e, ⟨put, memory⟩, left⟩ := hit (kill h) (by decide)
      exact ⟨t, e, ⟨put, by simpa using memory.bytes⟩, left⟩
  · obtain ⟨act, h, acts⟩ := acting acts
    have missed : snoopCaches act true pa u = settleBlock (blockOf pa) u := by
      have unlocked : snoopLocked pa u u = u := by
        have miss : l2Find u pa = none := miss
        simp [snoopLocked, miss]
      rw [snoopCaches_acting acts, snoopL1_off (s := u) l1, snoopL2_miss (s := u) miss, unlocked]
    exact done h missed rfl rfl
  · intro sector
    let v (act : SnoopAction) := flushed base (x.modified && act ≠ .kill) x.data u
    have e {act : SnoopAction} (acts : act ≠ .nothing) :
        snoopCaches act true pa u = settleBlock (blockOf pa) (snoopLocked pa u (l2SectorPut (v act) pa w (x.after act))) := by
      rw [snoopCaches_acting acts, snoopL1_off (s := u) l1, snoopL2_hit (s := u) l2 tea devices found block acts]
    have v_eq (act : SnoopAction) : v act = { u with mem := (v act).mem } := flushed_eq _ _ _ _
    have kept (act : SnoopAction) :
        (settleBlock (blockOf pa) (snoopLocked pa u (l2SectorPut (v act) pa w (x.after act)))).resv = u.resv := by
      refine (snoopLocked_resv pa u _).trans ?_
      rw [v_eq]
      rfl
    have hit {act : SnoopAction} (h : snoopAction k = some act) (acts : act ≠ .nothing) :
        after fun t => sector t (x.after act) ∧ BlockWritten s t base (x.modified && act ≠ .kill) x.data := by
      have memory : BlockWritten u (v act) base (x.modified && act ≠ .kill) x.data :=
      flushed_written (s := u) canonical _ _ _
      refine done h (e acts) (kept act) ⟨?_, memory.congr rfl (snoopLocked_mem pa u _)⟩
      have caches := snoopLocked_caches pa u (l2SectorPut (v act) pa w (x.after act))
      have put := l2Sector_l2SectorPut (v act) pa w (x.after act)
      rw [l2Set, ← caches] at put
      exact put
    refine ⟨fun h => ?_, fun h => ?_, fun h => ?_, fun locked acts => ?_⟩
    · obtain ⟨t, e, ⟨put, memory⟩, left⟩ := hit (flush h) (by decide)
      exact ⟨t, e, ⟨put, by simpa using memory.bytes, memory.outside⟩, left⟩
    · obtain ⟨t, e, ⟨put, memory⟩, left⟩ := hit (clean h) (by decide)
      exact ⟨t, e, ⟨put, by simpa using memory.bytes, memory.outside⟩, left⟩
    · obtain ⟨t, e, ⟨put, memory⟩, left⟩ := hit (kill h) (by decide)
      exact ⟨t, e, ⟨put, by simpa using memory.bytes⟩, left⟩
    · obtain ⟨act, h, acts⟩ := acting acts
      refine done h (e acts) (kept act) ?_
      rw [snoopLocked_hit (s := u) l2 found locked, v_eq]
      refine ⟨bitAt_setBit _ 23 true (by decide), fun enabled => ?_⟩
      show (s.latch.machineCheck || bitAt s.hid.l2cr 22) = true
      rw [enabled, Bool.or_true]

end Sys2Proof.Machine
end

section
/-! PROOF. O10 to O13, O17 and O18: the integer and floating-point loads and stores. -/

namespace Sys2Proof.Machine

/-! ## What the bytes of a load become -/

theorem zeroed_eq (bs : List Byte) : zeroed bs = BitVec.ofNat 32 (valueBig bs) := bytesVal_eq 32 bs

theorem reversed_eq (bs : List Byte) : reversed bs = BitVec.ofNat 32 (valueBig bs.reverse) := bytesVal_eq 32 bs.reverse

theorem algebraic_eq (bs : List Byte) : algebraic bs = BitVec.ofInt 32 (Int.bmod (valueBig bs) (2 ^ 16)) := by
  rw [algebraic, bytesVal_eq, BitVec.signExtend, BitVec.toInt_eq_toNat_bmod, BitVec.toNat_ofNat, Int.natCast_emod]
  exact congrArg _ (Int.emod_bmod ..)

/-! ## Integer loads -/

section Loads

variable {s : State} (h : PlainData s)
include h

theorem intLoad_goes (rD : Reg) (ea : Word) {n : Nat} (hn : n ≤ 4096) (rc : Bool) {conv : List Byte → Word} {v : Word}
    (value : conv (bytesAt s ea n) = v) :
    Goes (loadOp ea n rc (intoGpr rD conv) s) fun t => LoadOutcome s t [(rD, v)] rc := by
  subst value
  exact goes_next (loadOutcome_of rc (gprs_one rfl)) (loadOp_plain h ea hn rc _)

theorem intLoadUpdate_goes (m : String) (rD rA : Reg) (ea : Word) {n : Nat} (hn : n ≤ 4096) (rc : Bool)
    {conv : List Byte → Word} {v : Word} (value : conv (bytesAt s ea n) = v) :
    if rA = 0 ∨ rA = rD then Refuses (updateLoadForm m rD rA (loadOp ea n rc (intoGprU rD rA ea conv) s))
    else Goes (updateLoadForm m rD rA (loadOp ea n rc (intoGprU rD rA ea conv) s)) fun t =>
      LoadOutcome s t [(rD, v), (rA, ea)] rc := by
  subst value
  unfold updateLoadForm
  split
  · exact ⟨_, rfl⟩
  · next valid =>
    have different : rA ≠ rD := fun e => valid (.inr e)
    exact goes_next (loadOutcome_of rc (gprs_two rfl different)) (loadOp_plain h ea hn rc _)

end Loads

/-- Settles O10. -/
theorem integerLoadResults : Obligations.IntegerLoadResults := by
  intro s rD rA rB d rc plain
  have loads (ea : Word) {n : Nat} (hn : n ≤ 4096) (rc : Bool) {conv : List Byte → Word} {v : Word}
      (value : conv (bytesAt s ea n) = v) := intLoad_goes plain rD ea hn rc value
  exact ⟨loads _ (by decide) _ (zeroed_eq _), loads _ (by decide) _ (zeroed_eq _),
    loads _ (by decide) _ (zeroed_eq _), loads _ (by decide) _ (zeroed_eq _),
    loads _ (by decide) _ (algebraic_eq _), loads _ (by decide) _ (algebraic_eq _),
    loads _ (by decide) _ (zeroed_eq _), loads _ (by decide) _ (zeroed_eq _),
    loads _ (by decide) _ (reversed_eq _), loads _ (by decide) _ (reversed_eq _)⟩

/-- Settles O11. -/
theorem integerLoadUpdateResults : Obligations.IntegerLoadUpdateResults := by
  intro s rD rA rB d rc plain
  have loads (m : String) (ea : Word) {n : Nat} (hn : n ≤ 4096) (rc : Bool) {conv : List Byte → Word} {v : Word}
      (value : conv (bytesAt s ea n) = v) := intLoadUpdate_goes plain m rD rA ea hn rc value
  exact ⟨loads "lbzu" _ (by decide) _ (zeroed_eq _), loads "lbzux" _ (by decide) _ (zeroed_eq _),
    loads "lhzu" _ (by decide) _ (zeroed_eq _), loads "lhzux" _ (by decide) _ (zeroed_eq _),
    loads "lhau" _ (by decide) _ (algebraic_eq _), loads "lhaux" _ (by decide) _ (algebraic_eq _),
    loads "lwzu" _ (by decide) _ (zeroed_eq _), loads "lwzux" _ (by decide) _ (zeroed_eq _)⟩

/-! ## Integer stores -/

section Stores

variable {s : State} (h : PlainData s) (canonical : MemoryCanonical s)
include h canonical

theorem store_goes (ea : Word) {bs : List Byte} {n v : Nat} (length : bs.length = n) (hn : n ≤ 4096) (value : valueBig bs = v)
    (rc : Bool) : Goes (storeOp ea bs rc id s) fun t => StoreOutcome s t ea n v [] rc := by
  subst length value
  obtain ⟨q, enqueued, e⟩ := storeOp_plain h ea hn rc id
  refine goes_next (storeOutcome_of canonical hn (g := s.gpr) enqueued rc (gprs_none rfl)) (e.trans ?_)
  rw [pokeBytes_eq]
  rfl

theorem storeUpdate_goes (rA : Reg) (ea : Word) {bs : List Byte} {n v : Nat} (length : bs.length = n) (hn : n ≤ 4096)
    (value : valueBig bs = v) (rc : Bool) :
    Goes (storeOp ea bs rc (updateBase rA ea) s) fun t => StoreOutcome s t ea n v [(rA, ea)] rc := by
  subst length value
  obtain ⟨q, enqueued, e⟩ := storeOp_plain h ea hn rc (updateBase rA ea)
  refine goes_next (storeOutcome_of canonical hn (g := (gprSet s rA ea).gpr) enqueued rc (gprs_one rfl)) (e.trans ?_)
  rw [pokeBytes_eq]
  rfl

theorem intStoreUpdate_goes (m : String) (rA : Reg) (ea : Word) {bs : List Byte} {n v : Nat} (length : bs.length = n)
    (hn : n ≤ 4096) (value : valueBig bs = v) (rc : Bool) :
    if rA = 0 then Refuses (updateForm m rA (storeOp ea bs rc (updateBase rA ea) s))
    else Goes (updateForm m rA (storeOp ea bs rc (updateBase rA ea) s)) fun t => StoreOutcome s t ea n v [(rA, ea)] rc := by
  unfold updateForm
  split
  · exact ⟨_, rfl⟩
  · exact storeUpdate_goes h canonical rA ea length hn value rc

end Stores

/-- Settles O12. -/
theorem integerStoreResults : Obligations.IntegerStoreResults := by
  intro s rS rA rB d rc plain canonical
  have stores (ea : Word) {bs : List Byte} {n v : Nat} (length : bs.length = n) (hn : n ≤ 4096) (value : valueBig bs = v)
      (rc : Bool) := store_goes plain canonical ea length hn value rc
  exact ⟨stores _ (n := 1) rfl (by decide) (valueBig_byteOf _) _, stores _ (n := 1) rfl (by decide) (valueBig_byteOf _) _,
    stores _ (n := 2) rfl (by decide) (valueBig_halfOf _) _, stores _ (n := 2) rfl (by decide) (valueBig_halfOf _) _,
    stores _ (n := 4) rfl (by decide) (valueBig_wordBytes _) _, stores _ (n := 4) rfl (by decide) (valueBig_wordBytes _) _,
    stores _ (n := 2) rfl (by decide) (valueBig_halfOf_reverse _) _, stores _ (n := 4) rfl (by decide)
      (valueBig_wordBytes_reverse _) _⟩

/-- Settles O13. -/
theorem integerStoreUpdateResults : Obligations.IntegerStoreUpdateResults := by
  intro s rS rA rB d rc plain canonical
  have stores (m : String) (ea : Word) {bs : List Byte} {n v : Nat} (length : bs.length = n) (hn : n ≤ 4096)
      (value : valueBig bs = v) (rc : Bool) := intStoreUpdate_goes plain canonical m rA ea length hn value rc
  exact ⟨stores "stbu" _ (n := 1) rfl (by decide) (valueBig_byteOf _) _,
    stores "stbux" _ (n := 1) rfl (by decide) (valueBig_byteOf _) _,
    stores "sthu" _ (n := 2) rfl (by decide) (valueBig_halfOf _) _,
    stores "sthux" _ (n := 2) rfl (by decide) (valueBig_halfOf _) _,
    stores "stwu" _ (n := 4) rfl (by decide) (valueBig_wordBytes _) _,
    stores "stwux" _ (n := 4) rfl (by decide) (valueBig_wordBytes _) _⟩

/-! ## Floating-point loads -/

theorem wordAligned_iff (ea : Word) : wordAligned ea = true ↔ ea.toNat % 4 = 0 := by
  rw [← aligned_iff ea, wordAligned, beq_iff_eq]

theorem needsWordAligned_of_aligned {ea : Word} (h : ea.toNat % 4 = 0) (dsisr : Word) (s : State) (k : Out) :
    needsWordAligned ea dsisr s k = k := by
  rw [needsWordAligned, if_pos ((wordAligned_iff ea).mpr h)]

theorem needsFp_of_fp {s : State} (h : msrFp s = true) (k : Out) : needsFp s k = k := by rw [needsFp, if_pos h]

/-- The end of a floating-point load that updates the registers `g`. -/
theorem fpLoadOutcome_of {s : State} (frD : Reg) (v : DWord) {g : Vector Word 32} {l : List (Reg × Word)} (rc : Bool)
    (h : Gprs s { s with gpr := g } l) :
    FpLoadOutcome s (advance (recordAny rc { fprSet s frD v with gpr := g })) frD v l rc := by
  have value (t : State) (e : t.fpr = (fprSet s frD v).fpr) : Fprs s t [(frD, v)] := fun r => by
    rw [fprGet_congr e, fprGet_fprSet]
    by_cases here : r = frD
    · simp [here]
    · simp [List.lookup, beq_eq_false_iff_ne.mpr here, here]
  have ready (t : State) (e : t.fprInit = (fprSet s frD v).fprInit) (r : Reg) : fprReady t r = (r == frD || fprReady s r) := by
    rw [← fprReady_fprSet s frD r v, fprReady, e]
    rfl
  cases rc
  · exact ⟨value _ rfl, ready _ rfl, h, fun _ => ⟨rfl, rfl⟩, CrOutside.of_eq rfl 0, rfl⟩
  · exact ⟨value _ rfl, ready _ rfl, h, (fun e => nomatch e), recordAny_outside true { fprSet s frD v with gpr := g }, rfl⟩

section FloatLoads

variable {s : State} (h : PlainData s) (fp : msrFp s = true)
include h fp

theorem fpLoad_goes (frD : Reg) (ea dsisr : Word) {n : Nat} (hn : n ≤ 4096) (rc : Bool) {conv : List Byte → DWord} {v : DWord}
    (value : conv (bytesAt s ea n) = v) (aligned : ea.toNat % 4 = 0) :
    Goes (fpLoadOp ea dsisr n rc (intoFpr frD conv) s) fun t => FpLoadOutcome s t frD v [] rc := by
  subst value
  rw [fpLoadOp, needsFp_of_fp fp, needsWordAligned_of_aligned aligned]
  exact goes_next (fpLoadOutcome_of frD _ (g := s.gpr) rc (gprs_none rfl)) (loadOp_plain h ea hn rc _)

theorem fpLoadUpdate_goes (m : String) (frD rA : Reg) (ea dsisr : Word) {n : Nat} (hn : n ≤ 4096) (rc : Bool)
    {conv : List Byte → DWord} {v : DWord} (value : conv (bytesAt s ea n) = v) :
    if rA = 0 then Refuses (needsFp s (updateForm m rA (fpLoadOp ea dsisr n rc (intoFprU frD rA ea conv) s)))
    else ea.toNat % 4 = 0 → Goes (needsFp s (updateForm m rA (fpLoadOp ea dsisr n rc (intoFprU frD rA ea conv) s))) fun t =>
      FpLoadOutcome s t frD v [(rA, ea)] rc := by
  subst value
  rw [needsFp_of_fp fp, updateForm]
  split
  · exact ⟨_, rfl⟩
  · intro aligned
    rw [fpLoadOp, needsFp_of_fp fp, needsWordAligned_of_aligned aligned]
    exact goes_next (fpLoadOutcome_of frD _ (g := (gprSet s rA ea).gpr) rc (gprs_one rfl)) (loadOp_plain h ea hn rc _)

end FloatLoads

theorem asSingle_eq (bs : List Byte) : asSingle bs = toDouble (BitVec.ofNat 32 (valueBig bs)) := by
  rw [asSingle, bytesVal_eq]

theorem asDouble_eq (bs : List Byte) : asDouble bs = BitVec.ofNat 64 (valueBig bs) := bytesVal_eq 64 bs

/-- Settles O17. -/
theorem floatLoadResults : Obligations.FloatLoadResults := by
  intro s frD rA rB d rc plain fp
  have loads (ea dsisr : Word) {n : Nat} (hn : n ≤ 4096) (rc : Bool) {conv : List Byte → DWord} {v : DWord}
      (value : conv (bytesAt s ea n) = v) := fpLoad_goes plain fp frD ea dsisr hn rc value
  have updates (m : String) (ea dsisr : Word) {n : Nat} (hn : n ≤ 4096) (rc : Bool) {conv : List Byte → DWord} {v : DWord}
      (value : conv (bytesAt s ea n) = v) := fpLoadUpdate_goes plain fp m frD rA ea dsisr hn rc value
  exact ⟨⟨loads _ _ (by decide) _ (asSingle_eq _), updates "lfsu" _ _ (by decide) _ (asSingle_eq _)⟩,
    ⟨loads _ _ (by decide) _ (asSingle_eq _), updates "lfsux" _ _ (by decide) _ (asSingle_eq _)⟩,
    ⟨loads _ _ (by decide) _ (asDouble_eq _), updates "lfdu" _ _ (by decide) _ (asDouble_eq _)⟩,
    ⟨loads _ _ (by decide) _ (asDouble_eq _), updates "lfdux" _ _ (by decide) _ (asDouble_eq _)⟩⟩

/-! ## Floating-point stores -/

/-- A store of a register that nothing has written. -/
theorem unsetStore_refused {s : State} (h : PlainData s) (m : String) (ea : Word) {conv : DWord → List Byte}
    (short : ∀ x, (conv x).length ≤ 4096) : unsetStore m ea conv s = .refused (.uninitialisedFpr m) := by
  have plain : PlainData (fresh 64 s).2 :=
    ⟨⟨h.settled.stale, h.settled.inForce⟩, h.alone, h.real, h.big, h.l1, h.l2, h.test, h.dabr, h.tea, h.devices⟩
  obtain ⟨q, -, e⟩ := plain_dataStore plain ea (short (fresh 64 s).1)
  simp only [unsetStore, e, finish]

theorem fpStoreOp_eq {s : State} (fp : msrFp s = true) (m : String) (ea dsisr : Word) (frS : Reg) (conv : DWord → List Byte)
    (rc : Bool) (f : State → State) (aligned : ea.toNat % 4 = 0) :
    fpStoreOp m ea dsisr frS conv rc f s =
      if fprReady s frS then storeOp ea (conv (fprGet s frS)) rc f s else unsetStore m ea conv s := by
  rw [fpStoreOp, needsFp_of_fp fp, needsWordAligned_of_aligned aligned]

section FloatStores

variable {s : State} (h : PlainData s) (canonical : MemoryCanonical s) (fp : msrFp s = true)
include h canonical fp

theorem fpStore_goes (m : String) (frS : Reg) (ea dsisr : Word) {n v : Nat} {conv : DWord → List Byte}
    (length : ∀ x, (conv x).length = n) (hn : n ≤ 4096) (value : valueBig (conv (fprGet s frS)) = v) (rc : Bool)
    (aligned : ea.toNat % 4 = 0) :
    if fprReady s frS then Goes (fpStoreOp m ea dsisr frS conv rc id s) fun t => StoreOutcome s t ea n v [] rc
    else fpStoreOp m ea dsisr frS conv rc id s = .refused (.uninitialisedFpr m) := by
  rw [fpStoreOp_eq fp m ea dsisr frS conv rc id aligned]
  split
  · exact store_goes h canonical ea (length _) hn value rc
  · exact unsetStore_refused h m ea fun x => (length x).trans_le hn

theorem fpStoreUpdate_goes (m : String) (frS rA : Reg) (ea dsisr : Word) {n v : Nat} {conv : DWord → List Byte}
    (length : ∀ x, (conv x).length = n) (hn : n ≤ 4096) (value : valueBig (conv (fprGet s frS)) = v) (rc : Bool) :
    if rA = 0 then Refuses (needsFp s (updateForm m rA (fpStoreOp m ea dsisr frS conv rc (updateBase rA ea) s)))
    else ea.toNat % 4 = 0 →
      if fprReady s frS then
        Goes (needsFp s (updateForm m rA (fpStoreOp m ea dsisr frS conv rc (updateBase rA ea) s))) fun t =>
          StoreOutcome s t ea n v [(rA, ea)] rc
      else needsFp s (updateForm m rA (fpStoreOp m ea dsisr frS conv rc (updateBase rA ea) s)) =
        .refused (.uninitialisedFpr m) := by
  rw [needsFp_of_fp fp, updateForm]
  by_cases zero : rA = 0
  · rw [if_pos zero, if_pos zero]
    exact ⟨_, rfl⟩
  · rw [if_neg zero, if_neg zero]
    intro aligned
    rw [fpStoreOp_eq fp m ea dsisr frS conv rc _ aligned]
    split
    · exact storeUpdate_goes h canonical rA ea (length _) hn value rc
    · exact unsetStore_refused h m ea fun x => (length x).trans_le hn

end FloatStores

theorem valueBig_lowWordBytes (x : DWord) : valueBig (lowWordBytes x) = x.toNat % 2 ^ 32 := by
  rw [lowWordBytes, valueBig_wordBytes, field_toNat]
  simp

/-- Settles O18. -/
theorem floatStoreResults : Obligations.FloatStoreResults := by
  intro s frS rA rB d rc plain canonical fp
  have stores (m : String) (ea dsisr : Word) {n v : Nat} {conv : DWord → List Byte} (length : ∀ x, (conv x).length = n)
      (hn : n ≤ 4096) (value : valueBig (conv (fprGet s frS)) = v) (rc : Bool) :=
    fpStore_goes plain canonical fp m frS ea dsisr length hn value rc
  have updates (m : String) (ea dsisr : Word) {n v : Nat} {conv : DWord → List Byte} (length : ∀ x, (conv x).length = n)
      (hn : n ≤ 4096) (value : valueBig (conv (fprGet s frS)) = v) (rc : Bool) :=
    fpStoreUpdate_goes plain canonical fp m frS rA ea dsisr length hn value rc
  have single : valueBig (singleBytes (fprGet s frS)) = (toSingle (fprGet s frS)).toNat := valueBig_wordBytes _
  have double : valueBig (dwordBytes (fprGet s frS)) = (fprGet s frS).toNat := valueBig_dwordBytes _
  exact ⟨⟨stores _ _ _ (conv := singleBytes) (fun _ => rfl) (by decide) single _,
      updates _ _ _ (conv := singleBytes) (fun _ => rfl) (by decide) single _⟩,
    ⟨stores _ _ _ (conv := singleBytes) (fun _ => rfl) (by decide) single _,
      updates _ _ _ (conv := singleBytes) (fun _ => rfl) (by decide) single _⟩,
    ⟨stores _ _ _ (conv := dwordBytes) (fun _ => rfl) (by decide) double _,
      updates _ _ _ (conv := dwordBytes) (fun _ => rfl) (by decide) double _⟩,
    ⟨stores _ _ _ (conv := dwordBytes) (fun _ => rfl) (by decide) double _,
      updates _ _ _ (conv := dwordBytes) (fun _ => rfl) (by decide) double _⟩,
    stores _ _ _ (conv := lowWordBytes) (fun _ => rfl) (by decide) (valueBig_lowWordBytes _) _⟩

end Sys2Proof.Machine
end

section
/-! PROOF. O14 to O16: the multiple and string instructions. -/

namespace Sys2Proof.Machine

/-! ## Bytes and words -/

theorem word_of_bytes (a b c d : Byte) : BitVec.ofNat 32 (valueBig [a, b, c, d]) = a ++ b ++ c ++ d := by
  rw [← wordBytes_append, valueBig_wordBytes, BitVec.ofNat_toNat, BitVec.setWidth_eq]

/-- Four bytes are the bytes of their word. -/
theorem wordBytes_of_length {bs : List Byte} (h : bs.length = 4) : wordBytes (BitVec.ofNat 32 (valueBig bs)) = bs := by
  obtain ⟨a, b, c, d, rfl⟩ : ∃ a b c d, bs = [a, b, c, d] := by
    match bs, h with
    | [a, b, c, d], _ => exact ⟨a, b, c, d, rfl⟩
  rw [word_of_bytes, wordBytes_append]

theorem getElem_wordBytes (x : Word) {j : Nat} (hj : j < (wordBytes x).length) : (wordBytes x)[j] = field x (8 * j) 8 := by
  match j, hj with
  | 0, _ | 1, _ | 2, _ | 3, _ => rfl

theorem take_wordBytes (x : Word) {n : Nat} (hn : n ≤ 4) :
    (wordBytes x).take n = (List.range n).map fun j => field x (8 * j) 8 := by
  match n, hn with
  | 0, _ | 1, _ | 2, _ | 3, _ | 4, _ => rfl

theorem highBytes_word {bs : List Byte} (h : bs.length ≤ 4) : wordBytes (highBytes bs) = bs ++ List.replicate (4 - bs.length) 0 := by
  rw [highBytes, bytesVal_eq, wordBytes_of_length]
  simp
  omega

/-- Each byte of a register that a string load fills. -/
theorem field_highBytes {bs : List Byte} (h : bs.length ≤ 4) {j : Nat} (hj : j < 4) :
    field (highBytes bs) (8 * j) 8 = if hb : j < bs.length then bs[j] else 0 := by
  rw [← getElem_wordBytes (highBytes bs) hj]
  simp only [highBytes_word h]
  split
  · next hb => exact List.getElem_append_left hb
  · next hb => rw [List.getElem_append_right (by omega), List.getElem_replicate]

theorem highBytes_eq_zeroed {bs : List Byte} (h : bs.length = 4) : highBytes bs = zeroed bs := by
  rw [highBytes, zeroed, h]
  simp

/-! ## A string or several words loaded -/

theorem plain_gprSet {s : State} (h : PlainData s) (r : Reg) (v : Word) : PlainData (gprSet s r v) :=
  ⟨⟨h.settled.stale, h.settled.inForce⟩, h.alone, h.real, h.big, h.l1, h.l2, h.test, h.dabr, h.tea, h.devices⟩

/-- What a string load leaves in the registers: piece `i` in the `i`-th register from `r` on. -/
def StringLoaded (s t : State) (r : Reg) (ks : List Nat) (ea : Word) : Prop :=
  ∀ q, gprGet t q =
    if h : (q - r).toNat < ks.length then
      highBytes (bytesAt s (ea + BitVec.ofNat 32 (ks.take (q - r).toNat).sum) ks[(q - r).toNat])
    else gprGet s q

theorem plain_stringLoad {s : State} (h : PlainData s) (r : Reg) (ks : List Nat) (ea : Word) (short : ks.length ≤ 32)
    (small : ∀ k ∈ ks, k ≤ 4096) :
    ∃ g, stringLoad r ks ea s = .ok () { s with gpr := g } ∧ StringLoaded s { s with gpr := g } r ks ea := by
  induction ks generalizing s r ea with
  | nil => exact ⟨s.gpr, rfl, fun q => rfl⟩
  | cons k ks ih =>
    simp only [List.length_cons] at short
    let v := highBytes (bytesAt s ea k)
    obtain ⟨g, e, loaded⟩ := ih (plain_gprSet h r v) (r + 1) (ea + BitVec.ofNat 32 k) (by omega)
      fun k' hk' => small k' (List.mem_cons_of_mem _ hk')
    refine ⟨g, ?_, fun q => ?_⟩
    · rw [stringLoad, plain_dataLoad h ea (small k List.mem_cons_self)]
      exact e
    · have there := loaded q
      by_cases here : q = r
      · subst here
        have last : ¬ (q - (q + 1)).toNat < ks.length := by
          have wraps : (q - (q + 1)).toNat = 31 := by bv_omega
          omega
        rw [dif_neg last, gprGet_gprSet, if_pos rfl] at there
        simpa using there
      · have next : (q - r).toNat = (q - (r + 1)).toNat + 1 := by bv_omega
        have bytes (a : Word) (n : Nat) : bytesAt (gprSet s r v) a n = bytesAt s a n :=
          bytesAt_congr (s := s) (t := gprSet s r v) rfl a n
        rw [gprGet_gprSet, if_neg here] at there
        refine there.trans ?_
        simp only [next, List.length_cons, Nat.add_lt_add_iff_right, List.take_succ_cons, List.sum_cons,
          List.getElem_cons_succ, bytes, BitVec.add_assoc, ← BitVec.ofNat_add]

/-- Successive words into successive registers are a string of words. -/
theorem plain_loadWords {s : State} (h : PlainData s) (r : Reg) (n : Nat) (ea : Word) :
    loadWords ea ((List.range n).map fun i => r + BitVec.ofNat 5 i) s = stringLoad r (List.replicate n 4) ea s := by
  induction n generalizing s r ea with
  | zero => rfl
  | succ n ih =>
    have regs : (List.range n).map ((fun i => r + BitVec.ofNat 5 i) ∘ Nat.succ) =
        (List.range n).map fun i => (r + 1) + BitVec.ofNat 5 i := by
      apply List.map_congr_left
      intro i _
      show r + BitVec.ofNat 5 (i + 1) = _
      rw [Nat.add_comm, BitVec.ofNat_add, BitVec.add_assoc]
      rfl
    have first : r + BitVec.ofNat 5 0 = r := BitVec.add_zero r
    rw [List.range_succ_eq_map, List.map_cons, List.map_map, regs, first, List.replicate_succ, loadWords, stringLoad,
      plain_dataLoad h ea (by decide)]
    simp only [andThen]
    rw [highBytes_eq_zeroed (bytesAt_length s ea 4)]
    exact ih (plain_gprSet h r _) (r + 1) (ea + 4)

/-! ## The sizes of the transfers -/

theorem sum_take_replicate (n k : Nat) {i : Nat} (hi : i ≤ n) : ((List.replicate n k).take i).sum = i * k := by
  rw [List.take_replicate, List.sum_replicate, Nat.min_eq_left hi]
  rfl

theorem getElem_stringSizes (n : Nat) {i : Nat} (hi : i < (stringSizes n).length) : (stringSizes n)[i] = min 4 (n - 4 * i) := by
  simp [stringSizes]

theorem length_stringSizes (n : Nat) : (stringSizes n).length = (n + 3) / 4 := by simp [stringSizes]

/-- All transfers but the last are of whole words. -/
theorem sum_take_stringSizes (n : Nat) {i : Nat} (hi : i < (n + 3) / 4) : ((stringSizes n).take i).sum = 4 * i := by
  induction i with
  | zero => rfl
  | succ i ih =>
    have before : i < (stringSizes n).length := by
      rw [length_stringSizes]
      omega
    rw [List.take_succ_eq_append_getElem before, List.sum_append, ih (by omega), List.sum_singleton,
      getElem_stringSizes n before]
    omega

/-! ## Load and store multiple -/

theorem lmwInvalid_iff (rD rA : Reg) : lmwInvalid rD rA = true ↔ if rA = 0 then rD = 0 else rD ≤ rA := by
  unfold lmwInvalid
  split <;> simp

theorem multipleCheck_plain {s : State} (big : msrLe s = false) {ea : Word} (aligned : ea.toNat % 4 = 0) (dsisr : Word) (k : Out) :
    multipleCheck ea dsisr s k = k := by
  rw [multipleCheck, if_neg (by simp [big]), needsWordAligned_of_aligned aligned]

/-- The registers that hold the words of a load multiple. -/
theorem multipleLoaded {s t : State} {rD : Reg} {ea : Word} (h : StringLoaded s t rD (List.replicate (32 - rD.toNat) 4) ea) (r : Reg) :
    gprGet t r =
      if rD ≤ r then BitVec.ofNat 32 (valueBig (bytesAt s (ea + BitVec.ofNat 32 (4 * (r.toNat - rD.toNat))) 4))
      else gprGet s r := by
  have loaded := h r
  by_cases above : rD ≤ r
  · have place : (r - rD).toNat = r.toNat - rD.toNat := by bv_omega
    have inside : (r - rD).toNat < (List.replicate (32 - rD.toNat) 4).length := by
      rw [List.length_replicate]
      bv_omega
    rw [if_pos above]
    rw [dif_pos inside, List.getElem_replicate, sum_take_replicate _ _ (by simpa using inside.le),
      highBytes_eq_zeroed (bytesAt_length _ _ _), zeroed_eq, place, Nat.mul_comm] at loaded
    exact loaded
  · have outside : ¬ (r - rD).toNat < (List.replicate (32 - rD.toNat) 4).length := by
      rw [List.length_replicate]
      bv_omega
    rw [if_neg above]
    rwa [dif_neg outside] at loaded

theorem lmw_goes {s : State} (h : PlainData s) (rD rA : Reg) (d : BitVec 16) (valid : lmwInvalid rD rA = false)
    (aligned : (eaD s rA d).toNat % 4 = 0) :
    Goes (exec (.lmw rD d rA) s) fun t =>
      StringLoaded s t rD (List.replicate (32 - rD.toNat) 4) (eaD s rA d) ∧ t = { s with gpr := t.gpr, pc := s.pc + 4 } := by
  obtain ⟨g, e, loaded⟩ := plain_stringLoad h rD (List.replicate (32 - rD.toNat) 4) (eaD s rA d)
    (by rw [List.length_replicate]; omega) (fun k hk => by rw [List.eq_of_mem_replicate hk]; decide)
  rw [← plain_loadWords h] at e
  have run : exec (.lmw rD d rA) s = .next (advance { s with gpr := g }) := by
    show execLmw rD d rA s = _
    rw [execLmw, if_neg (by simp [valid]), multipleCheck_plain h.big aligned, regsFrom, e]
    rfl
  exact ⟨_, run, loaded, rfl⟩

/-! ## A string or several words stored -/

theorem pokeBytes_append (as bs : List Byte) (ea : Word) (s : State) :
    pokeBytes (as ++ bs) ea s = pokeBytes bs (ea + BitVec.ofNat 32 as.length) (pokeBytes as ea s) := by
  induction as generalizing ea s with
  | nil => simp [pokeBytes]
  | cons a as ih =>
    rw [List.cons_append, pokeBytes, ih, pokeBytes, List.length_cons]
    congr 1
    rw [Nat.add_comm, BitVec.ofNat_add, BitVec.add_assoc]
    rfl

/-- What stores have done to the queue of writes. -/
def Queues (q q' : List Queued) : Prop := Enqueued q q' ∨ q' = q

theorem Queues.after {q r t : List Queued} (first : Enqueued q r) (rest : Queues r t) : Queues q t := by
  rcases rest with more | rfl
  · exact .inl ⟨more.stores, more.pushes.trans first.pushes⟩
  · exact .inl first

/-- Pieces stored one after the other are their bytes stored together. -/
theorem plain_storeSeq {s : State} (h : PlainData s) (ps : List (List Byte)) (ea : Word) (small : ∀ p ∈ ps, p.length ≤ 4096) :
    ∃ q, Queues s.storeQueue q ∧ storeSeq ps.length ea ps s = .ok () { pokeBytes ps.flatten ea s with storeQueue := q } := by
  induction ps generalizing s ea with
  | nil => exact ⟨s.storeQueue, .inr rfl, rfl⟩
  | cons p ps ih =>
    obtain ⟨q, first, e⟩ := plain_dataStore h ea (small p List.mem_cons_self)
    have stored : ({ pokeBytes p ea s with storeQueue := q } : State) =
        { s with mem := (pokeBytes p ea s).mem, storeQueue := q } := by rw [pokeBytes_eq]
    have plain : PlainData { pokeBytes p ea s with storeQueue := q } := stored ▸ plain_stored h _ q
    obtain ⟨q', rest, e'⟩ := ih plain (ea + BitVec.ofNat 32 p.length) fun p' hp' => small p' (List.mem_cons_of_mem _ hp')
    refine ⟨q', .after first rest, ?_⟩
    rw [List.length_cons, storeSeq, e, List.flatten_cons, pokeBytes_append, ← pokeBytes_queue _ _ (pokeBytes p ea s) q q']
    exact e'

theorem plain_storePieces {s : State} (h : PlainData s) (ps : List (List Byte)) (ea : Word)
    (small : ∀ p ∈ ps, p.length ≤ 4096) :
    ∃ q, Queues s.storeQueue q ∧ storePieces ea ps s = .ok () { pokeBytes ps.flatten ea s with storeQueue := q } := by
  obtain ⟨q, queue, e⟩ := plain_storeSeq h ps ea small
  exact ⟨q, queue, by rw [storePieces, e]⟩

/-- Byte `k` of the string that starts in a register. -/
def stringByte (s : State) (r : Reg) (k : Nat) : Byte := field (gprGet s (r + BitVec.ofNat 5 (k / 4))) (8 * (k % 4)) 8

/-- The pieces of a string put together are its bytes. -/
theorem flatten_pieces (s : State) (r : Reg) (n : Nat) {m : Nat} (hm : m ≤ (n + 3) / 4) :
    ((List.range m).map fun i => (wordBytes (gprGet s (r + BitVec.ofNat 5 i))).take (n - 4 * i)).flatten =
      (List.range (min n (4 * m))).map (stringByte s r) := by
  induction m with
  | zero => simp
  | succ m ih =>
    have whole : min n (4 * m) = 4 * m := by omega
    have more : min n (4 * (m + 1)) = 4 * m + min 4 (n - 4 * m) := by omega
    have last : (wordBytes (gprGet s (r + BitVec.ofNat 5 m))).take (n - 4 * m) =
        (List.range (min 4 (n - 4 * m))).map fun j => stringByte s r (4 * m + j) := by
      have cut : (wordBytes (gprGet s (r + BitVec.ofNat 5 m))).take (n - 4 * m) =
          (wordBytes (gprGet s (r + BitVec.ofNat 5 m))).take (min 4 (n - 4 * m)) := by
        rw [Nat.min_comm, ← List.take_take]
        rfl
      rw [cut, take_wordBytes _ (by omega)]
      refine List.map_congr_left fun j hj => ?_
      have small : j < 4 := by
        have := List.mem_range.mp hj
        omega
      rw [stringByte, show (4 * m + j) / 4 = m by omega, show (4 * m + j) % 4 = j by omega]
    rw [List.range_succ, List.map_append, List.flatten_append, ih (by omega), whole, more, List.range_add, List.map_append,
      List.map_map, List.map_singleton, List.flatten_singleton, last]
    rfl

theorem flatten_stringBytes (s : State) (r : Reg) (n : Nat) :
    (stringBytes s r n).flatten = (List.range n).map (stringByte s r) := by
  rw [stringBytes, flatten_pieces s r n le_rfl, show min n (4 * ((n + 3) / 4)) = n by omega]

theorem stringBytes_small (s : State) (r : Reg) (n : Nat) : ∀ p ∈ stringBytes s r n, p.length ≤ 4096 := by
  intro p hp
  obtain ⟨i, -, rfl⟩ := List.mem_map.mp hp
  have four : (wordBytes (gprGet s (r + BitVec.ofNat 5 i))).length = 4 := rfl
  rw [List.length_take, four]
  omega

/-- The bytes of a string are in memory. -/
theorem peek_string {s : State} (canonical : MemoryCanonical s) (r : Reg) (ea : Word) {n : Nat} (hn : n ≤ 2 ^ 32) {k : Nat}
    (hk : k < n) :
    peek (pokeBytes ((List.range n).map (stringByte s r)) ea s) (ea + BitVec.ofNat 32 k) = stringByte s r k := by
  have length : ((List.range n).map (stringByte s r)).length = n := by simp
  have bytes := bytesAt_pokeBytes ((List.range n).map (stringByte s r)) ea canonical (by omega)
  rw [length] at bytes
  rw [← getElem_bytesAt _ ea n k (by rwa [bytesAt_length])]
  simp only [bytes, List.getElem_map, List.getElem_range]

theorem stmw_pieces (s : State) (rS : Reg) :
    ((regsFrom rS).map fun r => wordBytes (gprGet s r)) = stringBytes s rS (4 * (32 - rS.toNat)) := by
  rw [regsFrom, stringBytes, List.map_map, show (4 * (32 - rS.toNat) + 3) / 4 = 32 - rS.toNat by omega]
  refine List.map_congr_left fun i hi => ?_
  have inside := List.mem_range.mp hi
  exact (List.take_of_length_le (show 4 ≤ _ by omega)).symm

theorem stmw_goes {s : State} (h : PlainData s) (rS rA : Reg) (d : BitVec 16) (aligned : (eaD s rA d).toNat % 4 = 0) :
    ∃ q, exec (.stmw rS d rA) s =
      .next (advance { pokeBytes ((List.range (4 * (32 - rS.toNat))).map (stringByte s rS)) (eaD s rA d) s with storeQueue := q }) := by
  obtain ⟨q, -, e⟩ := plain_storePieces h (stringBytes s rS (4 * (32 - rS.toNat))) (eaD s rA d) (stringBytes_small s rS _)
  refine ⟨q, ?_⟩
  show execStmw rS d rA s = _
  rw [execStmw, multipleCheck_plain h.big aligned, stmw_pieces, e, flatten_stringBytes]
  rfl

/-- A word of a string that starts in a register is that of one of the registers. -/
theorem word_of_string {s t : State} {r : Reg} {ea : Word} {n : Nat}
    (bytes : ∀ k, k < n → peek t (ea + BitVec.ofNat 32 k) = stringByte s r k) {i : Nat} (hi : 4 * i + 4 ≤ n) :
    BitVec.ofNat 32 (valueBig (bytesAt t (ea + BitVec.ofNat 32 (4 * i)) 4)) = gprGet s (r + BitVec.ofNat 5 i) := by
  have word : bytesAt t (ea + BitVec.ofNat 32 (4 * i)) 4 = wordBytes (gprGet s (r + BitVec.ofNat 5 i)) := by
    apply List.ext_getElem
    · rw [bytesAt_length]
      rfl
    · intro j hj hw
      have small : j < 4 := hw
      rw [getElem_bytesAt, getElem_wordBytes, BitVec.add_assoc, ← BitVec.ofNat_add, bytes _ (by omega), stringByte,
        show (4 * i + j) / 4 = i by omega, show (4 * i + j) % 4 = j by omega]
  rw [word, valueBig_wordBytes, BitVec.ofNat_toNat, BitVec.setWidth_eq]

/-- Settles O14. -/
theorem multipleResults : Obligations.MultipleResults := by
  refine ⟨fun s rD rA d plain => ?_, fun s rS rA d plain canonical => ?_⟩
  · intro ea invalid
    have invalid_iff : lmwInvalid rD rA = true ↔ invalid := lmwInvalid_iff rD rA
    refine ⟨fun bad => ⟨.invalidForm "lmw", ?_⟩, fun good aligned => ?_⟩
    · exact if_pos (invalid_iff.mpr bad)
    · have valid : lmwInvalid rD rA = false := Bool.eq_false_iff.mpr (invalid_iff.not.mpr good)
      obtain ⟨t, e, loaded, frame⟩ := lmw_goes plain rD rA d valid aligned
      exact ⟨t, e, multipleLoaded loaded, frame⟩
  · intro ea aligned
    obtain ⟨q, e⟩ := stmw_goes plain rS rA d aligned
    let n := 4 * (32 - rS.toNat)
    have length : ((List.range n).map (stringByte s rS)).length = n := by simp
    have stored := pokeBytes_eq ((List.range n).map (stringByte s rS)) ea s
    refine ⟨_, e, fun r above => ?_, ?_, ?_⟩
    · have reg : rS + BitVec.ofNat 5 (r.toNat - rS.toNat) = r := by bv_omega
      have inside : 4 * (r.toNat - rS.toNat) + 4 ≤ n := by
        have := r.isLt
        omega
      have word := word_of_string (t := pokeBytes ((List.range n).map (stringByte s rS)) ea s)
        (fun k hk => peek_string canonical rS ea (n := n) (by omega) hk) inside
      rw [reg] at word
      exact word
    · have outside := peek_pokeBytes_outside ((List.range n).map (stringByte s rS)) ea canonical
      rw [length] at outside
      exact outside
    · rw [stored]
      rfl

/-! ## The string instructions -/

theorem stringMisaligned_of_fits {ea : Word} {n : Nat} (h : StringFits ea n) : stringMisaligned ea n = false := by
  unfold stringMisaligned
  by_cases empty : n = 0
  · simp [empty]
  · have fits := h empty
    have fields (f : Nat) (x y : Word) (hf : f ≤ 32) (e : x.toNat / 2 ^ (32 - f) = y.toNat / 2 ^ (32 - f)) :
        field x 0 f = field y 0 f := by
      apply BitVec.eq_of_toNat_eq
      rw [field_toNat, field_toNat, Nat.sub_zero, e]
    dsimp only at fits
    by_cases aligned : ea.toNat % 4 = 0
    · rw [if_pos aligned] at fits
      have same : field ea 0 4 = field (lastEa ea n) 0 4 := fields 4 _ _ (by decide) fits
      simp [(wordAligned_iff ea).mpr aligned, same]
    · rw [if_neg aligned] at fits
      have same : pageOf ea = pageOf (lastEa ea n) := fields 20 _ _ (by decide) fits
      have odd : wordAligned ea = false := Bool.eq_false_iff.mpr ((wordAligned_iff ea).not.mpr aligned)
      simp [odd, same]

theorem stringCheck_passed {s : State} (big : msrLe s = false) {ea : Word} {n : Nat} (fits : stringMisaligned ea n = false)
    (dsisr : Word) (k : Out) : stringCheck ea dsisr n s k = k := by
  simp [stringCheck, big, fits]

theorem mem_stringRegs (r q : Reg) (n : Nat) : q ∈ stringRegs r n ↔ (q - r).toNat < (n + 3) / 4 := by
  simp only [stringRegs, List.mem_map, List.mem_range]
  constructor
  · rintro ⟨i, hi, rfl⟩
    have back : (r + BitVec.ofNat 5 i - r).toNat = i % 32 := by bv_omega
    rw [back]
    exact (Nat.mod_le _ _).trans_lt hi
  · intro h
    exact ⟨_, h, by bv_omega⟩

/-- A register that holds no part of the string is unchanged; the bytes of the others are those of the string, or 0. -/
theorem StringLoaded.bytes {s t : State} {r : Reg} {n : Nat} {ea : Word} (h : StringLoaded s t r (stringSizes n) ea) (q : Reg) :
    ((q - r).toNat < (n + 3) / 4 → ∀ j, j < 4 →
      field (gprGet t q) (8 * j) 8 =
        if 4 * (q - r).toNat + j < n then peek s (ea + BitVec.ofNat 32 (4 * (q - r).toNat + j)) else 0) ∧
    (¬ (q - r).toNat < (n + 3) / 4 → gprGet t q = gprGet s q) := by
  have loaded := h q
  refine ⟨fun inside j hj => ?_, fun outside => ?_⟩
  · have place : (q - r).toNat < (stringSizes n).length := by rwa [length_stringSizes]
    rw [dif_pos place, getElem_stringSizes n place, sum_take_stringSizes n inside] at loaded
    rw [loaded, field_highBytes (by rw [bytesAt_length]; omega) hj]
    simp only [bytesAt_length, getElem_bytesAt]
    by_cases short : 4 * (q - r).toNat + j < n
    · rw [dif_pos (by omega), if_pos short, BitVec.add_assoc, ← BitVec.ofNat_add]
    · rw [dif_neg (by omega), if_neg short]
  · have place : ¬ (q - r).toNat < (stringSizes n).length := by rwa [length_stringSizes]
    rwa [dif_neg place] at loaded

/-- The registers written out one by one. -/
theorem gprs_listed (s t : State) : Gprs s t ((List.range 32).map fun r => (BitVec.ofNat 5 r, gprGet t (BitVec.ofNat 5 r))) := by
  intro q
  have listed (l : List Nat) (h : q ∈ l.map (BitVec.ofNat 5)) :
      (l.map fun r => (BitVec.ofNat 5 r, gprGet t (BitVec.ofNat 5 r))).lookup q = some (gprGet t q) := by
    induction l with
    | nil => simp at h
    | cons k l ih =>
      rw [List.map_cons, List.lookup]
      cases e : q == BitVec.ofNat 5 k with
      | true => rw [eq_of_beq e]
      | false =>
        rw [List.map_cons, List.mem_cons] at h
        exact ih (h.resolve_left (ne_of_beq_false e))
  rw [listed _ (List.mem_map.mpr ⟨q.toNat, List.mem_range.mpr q.isLt, by simp⟩)]
  rfl

theorem plain_stringLoadOp {s : State} (h : PlainData s) {ea : Word} (dsisr : Word) {n : Nat} (hn : n ≤ 128) (rD : Reg)
    (rc : Bool) (fits : StringFits ea n) :
    ∃ g, stringLoadOp ea dsisr n rD rc s = .next (advance (recordAny rc { s with gpr := g })) ∧
      StringLoaded s { s with gpr := g } rD (stringSizes n) ea := by
  obtain ⟨g, e, loaded⟩ := plain_stringLoad h rD (stringSizes n) ea (by rw [length_stringSizes]; omega) fun k hk => by
    obtain ⟨i, -, rfl⟩ := List.mem_map.mp hk
    omega
  refine ⟨g, ?_, loaded⟩
  rw [stringLoadOp, stringCheck_passed h.big (stringMisaligned_of_fits fits), e]
  rfl

theorem stringLoad_goes {s : State} (h : PlainData s) {ea : Word} (dsisr : Word) {n : Nat} (hn : n ≤ 128) (rD : Reg)
    (rc : Bool) (fits : StringFits ea n) :
    Goes (stringLoadOp ea dsisr n rD rc s) fun t =>
      (∀ r, (r - rD).toNat < (n + 3) / 4 → ∀ j, j < 4 →
        let k := 4 * (r - rD).toNat + j
        field (gprGet t r) (8 * j) 8 = if k < n then peek s (ea + BitVec.ofNat 32 k) else 0) ∧
      (∀ r, ¬ (r - rD).toNat < (n + 3) / 4 → gprGet t r = gprGet s r) ∧
      LoadOutcome s t ((List.range 32).map fun r => (BitVec.ofNat 5 r, gprGet t (BitVec.ofNat 5 r))) rc := by
  obtain ⟨g, e, loaded⟩ := plain_stringLoadOp h dsisr hn rD rc fits
  have regs (r : Reg) : gprGet (advance (recordAny rc { s with gpr := g })) r = gprGet { s with gpr := g } r := by
    cases rc <;> rfl
  refine ⟨_, e, fun r => ?_, fun r => ?_, ?_⟩
  · rw [regs]
    exact (loaded.bytes r).1
  · rw [regs]
    exact (loaded.bytes r).2
  · simp only [regs]
    exact loadOutcome_of rc (gprs_listed s { s with gpr := g })

theorem lswxInvalid_iff (rD rA rB : Reg) (n : Nat) :
    lswxInvalid rD rA rB n = true ↔
      rD = rA ∨ rD = rB ∨ (rA - rD).toNat < (n + 3) / 4 ∨ (rB - rD).toNat < (n + 3) / 4 := by
  simp only [lswxInvalid, Bool.or_eq_true, beq_iff_eq, List.contains_iff_mem, mem_stringRegs, or_assoc]

theorem xerCount_le (s : State) : xerCount s ≤ 128 := by
  have := (field s.xer 25 7).isLt
  unfold xerCount
  omega

theorem nbCount_le (nb : Reg) : nbCount nb ≤ 128 := by
  have := nb.isLt
  unfold nbCount
  split <;> omega

/-- Settles O15. -/
theorem stringLoadResults : Obligations.StringLoadResults := by
  refine ⟨fun s rD rA rB nb rc plain => ?_, fun s rD rA rB rc big none_ ne_a ne_b => ?_⟩
  · intro filled is n m
    refine ⟨?_, ?_⟩
    · have form : (rA ≠ 0 ∧ rA ∈ stringRegs rD n) ↔ (rA ≠ 0 ∧ filled rA n) :=
        and_congr_right fun _ => mem_stringRegs rD rA n
      split
      · next bad => exact ⟨.invalidForm "lswi", if_pos (form.mpr bad)⟩
      · next good =>
        intro fits
        have run : exec (.lswi rD rA nb rc) s = stringLoadOp (base s rA) (dsisrX 597 rD rA) n rD rc s := if_neg (form.not.mpr good)
        rw [run]
        exact stringLoad_goes plain _ (nbCount_le nb) rD rc fits
    · have form := lswxInvalid_iff rD rA rB m
      split
      · next bad => exact ⟨.invalidForm "lswx", if_pos (form.mpr bad)⟩
      · next good =>
        intro some_ fits
        have run : exec (.lswx rD rA rB rc) s = stringLoadOp (eaX s rA rB) (dsisrX 533 rD rA) m rD rc s :=
          (if_neg (form.not.mpr good)).trans (if_neg (Nat.ne_of_gt some_))
        rw [run]
        exact stringLoad_goes plain _ (xerCount_le s) rD rc fits
  · have count : xerCount s = 0 := by rw [xerCount, none_]; rfl
    have valid : lswxInvalid rD rA rB (xerCount s) = false := by
      simp [lswxInvalid, count, stringRegs, ne_a, ne_b]
    have run : exec (.lswx rD rA rB rc) s =
        .next (advance (recordAny rc (gprSet (fresh 32 s).2 rD (fresh 32 s).1))) := by
      refine (if_neg (by simp [valid])).trans ((if_pos count).trans ?_)
      exact stringCheck_passed big rfl _ _
    have outside : CrOutside s (recordAny rc (gprSet (fresh 32 s).2 rD (fresh 32 s).1)) 0 :=
      recordAny_outside rc (gprSet (fresh 32 s).2 rD (fresh 32 s).1)
    refine ⟨_, run, fun r hr => ?_, outside, fun off => ?_, ?_⟩
    · have same := gprGet_gprSet (fresh 32 s).2 rD r (fresh 32 s).1
      rw [if_neg hr] at same
      cases rc <;> exact same
    · subst off
      rfl
    · cases rc <;> rfl

/-- Settles O16. -/
theorem stringStoreResults : Obligations.StringStoreResults := by
  intro s rS rA rB nb rc plain canonical is
  have stores (ea dsisr : Word) {n : Nat} (hn : n ≤ 128) (fits : StringFits ea n) :
      Goes (stringStoreOp ea dsisr n rS rc s) fun t =>
        (∀ k, k < n → peek t (ea + BitVec.ofNat 32 k) = stringByte s rS k) ∧
        StoreOutcome s t ea n (valueBig (bytesAt t ea n)) [] rc := by
    obtain ⟨q, queue, e⟩ := plain_storePieces plain (stringBytes s rS n) ea (stringBytes_small s rS n)
    let bs := (List.range n).map (stringByte s rS)
    have length : bs.length = n := by simp [bs]
    rw [flatten_stringBytes] at e
    have run : stringStoreOp ea dsisr n rS rc s = .next (advance (recordAny rc { pokeBytes bs ea s with storeQueue := q })) := by
      rw [stringStoreOp, stringCheck_passed plain.big (stringMisaligned_of_fits fits), e]
      rfl
    have written (t : State) (mem : t.mem = (pokeBytes bs ea s).mem) (k : Nat) (hk : k < n) :
        peek t (ea + BitVec.ofNat 32 k) = stringByte s rS k := by
      rw [← peek_string canonical rS ea (by omega) hk, peek, mem]
      rfl
    have outside := peek_pokeBytes_outside bs ea canonical
    rw [length] at outside
    obtain ⟨m, stored⟩ : ∃ m, pokeBytes bs ea s = { s with mem := m } := ⟨_, pokeBytes_eq bs ea s⟩
    rw [stored] at run written outside
    refine ⟨_, run, written _ ?_, ?_⟩
    · cases rc <;> rfl
    · cases rc
      · exact ⟨rfl, outside, gprs_none rfl, fun _ => ⟨rfl, rfl⟩, CrOutside.of_eq rfl 0, queue, rfl⟩
      · exact ⟨rfl, outside, gprs_none rfl, (fun e => nomatch e), recordAny_outside true s, queue, rfl⟩
  exact ⟨fun fits => stores _ _ (nbCount_le nb) fits, fun fits => stores _ _ (xerCount_le s) fits⟩

end Sys2Proof.Machine
end

section
/-! PROOF. O20: the reservation pair. -/

namespace Sys2Proof.Machine

/-! ## `lwarx` -/

theorem plain_reserve {s : State} (h : PlainData s) (pa : Word) : PlainData (reserve pa s) :=
  ⟨⟨h.settled.stale, h.settled.inForce⟩, h.alone, h.real, h.big, h.l1, h.l2, h.test, h.dabr, h.tea, h.devices⟩

theorem plainSpan_first {s : State} (h : PlainData s) (ea : Word) (n : Nat) :
    spanByte (plainSpan ea n) ea ea s = (ea, realWimg) :=
  plain_spanByte h _ _ _ ⟨rfl, rfl⟩ (if_pos rfl)

theorem execLwarx_plain {s : State} (h : PlainData s) (rD rA rB : Reg) (rc : Bool) (aligned : (eaX s rA rB).toNat % 4 = 0) :
    execLwarx rD rA rB rc s =
      .next (advance (recordAny rc (gprSet (reserve (eaX s rA rB) s) rD (zeroed (bytesAt s (eaX s rA rB) 4))))) := by
  have bytes := plain_readList (plain_reserve h (eaX s rA rB)) (ea := eaX s rA rB) (n := 4) (by decide) 4 0 (by decide)
  rw [BitVec.add_zero] at bytes
  have big : msrLe (reserve (eaX s rA rB) s) = false := h.big
  simp only [execLwarx, needsWordAligned_of_aligned aligned, settled_newUse h.settled, plain_dataAccess h .load (by decide),
    finish, plainSpan_first h, bytes, inOrder, big, Bool.false_eq_true, if_false]
  rfl

theorem gprs_recordAny {s u : State} {r : Reg} {v : Word} (h : u.gpr = (gprSet s r v).gpr) (rc : Bool) :
    Gprs s (advance (recordAny rc u)) [(r, v)] :=
  gprs_one (by cases rc <;> exact h)

/-! ## `stwcx.` -/

/-- The bytes of a successful `stwcx.` go where those of a store go. -/
theorem plain_condStoreList {s : State} (h : PlainData s) {ea : Word} {n : Nat} (hn : n ≤ 4096) (bs : List Byte) (j : Nat)
    (hj : j + bs.length ≤ n) :
    condStoreList none (plainSpan ea n) ea (ea + BitVec.ofNat 32 j) bs s =
      writeList (plainSpan ea n) ea (ea + BitVec.ofNat 32 j) bs s := by
  induction bs generalizing s j with
  | nil => rfl
  | cons b bs ih =>
    rw [List.length_cons] at hj
    let pa := ea + BitVec.ofNat 32 j
    have place : spanByte (plainSpan ea n) ea pa s = (pa, realWimg) :=
      plain_spanByte h _ _ _ ⟨rfl, rfl⟩ (plainSpan_page hn (by omega))
    have byte : condStoreByte none pa realWimg b s = writePieceByte (pa, realWimg) ea pa b s := by
      rw [plain_writePieceByte h, ← plain_busWrite h]
      simp [condStoreByte, condStoreL1, condStoreL2, h.l1, h.l2]
    have after : PlainData (writePieceByte (pa, realWimg) ea pa b s) := by
      rw [plain_writePieceByte h]
      exact plain_stored h _ _
    rw [condStoreList, writeList, place, succ_offset]
    dsimp only
    rw [byte]
    exact ih after (j + 1) (by omega)

/-- What a `stwcx.` that stores does to memory. -/
theorem plain_condStore {s : State} (h : PlainData s) (ea : Word) (rS : Reg) (rc : Bool) (held : s.resv.held = true) :
    ∃ q, condStore (plainSpan ea 4) ea rS rc s =
      condEnd rc true { pokeBytes (wordBytes (gprGet s rS)) ea s with storeQueue := q } := by
  have begun : PlainData (beginStore s) := plain_stored h s.mem (enqueueStore [] s.storeQueue)
  obtain ⟨q, -, e⟩ := plain_writeList begun (p := s.storeQueue) (ea := ea) (n := 4) (by decide) (wordBytes (gprGet s rS)) 0
    (Nat.le_refl 4) (enqueueStore_enqueued _ _)
  have listed := plain_condStoreList begun (ea := ea) (n := 4) (by decide) (wordBytes (gprGet s rS)) 0 (Nat.le_refl 4)
  rw [BitVec.add_zero] at e listed
  have way : condStoreWay ea realWimg s = none := by simp [condStoreWay, h.l2]
  have cached : attrI realWimg = false := by decide
  have pushed : condPush none ea realWimg s = s := by simp [condPush, cached, h.l1]
  have bytes : inOrder s (wordBytes (gprGet s rS)) = wordBytes (gprGet s rS) := by simp [inOrder, h.big]
  refine ⟨q, ?_⟩
  simp only [condStore, plainSpan_first h, way, pushed, held, if_true, bytes, listed, e]
  rw [beginStore, pokeBytes_queue]

theorem execStwcxRc_plain {s : State} (h : PlainData s) (rS rA rB : Reg) (rc : Bool)
    (aligned : (eaX s rA rB).toNat % 4 = 0) :
    execStwcxRc rS rA rB rc s =
      if s.resv.held then condStore (plainSpan (eaX s rA rB) 4) (eaX s rA rB) rS rc s else condEnd rc false s := by
  simp only [execStwcxRc, needsWordAligned_of_aligned aligned, settled_newUse h.settled,
    plain_translateSpan h .store (by decide), finish, gap_alone h.alone, dabrCheck, settled_furtherUse h.settled, plain_dabr h,
    Bool.false_eq_true, if_false]

/-- CR0 after a `stwcx.`, and what its end leaves unchanged. -/
theorem condEnd_goes (rc stored : Bool) (s : State) :
    Goes (condEnd rc stored s) fun t =>
      (if rc then CrFieldIs s t 0 ((0 : BitVec 2) ++ ofBit stored ++ ofBit (xerSo s)) ∧ t.freeCtr = s.freeCtr
       else CrOutside s t 0) ∧
      t = { s with
        resv := { s.resv with held := false }, cr := t.cr, freeCtr := t.freeCtr, seen := { s.seen with stored := stored }
        pc := s.pc + 4 } := by
  refine ⟨_, rfl, ?_, ?_⟩
  · cases rc
    · exact recordAny_outside true (unreserve { s with seen := { s.seen with stored := stored } })
    · exact ⟨setCrField_is (unreserve { s with seen := { s.seen with stored := stored } }) 0 _, rfl⟩
  · cases rc <;> rfl

/-- Settles O20. -/
theorem reservationResults : Obligations.ReservationResults := by
  refine ⟨fun s rD rA rB rc plain => ?_, fun s rS rA rB rc plain canonical => ?_⟩
  · intro ea aligned
    refine ⟨_, execLwarx_plain plain rD rA rB rc aligned, ?_, ?_, ?_, fun off => ?_, ?_, ?_⟩
    · rw [← zeroed_eq]
      exact gprs_recordAny rfl rc
    · cases rc <;> rfl
    · have block : (blockOf ea).toNat = ea.toNat / 32 := by
        rw [blockOf, field_toNat]
        have := ea.isLt
        omega
      cases rc <;> exact block
    · subst off
      exact ⟨rfl, rfl⟩
    · exact recordAny_outside rc (gprSet (reserve ea s) rD (zeroed (bytesAt s ea 4)))
    · cases rc <;> rfl
  · intro ea aligned
    have run : exec (.stwcxRc rS rA rB rc) s = if s.resv.held then condStore (plainSpan ea 4) ea rS rc s else condEnd rc false s :=
      execStwcxRc_plain plain rS rA rB rc aligned
    cases held : s.resv.held with
    | true =>
      obtain ⟨q, e⟩ := plain_condStore plain ea rS rc held
      rw [held, if_pos rfl, e] at run
      let bs := wordBytes (gprGet s rS)
      have bytes : bytesAt (pokeBytes bs ea s) ea 4 = bs := bytesAt_pokeBytes bs ea canonical (show 4 ≤ 2 ^ 32 by decide)
      have outside : MemoryOutside s (pokeBytes bs ea s) ea 4 := peek_pokeBytes_outside bs ea canonical
      obtain ⟨m, stored⟩ : ∃ m, pokeBytes bs ea s = { s with mem := m } := ⟨_, pokeBytes_eq bs ea s⟩
      change exec _ s = condEnd rc true { pokeBytes bs ea s with storeQueue := q } at run
      rw [stored] at run bytes outside
      obtain ⟨t, goes, cr, frame⟩ := condEnd_goes rc true { s with mem := m, storeQueue := q }
      have mem : t.mem = m := by rw [frame]
      refine ⟨t, run.trans goes, ⟨?_, ?_⟩, cr, ?_⟩
      · rw [bytesAt_congr (s := { s with mem := m }) mem, bytes, valueBig_wordBytes]
      · intro x hx
        rw [← outside x hx, peek, mem]
        rfl
      · rw [frame]
    | false =>
      rw [held, if_neg Bool.false_ne_true] at run
      obtain ⟨t, goes, cr, frame⟩ := condEnd_goes rc false s
      exact ⟨t, run.trans goes, by rw [frame]; rfl, cr, by rw [frame]⟩

end Sys2Proof.Machine
end

section
/-! PROOF. Floating-point patterns: their classes, and the numbers they stand for. -/

namespace Sys2Proof.Machine

/-! ## Magnitudes -/

/-- The magnitude of a pattern without its sign, in units of the least one; `p` is the number of fraction bits. -/
def magnitude (p n : Nat) : Nat := (n % 2 ^ p + if n / 2 ^ p = 0 then 0 else 2 ^ p) * 2 ^ (max (n / 2 ^ p) 1 - 1)

/-- Below twice the least normalised number the magnitude is the pattern itself. -/
theorem magnitude_of_exp_zero {p n : Nat} (h : n < 2 ^ p) : magnitude p n = n := by
  simp [magnitude, Nat.div_eq_of_lt h, Nat.mod_eq_of_lt h]

theorem magnitude_of_exp {p e f : Nat} (he : e ≠ 0) (hf : f < 2 ^ p) :
    magnitude p (e * 2 ^ p + f) = (f + 2 ^ p) * 2 ^ (e - 1) := by
  have exp : (e * 2 ^ p + f) / 2 ^ p = e := by
    rw [Nat.add_comm, Nat.add_mul_div_right _ _ (by positivity), Nat.div_eq_of_lt hf, Nat.zero_add]
  have frac : (e * 2 ^ p + f) % 2 ^ p = f := by
    rw [Nat.add_comm, Nat.add_mul_mod_self_right, Nat.mod_eq_of_lt hf]
  rw [magnitude, exp, frac, if_neg he, Nat.max_eq_left (by omega)]

theorem magnitude_strictMono (p : Nat) : StrictMono (magnitude p) := by
  apply strictMono_nat_of_lt_succ
  intro n
  have pos : 0 < 2 ^ p := by positivity
  obtain ⟨e, f, hf, rfl⟩ : ∃ e f, f < 2 ^ p ∧ n = e * 2 ^ p + f :=
    ⟨n / 2 ^ p, n % 2 ^ p, Nat.mod_lt _ pos, (Nat.div_add_mod' n _).symm⟩
  rcases Nat.lt_or_ge (f + 1) (2 ^ p) with inside | last
  · rcases Nat.eq_zero_or_pos e with rfl | he
    · rw [Nat.zero_mul, Nat.zero_add, magnitude_of_exp_zero hf, magnitude_of_exp_zero inside]
      exact Nat.lt_succ_self f
    · rw [Nat.add_assoc, magnitude_of_exp he.ne' hf, magnitude_of_exp he.ne' inside]
      exact Nat.mul_lt_mul_of_pos_right (by omega) (by positivity)
  · obtain rfl : f = 2 ^ p - 1 := by omega
    have next : e * 2 ^ p + (2 ^ p - 1) + 1 = (e + 1) * 2 ^ p + 0 := by
      rw [Nat.add_assoc, Nat.sub_add_cancel pos]
      ring
    rw [next, magnitude_of_exp (by omega) pos]
    rcases Nat.eq_zero_or_pos e with rfl | he
    · rw [Nat.zero_mul, Nat.zero_add, magnitude_of_exp_zero hf]
      simp
    · rw [magnitude_of_exp he.ne' hf]
      obtain ⟨e, rfl⟩ : ∃ k, e = k + 1 := ⟨e - 1, by omega⟩
      simp only [Nat.add_sub_cancel, pow_succ 2 e, Nat.zero_add]
      have := Nat.mul_lt_mul_of_pos_right (show 2 ^ p - 1 + 2 ^ p < 2 ^ p * 2 by omega) (show 0 < 2 ^ e by positivity)
      linarith

/-! ## Classes and values of patterns -/

/-- A pattern without its sign. -/
def fpBits (x : DWord) : Nat := (field x 1 63).toNat

theorem fpBits_eq (x : DWord) : fpBits x = fpExp x * 2 ^ 52 + fpFrac x := by
  simp only [fpBits, fpExp, fpFrac, field_toNat]
  omega

theorem fpFrac_lt (x : DWord) : fpFrac x < 2 ^ 52 := (field x 12 52 : BitVec 52).isLt

theorem fpExp_lt (x : DWord) : fpExp x < 2048 := (field x 1 11 : BitVec 11).isLt

theorem fpIsNan_iff (x : DWord) : fpIsNan x = true ↔ isNan x := by
  simp [fpIsNan, isNan, fpExp, fpFrac, ← BitVec.toNat_inj]

theorem fpIsSnan_iff (x : DWord) : fpIsSnan x = true ↔ isSnan x := by
  simp [fpIsSnan, isSnan, fpIsNan_iff]

theorem isFinite_iff (x : DWord) : isFinite x ↔ fpExp x ≠ 2047 := by
  simp [isFinite, fpExp, ← BitVec.toNat_inj]

theorem isFinite_iff_bits (x : DWord) : isFinite x ↔ fpBits x < 2047 * 2 ^ 52 := by
  rw [isFinite_iff, fpBits_eq]
  have := fpFrac_lt x
  have := fpExp_lt x
  omega

/-- The sign and the magnitude of the number a pattern stands for. -/
theorem scaledValue_eq (x : DWord) :
    scaledValue x = (if fpSign x then -1 else 1) * ((magnitude 52 (fpBits x) : Nat) : Int) := by
  have frac := fpFrac_lt x
  have exp : fpBits x / 2 ^ 52 = fpExp x := by
    rw [fpBits_eq]
    omega
  have rest : fpBits x % 2 ^ 52 = fpFrac x := by
    rw [fpBits_eq]
    omega
  rw [magnitude, exp, rest]
  rfl

theorem natAbs_scaledValue (x : DWord) : (scaledValue x).natAbs = magnitude 52 (fpBits x) := by
  rw [scaledValue_eq]
  cases fpSign x <;> simp

/-- The value in the terms of the arithmetic procedure. -/
theorem scaledValue_mant (x : DWord) :
    scaledValue x = (if fpSign x then -1 else 1) * ((fpMant x * 2 ^ (fpPow x + 1074).toNat : Nat) : Int) := by
  have pow : (fpPow x + 1074).toNat = max (fpExp x) 1 - 1 := by
    unfold fpPow
    split <;> omega
  have mant : fpMant x = fpFrac x + if fpExp x = 0 then 0 else 2 ^ 52 := by
    unfold fpMant
    split <;> rfl
  rw [pow, mant]
  rfl

theorem magnitude_eq_zero {p n : Nat} : magnitude p n = 0 ↔ n = 0 := by
  have zero : magnitude p 0 = 0 := magnitude_of_exp_zero (by positivity)
  exact ⟨fun h => (magnitude_strictMono p).injective (h.trans zero.symm), fun h => h ▸ zero⟩

theorem fpIsZero_iff (x : DWord) : fpIsZero x = true ↔ scaledValue x = 0 := by
  rw [← Int.natAbs_eq_zero, natAbs_scaledValue, magnitude_eq_zero, fpBits_eq]
  simp [fpIsZero]

theorem fpIsInf_iff (x : DWord) : fpIsInf x = true ↔ fpBits x = 2047 * 2 ^ 52 := by
  have := fpFrac_lt x
  rw [fpBits_eq]
  simp [fpIsInf]
  omega

/-! ## Patterns put together -/

/-- A pattern of a sign and its other bits. -/
def signed (s : Bool) (n : Nat) : DWord := ofBit s ++ BitVec.ofNat 63 n

theorem fpSign_signed (s : Bool) (n : Nat) : fpSign (signed s n) = s := by
  rw [fpSign, signed, bitAt_append_left _ _ (by decide)]
  cases s <;> rfl

theorem fpBits_signed (s : Bool) {n : Nat} (h : n < 2 ^ 63) : fpBits (signed s n) = n := by
  rw [fpBits, signed, field_append_right _ _ (by decide) (by decide)]
  rw [Nat.sub_self, field_full, BitVec.toNat_ofNat, Nat.mod_eq_of_lt h]

theorem signed_of_bits (x : DWord) : signed (fpSign x) (fpBits x) = x := by
  rw [signed, fpBits, BitVec.ofNat_toNat, BitVec.setWidth_eq, fpSign, ofBit_bitAt x (by decide),
    field_append_field x (by decide), field_full]

/-- A pattern is its sign and its other bits. -/
theorem pattern_ext {x y : DWord} (sign : fpSign x = fpSign y) (bits : fpBits x = fpBits y) : x = y := by
  rw [← signed_of_bits x, ← signed_of_bits y, sign, bits]

/-! ## Numbers packed into patterns -/

theorem scale_of_nonneg (n : Nat) {k : Int} (h : 0 ≤ k) : scale n k = n * 2 ^ k.toNat := by
  rw [scale, if_neg (by omega), Nat.shiftLeft_eq]
  congr 2
  omega

/-- The bits of a number that a pattern holds exactly. -/
structure Packed (s : Bool) (m : Nat) (k : Int) (x : DWord) : Prop where
  sign : fpSign x = s
  below : fpBits x < 2047 * 2 ^ 52
  value : magnitude 52 (fpBits x) = m * 2 ^ (k + 1074).toNat

theorem fpPack_packed (s : Bool) {m : Nat} {k : Int} (hm : m < 2 ^ 53) (low : -1074 ≤ k)
    (high : m * 2 ^ (k + 1074).toNat < 2 ^ 2098) : Packed s m k (fpPack s m k) := by
  unfold fpPack
  by_cases zero : m = 0
  · rw [if_pos zero]
    have bits : fpBits (fpZero s) = 0 := fpBits_signed s (n := 0) (by decide)
    refine ⟨fpSign_signed s 0, by rw [bits]; decide, ?_⟩
    rw [bits, zero, Nat.zero_mul, magnitude_eq_zero]
  · rw [if_neg zero]
    have l : m.log2 < 53 := (Nat.log2_lt zero).mpr hm
    have below : m < 2 ^ (m.log2 + 1) := Nat.lt_log2_self
    have above : 2 ^ m.log2 ≤ m := Nat.log2_self_le zero
    dsimp only
    by_cases normal : k + (m.log2 : Int) ≥ -1022
    · rw [if_pos normal, scale_of_nonneg _ (by omega)]
      obtain ⟨e, he⟩ : ∃ e : Nat, k + (m.log2 : Int) = (e : Int) - 1022 := ⟨(k + m.log2 + 1022).toNat, by omega⟩
      have short : (52 - (m.log2 : Int)).toNat = 52 - m.log2 := by omega
      have exp : (k + (m.log2 : Int) + 1023).toNat = e + 1 := by omega
      rw [short, exp]
      have lower : 2 ^ 52 ≤ m * 2 ^ (52 - m.log2) := by
        calc 2 ^ 52 = 2 ^ m.log2 * 2 ^ (52 - m.log2) := by rw [← pow_add]; congr 1; omega
          _ ≤ m * 2 ^ (52 - m.log2) := Nat.mul_le_mul_right _ above
      have upper : m * 2 ^ (52 - m.log2) < 2 ^ 53 := by
        calc m * 2 ^ (52 - m.log2) < 2 ^ (m.log2 + 1) * 2 ^ (52 - m.log2) := Nat.mul_lt_mul_of_pos_right below (by positivity)
          _ = 2 ^ 53 := by rw [← pow_add]; congr 1; omega
      have place : (k + 1074).toNat = (52 - m.log2) + e := by omega
      have small : e < 2046 := by
        by_contra large
        obtain ⟨B, bound⟩ : ∃ B, B = 2098 := ⟨_, rfl⟩
        rw [← bound] at high
        have exponent : B ≤ m.log2 + (k + 1074).toNat := by
          clear high
          omega
        have large : 2 ^ (m.log2 + (k + 1074).toNat) ≤ m * 2 ^ (k + 1074).toNat := by
          rw [pow_add]
          exact Nat.mul_le_mul_right _ above
        exact absurd high (not_lt.mpr ((Nat.pow_le_pow_right Nat.two_pos exponent).trans large))
      have fits : (e + 1) * 2 ^ 52 + (m * 2 ^ (52 - m.log2) - 2 ^ 52) < 2047 * 2 ^ 52 := by omega
      have bits := fpBits_signed s (n := (e + 1) * 2 ^ 52 + (m * 2 ^ (52 - m.log2) - 2 ^ 52)) (by omega)
      show Packed s m k (signed s _)
      refine ⟨fpSign_signed s _, bits.trans_lt fits, ?_⟩
      rw [bits, magnitude_of_exp (Nat.succ_ne_zero e) (by omega), place, pow_add, ← Nat.mul_assoc,
        Nat.sub_add_cancel lower, Nat.succ_sub_one]
    · rw [if_neg normal, scale_of_nonneg _ (by omega)]
      have small : m * 2 ^ (k + 1074).toNat < 2 ^ 52 := by
        calc m * 2 ^ (k + 1074).toNat < 2 ^ (m.log2 + 1) * 2 ^ (k + 1074).toNat := Nat.mul_lt_mul_of_pos_right below (by positivity)
          _ = 2 ^ (m.log2 + 1 + (k + 1074).toNat) := (pow_add _ _ _).symm
          _ ≤ 2 ^ 52 := Nat.pow_le_pow_right (by decide) (by omega)
      have bits := fpBits_signed s (n := m * 2 ^ (k + 1074).toNat) (by omega)
      show Packed s m k (signed s _)
      refine ⟨fpSign_signed s _, bits.trans_lt (by omega), ?_⟩
      rw [bits, magnitude_of_exp_zero small]

theorem Packed.finite {s : Bool} {m : Nat} {k : Int} {x : DWord} (h : Packed s m k x) : isFinite x :=
  (isFinite_iff_bits x).mpr h.below

theorem Packed.scaled {s : Bool} {m : Nat} {k : Int} {x : DWord} (h : Packed s m k x) :
    scaledValue x = (if s then -1 else 1) * ((m * 2 ^ (k + 1074).toNat : Nat) : Int) := by
  rw [scaledValue_eq, h.sign, h.value]

end Sys2Proof.Machine
end

section
/-! PROOF. O19: singles and the doubles that stand for them. -/

namespace Sys2Proof.Machine

/-! ## The parts of a single -/

def singleExp (w : Word) : Nat := (field w 1 8).toNat
def singleFrac (w : Word) : Nat := (field w 9 23).toNat

theorem singleExp_lt (w : Word) : singleExp w < 256 := (field w 1 8 : BitVec 8).isLt
theorem singleFrac_lt (w : Word) : singleFrac w < 2 ^ 23 := (field w 9 23 : BitVec 23).isLt

/-- A single of a sign, an exponent and a fraction. -/
def singleOf (s : Bool) (e f : Nat) : Word := ofBit s ++ BitVec.ofNat 8 e ++ BitVec.ofNat 23 f

theorem singleOf_sign (s : Bool) (e f : Nat) : bitAt (singleOf s e f) 0 = s := by
  rw [singleOf, bitAt_append_left _ _ (by decide), bitAt_append_left _ _ (by decide), bitAt_ofBit]

theorem singleExp_singleOf (s : Bool) {e : Nat} (f : Nat) (he : e < 256) : singleExp (singleOf s e f) = e := by
  rw [singleExp, singleOf, field_append_left _ _ (by decide), field_append_right _ _ (by decide) (by decide), Nat.sub_self,
    field_full, BitVec.toNat_ofNat, Nat.mod_eq_of_lt he]

theorem singleFrac_singleOf (s : Bool) (e : Nat) {f : Nat} (hf : f < 2 ^ 23) : singleFrac (singleOf s e f) = f := by
  rw [singleFrac, singleOf, field_append_right _ _ (by decide) (by decide), Nat.sub_self, field_full, BitVec.toNat_ofNat,
    Nat.mod_eq_of_lt hf]

theorem singleOf_parts (w : Word) : singleOf (bitAt w 0) (singleExp w) (singleFrac w) = w := by
  rw [singleOf, singleExp, singleFrac, BitVec.ofNat_toNat, BitVec.ofNat_toNat, BitVec.setWidth_eq, BitVec.setWidth_eq,
    ofBit_bitAt w (by decide), field_append_field w (by decide), field_append_field w (by decide), field_full]

/-! ## The double of a single -/

/-- The three bits that widen an exponent. -/
def widening (w : Word) : BitVec 3 :=
  if singleExp w = 0 then 0 else if singleExp w = 255 then 0b111 else if bitAt w 1 then 0b000 else 0b111

/-- A single with its exponent and its fraction widened. -/
def widened (w : Word) : DWord := field w 0 2 ++ widening w ++ field w 2 30 ++ (0 : BitVec 29)

theorem toDouble_eq (w : Word) :
    toDouble w = if singleExp w = 0 ∧ singleFrac w ≠ 0 then fpPack (bitAt w 0) (singleFrac w) (-149) else widened w := by
  unfold toDouble
  simp only [Bool.and_eq_true, decide_eq_true_eq, bne_iff_ne]
  rfl

theorem fpSign_widened (w : Word) : fpSign (widened w) = bitAt w 0 := by
  rw [fpSign, widened, bitAt_append_left _ _ (by decide), bitAt_append_left _ _ (by decide), bitAt_append_left _ _ (by decide),
    bitAt_field w (by decide) (by decide)]

theorem fpFrac_widened (w : Word) : fpFrac (widened w) = singleFrac w * 2 ^ 29 := by
  have parts : field (widened w) 12 52 = field w 9 23 ++ (0 : BitVec 29) := by
    rw [← field_append_field (widened w) (f := 12) (l := 23) (m := 29) (by decide), widened,
      field_append_left _ _ (f := 12) (l := 23) (by decide), field_append_right _ _ (f := 12) (l := 23) (by decide) (by decide),
      field_append_right _ _ (f := 35) (l := 29) (by decide) (by decide), field_field w (by decide) (by decide), field_full]
  rw [fpFrac, parts, BitVec.toNat_append, singleFrac, Nat.shiftLeft_eq]
  simp

theorem fpExp_widened (w : Word) :
    fpExp (widened w) = if singleExp w = 0 then 0 else if singleExp w = 255 then 2047 else singleExp w + 896 := by
  have parts : field (widened w) 1 11 = field w 1 1 ++ widening w ++ field w 2 7 := by
    rw [← field_append_field (widened w) (f := 1) (l := 4) (m := 7) (by decide),
      ← field_append_field (widened w) (f := 1) (l := 1) (m := 3) (by decide), widened]
    rw [field_append_left _ _ (f := 1) (l := 1) (by decide), field_append_left _ _ (f := 1) (l := 1) (by decide),
      field_append_left _ _ (f := 1) (l := 1) (by decide), field_field w (by decide) (by decide)]
    rw [field_append_left _ _ (f := 2) (l := 3) (by decide), field_append_left _ _ (f := 2) (l := 3) (by decide),
      field_append_right _ _ (f := 2) (l := 3) (by decide) (by decide), Nat.sub_self, field_full]
    rw [field_append_left _ _ (f := 5) (l := 7) (by decide), field_append_right _ _ (f := 5) (l := 7) (by decide) (by decide),
      field_field w (by decide) (by decide)]
  have exp : singleExp w = (field w 1 1 : BitVec 1).toNat * 128 + (field w 2 7 : BitVec 7).toNat := by
    rw [singleExp, field_toNat, field_toNat, field_toNat]
    omega
  have top : bitAt w 1 = decide ((field w 1 1 : BitVec 1).toNat = 1) := by
    rw [← ofBit_bitAt w (by decide)]
    cases bitAt w 1 <;> rfl
  have low : (field w 2 7 : BitVec 7).toNat < 128 := (field w 2 7 : BitVec 7).isLt
  have one : (field w 1 1 : BitVec 1).toNat < 2 := (field w 1 1 : BitVec 1).isLt
  have number : fpExp (widened w) = ((field w 1 1 : BitVec 1).toNat * 8 + (widening w).toNat) * 128 + (field w 2 7 : BitVec 7).toNat := by
    rw [fpExp, parts, BitVec.toNat_append, BitVec.toNat_append, ← Nat.shiftLeft_add_eq_or_of_lt (by exact low),
      ← Nat.shiftLeft_add_eq_or_of_lt (widening w).isLt, Nat.shiftLeft_eq, Nat.shiftLeft_eq]
  rw [number]
  unfold widening
  rw [top]
  have none_set : (0 : BitVec 3).toNat = 0 := rfl
  have all_set : (0b111 : BitVec 3).toNat = 7 := rfl
  split_ifs with zero all set
  · omega
  · omega
  · have := of_decide_eq_true set
    have : (0b000 : BitVec 3).toNat = 0 := rfl
    omega
  · have : (field w 1 1 : BitVec 1).toNat ≠ 1 := by simpa using set
    omega

/-! ## The value of a single -/

/-- A single without its sign. -/
def singleBits (w : Word) : Nat := singleExp w * 2 ^ 23 + singleFrac w

theorem toDouble_denormal {w : Word} (he : singleExp w = 0) (hf : singleFrac w ≠ 0) :
    Packed (bitAt w 0) (singleFrac w) (-149) (toDouble w) := by
  have small := singleFrac_lt w
  rw [toDouble_eq, if_pos ⟨he, hf⟩]
  refine fpPack_packed _ (by omega) (by decide) ?_
  have : singleFrac w * 2 ^ 925 < 2 ^ 23 * 2 ^ 925 := Nat.mul_lt_mul_of_pos_right small (by positivity)
  exact this.trans_le (by rw [← pow_add]; exact Nat.pow_le_pow_right (by decide) (by decide))

theorem magnitude_toDouble_denormal {w : Word} (he : singleExp w = 0) (hf : singleFrac w ≠ 0) :
    magnitude 52 (fpBits (toDouble w)) = singleFrac w * 2 ^ 925 := by
  rw [(toDouble_denormal he hf).value]
  congr 2

theorem toDouble_widened {w : Word} (h : singleExp w ≠ 0 ∨ singleFrac w = 0) : toDouble w = widened w := by
  rw [toDouble_eq, if_neg (by tauto)]

theorem fpSign_toDouble (w : Word) : fpSign (toDouble w) = bitAt w 0 := by
  by_cases h : singleExp w = 0 ∧ singleFrac w ≠ 0
  · exact (toDouble_denormal h.1 h.2).sign
  · rw [toDouble_widened (by tauto), fpSign_widened]

theorem fpBits_toDouble_normal {w : Word} (h : singleExp w ≠ 0) :
    fpBits (toDouble w) = (if singleExp w = 255 then 2047 else singleExp w + 896) * 2 ^ 52 + singleFrac w * 2 ^ 29 := by
  rw [toDouble_widened (.inl h), fpBits_eq, fpExp_widened, fpFrac_widened, if_neg h]

/-- The magnitude of a finite single; the singles' unit is `2 ^ 925` of the doubles'. -/
theorem magnitude_toDouble {w : Word} (h : singleExp w ≠ 255) :
    magnitude 52 (fpBits (toDouble w)) = magnitude 23 (singleBits w) * 2 ^ 925 := by
  have small := singleFrac_lt w
  unfold singleBits
  rcases Nat.eq_zero_or_pos (singleExp w) with he | he
  · rw [he, Nat.zero_mul, Nat.zero_add, magnitude_of_exp_zero small]
    rcases Nat.eq_zero_or_pos (singleFrac w) with hf | hf
    · rw [toDouble_widened (.inr hf), fpBits_eq, fpExp_widened, fpFrac_widened, hf, if_pos he, Nat.zero_mul, Nat.zero_mul]
      simp only [Nat.zero_mul, Nat.add_zero]
      exact magnitude_of_exp_zero (by positivity)
    · exact magnitude_toDouble_denormal he hf.ne'
  · rw [fpBits_toDouble_normal he.ne', if_neg h, magnitude_of_exp (by omega) (by omega), magnitude_of_exp he.ne' small]
    obtain ⟨e, he⟩ : ∃ e, singleExp w = e + 1 := ⟨singleExp w - 1, by omega⟩
    have units : (2 : Nat) ^ 925 = 2 ^ 896 * 2 ^ 29 := by rw [← pow_add]
    rw [he, show e + 1 + 896 - 1 = e + 896 by omega, Nat.add_sub_cancel, pow_add 2 e, units]
    generalize (2 : Nat) ^ 896 = u
    ring

theorem isNan_toDouble (w : Word) : fpIsNan (toDouble w) = true ↔ singleExp w = 255 ∧ singleFrac w ≠ 0 := by
  have exp : singleExp w < 256 := singleExp_lt w
  have frac := singleFrac_lt w
  have notFinite : fpIsNan (toDouble w) = true ↔ 2047 * 2 ^ 52 < fpBits (toDouble w) := by
    have := fpFrac_lt (toDouble w)
    have := fpExp_lt (toDouble w)
    rw [fpBits_eq]
    simp only [fpIsNan, Bool.and_eq_true, beq_iff_eq, bne_iff_ne]
    omega
  rw [notFinite]
  by_cases h : singleExp w = 0 ∧ singleFrac w ≠ 0
  · have := (toDouble_denormal h.1 h.2).below
    omega
  · rcases Nat.eq_zero_or_pos (singleExp w) with he | he
    · rw [toDouble_widened (by tauto), fpBits_eq, fpExp_widened, fpFrac_widened, if_pos he]
      omega
    · rw [fpBits_toDouble_normal he.ne']
      split <;> omega

/-- Where the exponent and the significand of a denormalised single stand in its double. -/
theorem denormal_parts {x : DWord} {f : Nat} (hf : f ≠ 0) (small : f < 2 ^ 23)
    (value : magnitude 52 (fpBits x) = f * 2 ^ 925) :
    874 ≤ fpExp x ∧ fpExp x ≤ 896 ∧ fpMant x = f * 2 ^ (926 - fpExp x) := by
  have frac := fpFrac_lt x
  have exp : fpExp x ≠ 0 := by
    intro zero
    rw [fpBits_eq, zero, Nat.zero_mul, Nat.zero_add, magnitude_of_exp_zero frac] at value
    have : 2 ^ 925 ≤ f * 2 ^ 925 := Nat.le_mul_of_pos_left _ (Nat.pos_of_ne_zero hf)
    have : (2 : Nat) ^ 52 < 2 ^ 925 := Nat.pow_lt_pow_right (by decide) (by decide)
    omega
  rw [fpBits_eq, magnitude_of_exp exp frac] at value
  have mant : fpMant x = fpFrac x + 2 ^ 52 := if_neg exp
  rw [← mant] at value
  have above : 2 ^ (52 + (fpExp x - 1)) ≤ f * 2 ^ 925 := by
    rw [← value, pow_add]
    exact Nat.mul_le_mul_right _ (by omega)
  have below : f * 2 ^ 925 < 2 ^ (53 + (fpExp x - 1)) := by
    rw [← value, pow_add]
    exact Nat.mul_lt_mul_of_pos_right (by omega) (by positivity)
  have top : 52 + (fpExp x - 1) < 23 + 925 :=
    (Nat.pow_lt_pow_iff_right (by decide)).mp (above.trans_lt (by rw [pow_add]; exact Nat.mul_lt_mul_of_pos_right small (by positivity)))
  have bottom : 925 < 53 + (fpExp x - 1) :=
    (Nat.pow_lt_pow_iff_right (by decide)).mp ((Nat.le_mul_of_pos_left _ (Nat.pos_of_ne_zero hf)).trans_lt below)
  refine ⟨by omega, by omega, ?_⟩
  have split : (2 : Nat) ^ 925 = 2 ^ (926 - fpExp x) * 2 ^ (fpExp x - 1) := by
    rw [← pow_add]
    congr 1
    omega
  rw [split, ← Nat.mul_assoc] at value
  exact Nat.eq_of_mul_eq_mul_right (by positivity) value

theorem toSingle_toDouble (w : Word) : toSingle (toDouble w) = w := by
  by_cases h : singleExp w = 0 ∧ singleFrac w ≠ 0
  · obtain ⟨he, hf⟩ := h
    have packed := toDouble_denormal he hf
    obtain ⟨low, high, mant⟩ := denormal_parts hf (singleFrac_lt w) (magnitude_toDouble_denormal he hf)
    have notZero : ¬ (field (toDouble w) 1 63 == 0) = true := by
      have : fpBits (toDouble w) ≠ 0 := by
        rw [fpBits_eq]
        omega
      simpa [fpBits, ← BitVec.toNat_inj] using this
    unfold toSingle
    dsimp only
    rw [if_neg (by simp only [Bool.or_eq_true, decide_eq_true_eq]; exact not_or.mpr ⟨by omega, notZero⟩), if_pos low, mant,
      show 29 + (897 - fpExp (toDouble w)) = 926 - fpExp (toDouble w) by omega, Nat.shiftRight_eq_div_pow,
      Nat.mul_div_cancel _ (by positivity)]
    have sign : bitAt (toDouble w) 0 = bitAt w 0 := packed.sign
    rw [sign]
    calc _ = singleOf (bitAt w 0) 0 (singleFrac w) := rfl
      _ = w := by conv_rhs => rw [← singleOf_parts w, he]
  · rw [toDouble_widened (by tauto)]
    have copied : (decide (fpExp (widened w) > 896) || field (widened w) 1 63 == 0) = true := by
      rw [Bool.or_eq_true, decide_eq_true_eq, beq_iff_eq]
      rw [fpExp_widened]
      rcases Nat.eq_zero_or_pos (singleExp w) with he | he
      · right
        have hf : singleFrac w = 0 := by tauto
        have : fpBits (widened w) = 0 := by rw [fpBits_eq, fpExp_widened, fpFrac_widened, he, hf]; rfl
        rwa [← BitVec.toNat_inj]
      · left
        split_ifs <;> omega
    unfold toSingle
    dsimp only
    rw [if_pos copied]
    have front : field (widened w) 0 2 = field w 0 2 := by
      rw [widened, field_append_left _ _ (by decide), field_append_left _ _ (by decide), field_append_left _ _ (by decide),
        field_full]
    have back : field (widened w) 5 30 = field w 2 30 := by
      rw [widened, field_append_left _ _ (by decide), field_append_right _ _ (by decide) (by decide), Nat.sub_self, field_full]
    rw [front, back, field_append_field w (by decide), field_full]

/-- Settles O19, by the value of the packed pattern for a denormalised single, and by the places of the fields else. -/
theorem singleFormats : Obligations.SingleFormats := by
  unfold Obligations.SingleFormats
  intro w
  have exp (n : BitVec 8) : field w 1 8 = n ↔ singleExp w = n.toNat := by rw [singleExp, BitVec.toNat_inj]
  have frac : field w 9 23 = 0 ↔ singleFrac w = 0 := by rw [singleFrac, ← BitVec.toNat_inj]; rfl
  refine ⟨toSingle_toDouble w, ?_, fun finite => ?_⟩
  · rw [isNan_toDouble, exp]
    exact and_congr_right fun _ => (not_congr frac).symm
  · have notAll : singleExp w ≠ 255 := fun h => finite ((exp 255).mpr h)
    have small := singleFrac_lt w
    rw [scaledValue_eq, fpSign_toDouble, magnitude_toDouble notAll]
    have exponent : singleBits w / 2 ^ 23 = singleExp w := by
      unfold singleBits
      omega
    have rest : singleBits w % 2 ^ 23 = singleFrac w := by
      unfold singleBits
      omega
    rw [magnitude, exponent, rest]
    rfl

/-! ## Which doubles stand for singles -/

theorem singleOf_double {s : Bool} {e f : Nat} (he : e ≠ 0) (small : e < 256) (hf : f < 2 ^ 23) {x : DWord}
    (sign : fpSign x = s) (exp : fpExp x = if e = 255 then 2047 else e + 896) (frac : fpFrac x = f * 2 ^ 29) :
    x = toDouble (singleOf s e f) := by
  have parts : singleExp (singleOf s e f) = e := singleExp_singleOf s f small
  refine pattern_ext (by rw [fpSign_toDouble, singleOf_sign, sign]) ?_
  rw [fpBits_toDouble_normal (by rw [parts]; exact he), parts, singleFrac_singleOf s e hf, fpBits_eq, exp, frac]

theorem singleOf_bits {s : Bool} {e f : Nat} (he : e < 256) (hf : f < 2 ^ 23) :
    singleBits (singleOf s e f) = e * 2 ^ 23 + f := by
  rw [singleBits, singleExp_singleOf s f he, singleFrac_singleOf s e hf]

/-- A pattern with the magnitude of a finite single is that single's double. -/
theorem isSingle_of_magnitude {x : DWord} {j : Nat} (h : j < 255 * 2 ^ 23)
    (value : magnitude 52 (fpBits x) = magnitude 23 j * 2 ^ 925) :
    x = toDouble (singleOf (fpSign x) (j / 2 ^ 23) (j % 2 ^ 23)) := by
  have frac : j % 2 ^ 23 < 2 ^ 23 := Nat.mod_lt _ (by decide)
  have exp : j / 2 ^ 23 < 255 := by omega
  have bits := singleOf_bits (s := fpSign x) (show j / 2 ^ 23 < 256 by omega) frac
  have notAll : singleExp (singleOf (fpSign x) (j / 2 ^ 23) (j % 2 ^ 23)) ≠ 255 := by
    rw [singleExp_singleOf _ _ (by omega)]
    omega
  refine pattern_ext (by rw [fpSign_toDouble, singleOf_sign]) ((magnitude_strictMono 52).injective ?_)
  rw [magnitude_toDouble notAll, bits, Nat.div_add_mod', value]

/-- The magnitudes of the finite singles. -/
theorem isSingle_iff_magnitude {x : DWord} (finite : isFinite x) :
    isSingle x ↔ ∃ j < 255 * 2 ^ 23, magnitude 52 (fpBits x) = magnitude 23 j * 2 ^ 925 := by
  constructor
  · rintro ⟨w, rfl⟩
    have exp := singleExp_lt w
    have frac := singleFrac_lt w
    have notAll : singleExp w ≠ 255 := by
      intro all
      rw [isFinite_iff_bits, fpBits_toDouble_normal (by omega), if_pos all] at finite
      omega
    exact ⟨singleBits w, by unfold singleBits; omega, magnitude_toDouble notAll⟩
  · rintro ⟨j, small, value⟩
    exact ⟨_, isSingle_of_magnitude small value⟩

theorem fpMant_of_exp {x : DWord} (h : fpExp x ≠ 0) : fpMant x = fpFrac x + 2 ^ 52 := if_neg h

theorem fpFrac_mod_of_low {x : DWord} : (field x 35 29 : BitVec 29) = 0 ↔ fpFrac x % 2 ^ 29 = 0 := by
  rw [← BitVec.toNat_inj, fpFrac, field_toNat, field_toNat, show (0 : BitVec 29).toNat = 0 from rfl]
  omega

theorem fpSingleRep_nan {x : DWord} (nan : fpIsNan x = true) : fpSingleRep x = true ↔ fpFrac x % 2 ^ 29 = 0 := by
  rw [fpSingleRep, if_pos nan, beq_iff_eq]
  exact fpFrac_mod_of_low

theorem fpSingleRep_number {x : DWord} (nan : ¬ fpIsNan x = true) (special : ¬ (fpIsInf x || fpIsZero x) = true) :
    fpSingleRep x = true ↔ (874 ≤ fpExp x ∧ fpExp x ≤ 1150) ∧
      fpMant x % 2 ^ (if fpExp x ≥ 897 then 29 else 29 + (897 - fpExp x)) = 0 := by
  rw [fpSingleRep, if_neg nan, if_neg special]
  simp only [Bool.and_eq_true, decide_eq_true_eq, beq_iff_eq]
  tauto

/-- The model's test of a single is the existence of one. -/
theorem fpSingleRep_iff (x : DWord) : fpSingleRep x = true ↔ isSingle x := by
  constructor
  · intro rep
    have frac := fpFrac_lt x
    have whole (exp : 897 ≤ fpExp x) (top : fpExp x = 2047 ∨ fpExp x ≤ 1150) (low : fpFrac x % 2 ^ 29 = 0) : isSingle x := by
      refine ⟨_, singleOf_double (s := fpSign x) (e := if fpExp x = 2047 then 255 else fpExp x - 896) (f := fpFrac x / 2 ^ 29)
        ?_ ?_ (by omega) rfl ?_ (by omega)⟩ <;> split_ifs <;> omega
    by_cases nan : fpIsNan x = true
    · have both : fpExp x = 2047 ∧ fpFrac x ≠ 0 := by simpa [fpIsNan] using nan
      exact whole (by omega) (.inl both.1) ((fpSingleRep_nan nan).mp rep)
    by_cases special : (fpIsInf x || fpIsZero x) = true
    · rcases (Bool.or_eq_true _ _).mp special with inf | zero
      · have both : fpExp x = 2047 ∧ fpFrac x = 0 := by simpa [fpIsInf] using inf
        exact whole (by omega) (.inl both.1) (by omega)
      · have both : fpExp x = 0 ∧ fpFrac x = 0 := by simpa [fpIsZero] using zero
        have finite : isFinite x := by
          rw [isFinite_iff]
          omega
        refine (isSingle_iff_magnitude finite).mpr ⟨0, by decide, ?_⟩
        rw [fpBits_eq, both.1, both.2, Nat.zero_mul, magnitude_eq_zero.mpr rfl, magnitude_eq_zero.mpr rfl, Nat.zero_mul]
    · obtain ⟨⟨low, high⟩, unit⟩ := (fpSingleRep_number nan special).mp rep
      rw [fpMant_of_exp (x := x) (by omega)] at unit
      split_ifs at unit with normal
      · exact whole normal (.inr high) (by omega)
      · have finite : isFinite x := by
          rw [isFinite_iff]
          omega
        obtain ⟨f, hf⟩ : ∃ f, fpFrac x + 2 ^ 52 = 2 ^ (29 + (897 - fpExp x)) * f := Nat.dvd_of_mod_eq_zero unit
        have small : f < 2 ^ 23 := by
          by_contra large
          have : 2 ^ (29 + (897 - fpExp x)) * 2 ^ 23 ≤ 2 ^ (29 + (897 - fpExp x)) * f := Nat.mul_le_mul_left _ (by omega)
          have : 2 ^ 53 ≤ 2 ^ (29 + (897 - fpExp x)) * 2 ^ 23 := by
            rw [← pow_add]
            exact Nat.pow_le_pow_right (by decide) (by omega)
          omega
        refine (isSingle_iff_magnitude finite).mpr ⟨f, by omega, ?_⟩
        have units : (2 : Nat) ^ 925 = 2 ^ (29 + (897 - fpExp x)) * 2 ^ (fpExp x - 1) := by
          rw [← pow_add]
          congr 1
          omega
        rw [fpBits_eq, magnitude_of_exp (by omega) frac, magnitude_of_exp_zero small, hf, units, Nat.mul_comm _ f, Nat.mul_assoc]
  · rintro ⟨w, rfl⟩
    have small := singleFrac_lt w
    have exp256 := singleExp_lt w
    by_cases denormal : singleExp w = 0 ∧ singleFrac w ≠ 0
    · obtain ⟨low, high, mant⟩ := denormal_parts denormal.2 small (magnitude_toDouble_denormal denormal.1 denormal.2)
      have nan : ¬ fpIsNan (toDouble w) = true := by
        simp [fpIsNan]
        omega
      have special : ¬ (fpIsInf (toDouble w) || fpIsZero (toDouble w)) = true := by
        simp [fpIsInf, fpIsZero]
        omega
      rw [fpSingleRep_number nan special, if_neg (by omega), mant,
        show 29 + (897 - fpExp (toDouble w)) = 926 - fpExp (toDouble w) by omega, Nat.mul_mod_left]
      omega
    · have exp := fpExp_widened w
      have frac := fpFrac_widened w
      rw [toDouble_widened (by tauto)]
      by_cases nan : fpIsNan (widened w) = true
      · rw [fpSingleRep_nan nan, frac, Nat.mul_mod_left]
      by_cases special : (fpIsInf (widened w) || fpIsZero (widened w)) = true
      · rw [fpSingleRep, if_neg nan, if_pos special]
      · have number : singleExp w ≠ 0 ∧ singleExp w ≠ 255 := by
          simp only [fpIsNan, fpIsInf, fpIsZero, Bool.and_eq_true, Bool.or_eq_true, beq_iff_eq, bne_iff_ne, exp, frac] at nan special
          split_ifs at nan special <;> omega
        rw [if_neg number.1, if_neg number.2] at exp
        rw [fpSingleRep_number nan special, fpMant_of_exp (by omega), frac, if_pos (by omega)]
        omega

end Sys2Proof.Machine
end

section
/-! PROOF. O38, O40: how floating-point instructions end; the moves, and the instructions on the FPSCR. -/

namespace Sys2Proof.Machine

/-! ## The end of an instruction that writes the FPSCR -/

theorem FpEnds.mono {s : State} {o : Out} {P Q : State → Prop} (h : FpEnds s o P) (k : ∀ t, P t → Q t) : FpEnds s o Q := by
  refine ⟨fun off => (h.1 off).mono k, fun on => ?_⟩
  obtain ⟨u, hu, rest⟩ := h.2 on
  exact ⟨u, k u hu, rest⟩

/-- The entry of an exception does not see the address of the next instruction. -/
theorem Entered.of_advance {s t : State} {vec a info : Word} (h : Entered s t vec a info) : Entered (advance s) t vec a info :=
  ⟨h.srr0, h.srr1, h.msr, h.pc, h.frame⟩

/-- The end of an instruction without a record (R602, R948). -/
theorem fpEnd_unrecorded {s u : State} {P : State → Prop} (pc : u.pc = s.pc) (fe : msrFe u = msrFe s) (h : P (advance u)) :
    FpEnds s (fpEnd false u) P := by
  have entered : Entered (advance u) (takeFpEnabled u) 0x700 s.pc 0x00100000 := pc ▸ (takeFpEnabled_entered u).of_advance
  have ends : fpEnd false u = if msrFe u && bitAt u.fpscr 1 then .next (takeFpEnabled u) else nextInstr u := rfl
  rw [ends, fe]
  refine ⟨fun off => ⟨_, by rw [off, Bool.false_and]; rfl, h⟩, fun on => ⟨_, h, ?_⟩⟩
  rw [on, Bool.true_and]
  show if bitAt u.fpscr 1 then _ else _
  cases bitAt u.fpscr 1
  · rfl
  · exact ⟨_, rfl, entered⟩

theorem fpEnd_ends {s u : State} {P : State → Prop} (rc : Bool) (pc : u.pc = s.pc) (fe : msrFe u = msrFe s)
    (h : P (advance (recordFp rc u))) : FpEnds s (fpEnd rc u) P := by
  cases rc
  · exact fpEnd_unrecorded pc fe h
  · exact fpEnd_unrecorded (u := recordFp true u) pc fe h

/-! ## CR1 -/

theorem recordFp_cr (rc : Bool) (u : State) :
    if rc then CrFieldIs u (recordFp rc u) 1 (field u.fpscr 0 4) else (recordFp rc u).cr = u.cr := by
  cases rc
  · rfl
  · exact setCrField_is u 1 _

theorem recordFp_frame (rc : Bool) (u : State) : recordFp rc u = { u with cr := (recordFp rc u).cr } := by
  cases rc <;> rfl

/-- What was recorded, read in states that agree with these in their CR. -/
theorem recorded_congr {s t s' t' : State} {rc : Bool} {v : BitVec 4} (before : s'.cr = s.cr) (after : t'.cr = t.cr)
    (h : if rc then CrFieldIs s t 1 v else t.cr = s.cr) : if rc then CrFieldIs s' t' 1 v else t'.cr = s'.cr := by
  cases rc
  · exact after.trans (h.trans before.symm)
  · intro m
    rw [crField_congr after, crField_congr before]
    exact h m

/-! ## The moves -/

theorem fpMove_goes {s : State} (frD : Reg) {v w : DWord} (rc : Bool) (value : v = w) :
    Goes (nextInstr (recordFp rc (fprSet s frD v))) fun t => FpMoveOutcome s t frD w rc := by
  subst value
  refine ⟨_, rfl, ?_⟩
  have frame := recordFp_frame rc (fprSet s frD v)
  have record := recordFp_cr rc (fprSet s frD v)
  generalize recordFp rc (fprSet s frD v) = t at frame record
  have fpr : ∀ q, fprGet t q = if q = frD then v else fprGet s q := by
    intro q
    rw [frame]
    exact fprGet_fprSet s frD q v
  have ready : ∀ q, fprReady t q = (q == frD || fprReady s q) := by
    intro q
    rw [frame]
    exact fprReady_fprSet s frD q v
  refine ⟨fun q => ?_, ready, recorded_congr rfl rfl record, ?_⟩
  · refine (fpr q).trans ?_
    by_cases h : q = frD
    · subst h
      simp
    · simp [h, List.lookup, beq_false_of_ne h]
  · rw [frame]
    rfl

/-- A pattern with another sign. -/
theorem pattern_sign {b x : DWord} {sign : Bool} (first : bitAt x 0 = sign) (others : ∀ k, 0 < k → k < 64 → bitAt x k = bitAt b k) :
    x = ofBit sign ++ field b 1 63 := by
  apply eq_of_bitAt
  intro k hk
  rcases Nat.eq_zero_or_pos k with rfl | pos
  · rw [bitAt_append_left _ _ (by decide), bitAt_ofBit, first]
  · rw [bitAt_append_right _ _ pos, bitAt_field b (by decide) (by omega), others k pos hk]
    congr 1
    omega

/-- The bits of the two masks of a sign. -/
theorem bitAt_signMask {k : Nat} (hk : k < 64) : bitAt (0x8000000000000000 : DWord) k = decide (k = 0) := by
  revert k
  decide

theorem bitAt_otherMask {k : Nat} (hk : k < 64) : bitAt (0x7FFFFFFFFFFFFFFF : DWord) k = decide (k ≠ 0) := by
  revert k
  decide

/-- What `fsel` asks is the sign of the number. -/
theorem fsel_takes {a : DWord} (number : ¬ isNan a) :
    (!fpIsNan a && (fpIsZero a || !fpSign a)) = decide (0 ≤ scaledValue a) := by
  have nan : fpIsNan a = false := by
    rw [← Bool.not_eq_true, fpIsNan_iff]
    exact number
  rw [nan, Bool.not_false, Bool.true_and, Bool.eq_iff_iff, Bool.or_eq_true, fpIsZero_iff, decide_eq_true_eq, scaledValue_eq]
  cases fpSign a <;> simp

/-- Settles O38, by what a write of one register leaves, and the bits of the sign masks. -/
theorem floatMoveResults : Obligations.FloatMoveResults := by
  unfold Obligations.FloatMoveResults
  intro s frD frA frB frC rc fp
  have goes {o : Out} {v w : DWord} (is : o = needsFp s (nextInstr (recordFp rc (fprSet s frD v)))) (value : v = w) :
      Goes o fun t => FpMoveOutcome s t frD w rc := by
    rw [is, needsFp_of_fp fp]
    exact fpMove_goes frD rc value
  refine ⟨goes rfl rfl, goes rfl (pattern_sign ?_ ?_), goes rfl (pattern_sign ?_ ?_), goes rfl (pattern_sign ?_ ?_), ?_, ?_⟩
  · rw [fpNegate, bitAt_xor, bitAt_signMask (by decide)]
    simp
  · intro k pos hk
    rw [fpNegate, bitAt_xor, bitAt_signMask hk]
    simp [pos.ne']
  · rw [bitAt_and, bitAt_otherMask (by decide)]
    simp
  · intro k pos hk
    rw [bitAt_and, bitAt_otherMask hk]
    simp [pos.ne']
  · rw [bitAt_or, bitAt_signMask (by decide)]
    simp
  · intro k pos hk
    rw [bitAt_or, bitAt_signMask hk]
    simp [pos.ne']
  · intro number above
    exact goes rfl (if_pos (by rw [fsel_takes number]; exact decide_eq_true above))
  · intro below
    refine goes rfl (if_neg ?_)
    rcases below with nan | negative
    · simp [(fpIsNan_iff _).mpr nan]
    · have notNan : ¬ isNan (fprGet s frA) ∨ isNan (fprGet s frA) := (em _).symm
      rcases notNan with number | nan
      · rw [fsel_takes number, decide_eq_true_eq]
        exact not_le.mpr negative
      · simp [(fpIsNan_iff _).mpr nan]

/-! ## The instructions on the FPSCR -/

/-- What an instruction that only writes the FPSCR, and CR1 with `rc`, leaves. -/
structure FpscrWritten (s t : State) (rc : Bool) (f : Word) : Prop where
  fpscr : t.fpscr = fpSummary f
  record : if rc then CrFieldIs s t 1 (field t.fpscr 0 4) else t.cr = s.cr
  frame : t = { s with fpscr := t.fpscr, cr := t.cr, pc := s.pc + 4 }

theorem fpscrWrite_ends (s : State) (rc : Bool) (f : Word) :
    FpEnds s (fpEnd rc { s with fpscr := fpSummary f }) fun t => FpscrWritten s t rc f := by
  refine fpEnd_ends rc rfl rfl ?_
  have frame := recordFp_frame rc { s with fpscr := fpSummary f }
  have record := recordFp_cr rc { s with fpscr := fpSummary f }
  generalize recordFp rc { s with fpscr := fpSummary f } = t at frame record
  have fpscr : t.fpscr = fpSummary f := by rw [frame]
  refine ⟨fpscr, ?_, ?_⟩
  · show if rc then CrFieldIs s (advance t) 1 (field t.fpscr 0 4) else _
    rw [fpscr]
    exact recorded_congr rfl rfl record
  · rw [frame]
    rfl

theorem fpSummary_legal {s : State} {f : Word} (h : s.fpscr = fpSummary f) : FpscrLegal s := by
  rw [FpscrLegal, h, fpSummary_idem]

/-- The bits an instruction wrote, but for the summary bits, are those of the value it built. -/
theorem FpscrWritten.writes {s t : State} {rc : Bool} {f : Word} (h : FpscrWritten s t rc f) {P : Nat → Prop}
    (bits : ∀ k, k < 32 → bitAt t.fpscr k = bitAt f k → P k) :
    FpscrLegal t ∧ (∀ k, k < 32 → k ≠ 1 → k ≠ 2 → k ≠ 20 → P k) ∧
      (if rc then CrFieldIs s t 1 (field t.fpscr 0 4) else t.cr = s.cr) ∧
      t = { s with fpscr := t.fpscr, cr := t.cr, pc := s.pc + 4 } := by
  refine ⟨fpSummary_legal h.fpscr, fun k hk fex vx reserved => bits k hk ?_, h.record, h.frame⟩
  rw [h.fpscr, bitAt_fpSummary_other f hk ⟨fex, vx, reserved⟩]

/-- The bits `mtfsb1` sets FX for, and those `mcrfs` clears. -/
theorem bitAt_causeBits {k : Nat} (hk : k < 32) :
    bitAt causeBits k = [3, 4, 5, 6, 7, 8, 9, 10, 11, 12, 21, 22, 23].contains k := by
  revert k
  decide

theorem bitAt_excBits {k : Nat} (hk : k < 32) :
    bitAt excBits k = (k == 0 || [3, 4, 5, 6, 7, 8, 9, 10, 11, 12, 21, 22, 23].contains k) := by
  revert k
  decide

/-- A nibble moved to its field. -/
theorem bitAt_nibble_at (imm : BitVec 4) {n k : Nat} (hk : k < 32) (at_field : k / 4 = n) :
    bitAt ((imm ++ (0 : BitVec 28)) >>> (4 * n) : Word) k = bitAt imm (k % 4) := by
  have hn : n < 8 := by omega
  simp only [bitAt, BitVec.getMsbD, BitVec.getLsbD_ushiftRight, BitVec.getLsbD_append, hk, decide_true, Bool.true_and]
  rw [show 4 * n + (32 - 1 - k) = 28 + (3 - k % 4) by omega]
  simp [show k % 4 < 4 by omega]

/-- A word with one bit in it tells that bit. -/
theorem oneBit_eq_zero {b : Nat} (hb : b < 32) (x : Word) : maskBit b &&& x = 0 ↔ bitAt x b = false := by
  constructor
  · intro h
    have bit := congrArg (bitAt · b) h
    simp only [bitAt_and, bitAt_maskBit _ _ hb, decide_true, Bool.true_and] at bit
    exact bit.trans (by simp [bitAt])
  · intro h
    apply eq_of_bitAt
    intro k hk
    rw [bitAt_and, bitAt_maskBit _ _ hk]
    by_cases e : k = b
    · subst e
      rw [h]
      simp [bitAt]
    · simp [e, bitAt]

/-- Settles O40, by the bits of the value each of the instructions builds. -/
theorem fpscrInstructionResults : Obligations.FpscrInstructionResults := by
  unfold Obligations.FpscrInstructionResults
  intro s frD frB crbD crfD crfS imm fm rc fp
  dsimp only
  refine ⟨?_, ?_, ?_, ?_, ?_, ?_⟩
  · have exec_eq : exec (.mffs frD rc) s =
        needsFp s (nextInstr (recordFp rc (fprSet (fresh 32 s).2 frD ((fresh 32 s).1 ++ s.fpscr)))) := rfl
    rw [exec_eq, needsFp_of_fp fp]
    obtain ⟨t, next, moved⟩ := fpMove_goes (s := (fresh 32 s).2) frD (v := (fresh 32 s).1 ++ s.fpscr) rc rfl
    have value : fprGet t frD = (fresh 32 s).1 ++ s.fpscr := by simpa using moved.value frD
    refine ⟨t, next, ?_, ?_⟩
    · rw [value, field_append_right _ _ (by decide) (by decide), Nat.sub_self, field_full]
    · rw [value]
      exact ⟨moved.value, moved.ready, recorded_congr rfl rfl moved.record,
        congrArg (fun u => { u with freeCtr := s.freeCtr }) moved.frame⟩
  · have exec_eq : exec (.mtfsfi crfD imm rc) s = needsFp s (fpEnd rc { s with
        fpscr := fpSummary (merge (crFieldMask crfD) s.fpscr ((imm ++ (0 : BitVec 28)) >>> (4 * crfD.toNat))) }) := rfl
    rw [exec_eq, needsFp_of_fp fp]
    refine (fpscrWrite_ends s rc _).mono fun t written => written.writes fun k hk bit => ?_
    rw [bit, bitAt_merge _ _ _ hk, bitAt_crFieldMask crfD hk]
    by_cases h : k / 4 = crfD.toNat
    · simp only [h, decide_true, if_true]
      exact bitAt_nibble_at imm hk h
    · simp only [h, decide_false, Bool.false_eq_true, if_false]
  · have exec_eq : exec (.mtfsf fm frB rc) s = needsFp s (fpEnd rc { s with
        fpscr := fpSummary (merge (fieldsMask fm) s.fpscr (field (fprGet s frB) 32 32)) }) := rfl
    rw [exec_eq, needsFp_of_fp fp]
    refine (fpscrWrite_ends s rc _).mono fun t written => written.writes fun k hk bit => ?_
    have selected := bitAt_fieldsMask fm (j := k / 4) (k := k % 4) (by omega) (Nat.mod_lt _ (by decide))
    rw [Nat.div_add_mod] at selected
    rw [bit, bitAt_merge _ _ _ hk, selected, bitAt_field _ (by decide) hk]
  · have exec_eq : exec (.mtfsb0 crbD rc) s =
        needsFp s (fpEnd rc { s with fpscr := fpSummary (setBit s.fpscr crbD.toNat false) }) := rfl
    rw [exec_eq, needsFp_of_fp fp]
    refine (fpscrWrite_ends s rc _).mono fun t written => written.writes fun k hk bit => ?_
    rw [bit, bitAt_setBit _ _ _ hk]
    by_cases h : k = crbD.toNat <;> simp [h]
  · have exec_eq : exec (.mtfsb1 crbD rc) s = needsFp s (fpEnd rc { s with
        fpscr := fpSummary (if maskBit crbD.toNat &&& causeBits &&& ~~~ s.fpscr = 0 then s.fpscr ||| maskBit crbD.toNat
          else s.fpscr ||| maskBit crbD.toNat ||| fxBit) }) := rfl
    rw [exec_eq, needsFp_of_fp fp]
    refine (fpscrWrite_ends s rc _).mono fun t written => written.writes fun k hk bit => ?_
    have small : crbD.toNat < 32 := crbD.isLt
    have fresh_cause := oneBit_eq_zero small (causeBits &&& ~~~ s.fpscr)
    rw [← BitVec.and_assoc, bitAt_and, bitAt_not _ small, bitAt_causeBits small] at fresh_cause
    rw [bit]
    generalize [3, 4, 5, 6, 7, 8, 9, 10, 11, 12, 21, 22, 23].contains crbD.toNat = cause at fresh_cause ⊢
    have fx : bitAt fxBit k = decide (k = 0) := bitAt_maskBit 0 k hk
    have named := bitAt_maskBit crbD.toNat k hk
    by_cases none : maskBit crbD.toNat &&& causeBits &&& ~~~ s.fpscr = 0
    · rw [if_pos none, bitAt_or, named, Bool.and_assoc, fresh_cause.mp none, Bool.and_false, Bool.or_false]
      rfl
    · have set : (cause && !bitAt s.fpscr crbD.toNat) = true := by simpa using mt fresh_cause.mpr none
      rw [if_neg none, bitAt_or, bitAt_or, named, fx, Bool.and_assoc, set, Bool.and_true]
      rfl
  · have exec_eq : exec (.mcrfs crfD crfS) s = needsFp s (fpEnd false (setCrField crfD (field s.fpscr (4 * crfS.toNat) 4)
        { s with fpscr := fpSummary (s.fpscr &&& ~~~ (crFieldMask crfS &&& excBits)) })) := rfl
    rw [exec_eq, needsFp_of_fp fp]
    refine fpEnd_unrecorded rfl rfl ⟨fun m => setCrField_is _ _ _ m, fpSummary_legal rfl, ?_, rfl⟩
    intro k hk fex vx reserved
    refine (bitAt_fpSummary_other _ hk ⟨fex, vx, reserved⟩).trans ?_
    rw [bitAt_and, bitAt_not _ hk, bitAt_and, bitAt_crFieldMask crfS hk, bitAt_excBits hk]

end Sys2Proof.Machine
end

section
/-! PROOF. O39, O33: the FPSCR after an operation; comparisons; the frame of the arithmetic instructions. -/

namespace Sys2Proof.Machine

/-! ## The FPSCR after an operation (R602) -/

/-- Exception bits raised: each stays or is set. -/
theorem bitAt_raiseExc (f exc : Word) {k : Nat} (hk : k < 32) (other : k ≠ 0) :
    bitAt (raiseExc f exc) k = (bitAt f k || bitAt exc k) := by
  have fx : bitAt fxBit k = false := by
    rw [fxBit, bitAt_maskBit _ _ hk, decide_eq_false other]
  unfold raiseExc
  dsimp only
  split
  · exact bitAt_or _ _ _
  · rw [bitAt_or, bitAt_or, fx, Bool.or_false]

/-- A word is zero if no bit of it is set. -/
theorem eq_zero_iff_bits (x : Word) : x = 0 ↔ ∀ k, k < 32 → bitAt x k = false := by
  constructor
  · rintro rfl k _
    simp [bitAt]
  · intro h
    apply eq_of_bitAt
    intro k hk
    rw [h k hk]
    simp [bitAt]

/-- FX is set with any bit that was 0. -/
theorem bitAt_raiseExc_fx (f exc : Word) :
    bitAt (raiseExc f exc) 0 = true ↔ bitAt f 0 = true ∨ ∃ k, k < 32 ∧ bitAt exc k = true ∧ bitAt f k = false := by
  have fx : bitAt fxBit 0 = true := by decide
  have fresh : exc &&& ~~~ f = 0 ↔ ¬ ∃ k, k < 32 ∧ bitAt exc k = true ∧ bitAt f k = false := by
    rw [eq_zero_iff_bits]
    constructor
    · rintro none ⟨k, hk, set, clear⟩
      have := none k hk
      rw [bitAt_and, bitAt_not _ hk, set, clear] at this
      exact absurd this (by decide)
    · intro none k hk
      rw [bitAt_and, bitAt_not _ hk]
      by_contra set
      rw [Bool.not_eq_false, Bool.and_eq_true, Bool.not_eq_true'] at set
      exact none ⟨k, hk, set⟩
  unfold raiseExc
  dsimp only
  split
  · next none =>
    have none := fresh.mp none
    rw [bitAt_or, Bool.or_eq_true]
    constructor
    · rintro (old | raised)
      · exact .inl old
      · refine .inl (by_contra fun clear => none ⟨0, by decide, raised, by simpa using clear⟩)
    · rintro (old | some)
      · exact .inl old
      · exact absurd some none
  · next some =>
    rw [bitAt_or, fx, Bool.or_true]
    exact iff_of_true rfl (.inr (not_not.mp (mt fresh.mpr some)))

theorem bitAt_setFrFi (fr fi : Bool) (f : Word) {k : Nat} (hk : k < 32) :
    bitAt (setFrFi fr fi f) k = if k = 14 then fi else if k = 13 then fr else bitAt f k := by
  rw [setFrFi, bitAt_setBit _ _ _ hk, bitAt_setBit _ _ _ hk]

/-- The bits of a code written over part of bits 15 to 19. -/
theorem bitAt_code {n : Nat} (c : BitVec n) (hn : n ≤ 5) {k : Nat} (low : 20 - n ≤ k) (high : k < 20) :
    bitAt (c.setWidth 32 <<< 12 : Word) k = bitAt c (k - (20 - n)) := by
  simp only [bitAt, BitVec.getMsbD, BitVec.getLsbD_shiftLeft, BitVec.getLsbD_setWidth]
  rw [show 32 - 1 - k - 12 = n - 1 - (k - (20 - n)) by omega]
  simp
  grind

theorem bitAt_setFprf (c : BitVec 5) (f : Word) {k : Nat} (hk : k < 32) :
    bitAt (setFprf c f) k = if 15 ≤ k ∧ k < 20 then bitAt c (k - 15) else bitAt f k := by
  have mask : ∀ k : Fin 32, bitAt (0x0001F000 : Word) k.val = decide (15 ≤ k.val ∧ k.val < 20) := by decide
  rw [setFprf, bitAt_merge _ _ _ hk, mask ⟨k, hk⟩]
  by_cases h : 15 ≤ k ∧ k < 20
  · rw [if_pos h, if_pos (decide_eq_true h)]
    exact bitAt_code c (by decide) h.1 h.2
  · rw [if_neg h, if_neg (by simpa using h)]

theorem bitAt_setFpcc (c : BitVec 4) (f : Word) {k : Nat} (hk : k < 32) :
    bitAt (setFpcc c f) k = if 16 ≤ k ∧ k < 20 then bitAt c (k - 16) else bitAt f k := by
  have mask : ∀ k : Fin 32, bitAt (0x0000F000 : Word) k.val = decide (16 ≤ k.val ∧ k.val < 20) := by decide
  rw [setFpcc, bitAt_merge _ _ _ hk, mask ⟨k, hk⟩]
  by_cases h : 16 ≤ k ∧ k < 20
  · rw [if_pos h, if_pos (decide_eq_true h)]
    exact bitAt_code c (by decide) h.1 h.2
  · rw [if_neg h, if_neg (by simpa using h)]

/-- What an operation raises: exception bits only. -/
abbrev Raises (exc : Word) : Prop := exc &&& ~~~causeBits = 0

theorem Raises.bit {exc : Word} (h : Raises exc) {k : Nat} (hk : k < 32)
    (other : k ∉ [3, 4, 5, 6, 7, 8, 9, 10, 11, 12, 21, 22, 23]) : bitAt exc k = false := by
  have bit := (eq_zero_iff_bits _).mp h k hk
  rw [bitAt_and, bitAt_not _ hk, bitAt_causeBits hk] at bit
  simpa [other] using bit

theorem Raises.or {x y : Word} (hx : Raises x) (hy : Raises y) : Raises (x ||| y) := by
  refine (eq_zero_iff_bits _).mpr fun k hk => ?_
  have bx := (eq_zero_iff_bits _).mp hx k hk
  have bY := (eq_zero_iff_bits _).mp hy k hk
  rw [bitAt_and] at bx bY ⊢
  rw [bitAt_or, Bool.and_or_distrib_right, bx, bY]
  rfl

/-- XX with FI, among the bits an operation raises. -/
def withInexact (fi : Bool) (exc : Word) : Word := if fi then exc ||| xxBit else exc

theorem Raises.withInexact {exc : Word} (h : Raises exc) (fi : Bool) : Raises (withInexact fi exc) := by
  cases fi
  · exact h
  · exact h.or (show xxBit &&& ~~~causeBits = 0 by decide)

section
variable (f exc : Word) (fr fi : Bool) (c : Option (BitVec 5))

/-- Outside FR, FI, FPRF and the summary bits, only what is raised changes. -/
theorem bitAt_fpscrAfter {k : Nat} (hk : k < 32) (status : k < 13 ∨ 19 < k) (summary : k ≠ 1 ∧ k ≠ 2 ∧ k ≠ 20) :
    bitAt (fpscrAfter f exc fr fi c) k = bitAt (raiseExc f (withInexact fi exc)) k := by
  have frfi : bitAt (setFrFi fr fi (raiseExc f (withInexact fi exc))) k = bitAt (raiseExc f (withInexact fi exc)) k := by
    rw [bitAt_setFrFi _ _ _ hk, if_neg (by omega), if_neg (by omega)]
  rw [fpscrAfter, bitAt_fpSummary_other _ hk summary]
  cases c with
  | none => exact frfi
  | some c =>
    rw [setFprfOpt, bitAt_setFprf _ _ hk, if_neg (by omega)]
    exact frfi

/-- Another exception bit is set by what is raised. -/
theorem bitAt_fpscrAfter_cause {k : Nat} (hk : k < 32) (status : k < 13 ∨ 19 < k) (summary : k ≠ 0 ∧ k ≠ 1 ∧ k ≠ 2 ∧ k ≠ 20) :
    bitAt (fpscrAfter f exc fr fi c) k = (bitAt f k || bitAt exc k || (k == 6 && fi)) := by
  rw [bitAt_fpscrAfter _ _ _ _ _ hk status (by omega), bitAt_raiseExc _ _ hk summary.1, Bool.or_assoc]
  congr 1
  cases fi
  · simp [withInexact]
  · rw [withInexact, if_pos rfl, bitAt_or, xxBit, bitAt_maskBit _ _ hk, Bool.and_true]
    rfl

theorem bitAt_fpscrAfter_fr : bitAt (fpscrAfter f exc fr fi c) 13 = fr := by
  rw [fpscrAfter, bitAt_fpSummary_other _ (by decide) (by decide)]
  cases c with
  | none => exact bitAt_setFrFi fr fi _ (by decide)
  | some c => exact (bitAt_setFprf _ _ (by decide)).trans (bitAt_setFrFi fr fi _ (by decide))

theorem bitAt_fpscrAfter_fi : bitAt (fpscrAfter f exc fr fi c) 14 = fi := by
  rw [fpscrAfter, bitAt_fpSummary_other _ (by decide) (by decide)]
  cases c with
  | none => exact bitAt_setFrFi fr fi _ (by decide)
  | some c => exact (bitAt_setFprf _ _ (by decide)).trans (bitAt_setFrFi fr fi _ (by decide))

theorem field_fpscrAfter_fprf (c : BitVec 5) : field (fpscrAfter f exc fr fi (some c)) 15 5 = c := by
  apply eq_of_bitAt
  intro k hk
  rw [bitAt_field _ (by decide) hk, fpscrAfter, bitAt_fpSummary_other _ (by omega) (by omega), setFprfOpt,
    bitAt_setFprf _ _ (by omega), if_pos (by omega)]
  congr 1
  omega

/-- The control bits stay. -/
theorem field_control_raised {f exc : Word} (h : Raises exc) :
    (field (fpSummary (setFprfOpt c (setFrFi fr fi (raiseExc f exc)))) 24 8 : BitVec 8) = field f 24 8 := by
  apply eq_of_bitAt
  intro k hk
  have frfi : bitAt (setFrFi fr fi (raiseExc f exc)) (24 + k) = bitAt f (24 + k) := by
    rw [bitAt_setFrFi _ _ _ (by omega), if_neg (by omega), if_neg (by omega), bitAt_raiseExc _ _ (by omega) (by omega),
      h.bit (by omega) (by simp; omega), Bool.or_false]
  rw [bitAt_field _ (by decide) hk, bitAt_field _ (by decide) hk, bitAt_fpSummary_other _ (by omega) (by omega)]
  cases c with
  | none => exact frfi
  | some c =>
    rw [setFprfOpt, bitAt_setFprf _ _ (by omega), if_neg (by omega)]
    exact frfi

theorem field_fpscrAfter_control {f exc : Word} (h : Raises exc) : (field (fpscrAfter f exc fr fi c) 24 8 : BitVec 8) = field f 24 8 :=
  field_control_raised fr fi c (h.withInexact fi)

theorem fpscrAfter_summary : fpSummary (fpscrAfter f exc fr fi c) = fpscrAfter f exc fr fi c := fpSummary_idem _

end

/-! ## Comparisons -/

/-- A number of a sign and a magnitude. -/
def signedInt (s : Bool) (n : Nat) : Int := if s then -(n : Int) else n

theorem scaledValue_signed (x : DWord) : scaledValue x = signedInt (fpSign x) (magnitude 52 (fpBits x)) := by
  rw [scaledValue_eq, signedInt]
  cases fpSign x <;> simp

/-- Signed numbers keep their order where magnitudes do. -/
theorem signedInt_lt_iff {g : Nat → Nat} (mono : StrictMono g) (zero : g 0 = 0) (s t : Bool) (m n : Nat) :
    signedInt s (g m) < signedInt t (g n) ↔ signedInt s m < signedInt t n := by
  have iff := mono.lt_iff_lt (a := m) (b := n)
  have iff' := mono.lt_iff_lt (a := n) (b := m)
  have m0 := mono.lt_iff_lt (a := 0) (b := m)
  have n0 := mono.lt_iff_lt (a := 0) (b := n)
  cases s <;> cases t <;> simp only [signedInt, Bool.false_eq_true, if_true, if_false] <;> omega

/-- The order of two patterns, told as integers. -/
def patternKey (x : DWord) : Int := signedInt (fpSign x) (fpBits x)

theorem patternKey_lt_iff (a b : DWord) : patternKey a < patternKey b ↔ scaledValue a < scaledValue b := by
  rw [scaledValue_signed, scaledValue_signed, patternKey, patternKey,
    signedInt_lt_iff (magnitude_strictMono 52) (magnitude_eq_zero.mpr rfl)]

theorem fpCompare_nan {a b : DWord} (h : isNan a ∨ isNan b) : fpCompare a b = 0b0001 := by
  rw [fpCompare, if_pos (by simpa [fpIsNan_iff] using h)]

theorem fpCompare_numbers {a b : DWord} (h : ¬ (isNan a ∨ isNan b)) :
    fpCompare a b = orderField (decide (scaledValue a < scaledValue b)) (decide (scaledValue b < scaledValue a)) false := by
  have nan : ¬ (fpIsNan a || fpIsNan b) = true := by simpa [fpIsNan_iff] using h
  have keys : (if patternKey a < patternKey b then 0b1000 else if patternKey b < patternKey a then 0b0100 else 0b0010 : BitVec 4) =
      orderField (decide (scaledValue a < scaledValue b)) (decide (scaledValue b < scaledValue a)) false := by
    have less := patternKey_lt_iff a b
    have greater := patternKey_lt_iff b a
    simp only [less, greater]
    rcases lt_trichotomy (scaledValue a) (scaledValue b) with less | same | greater
    · rw [if_pos less, decide_eq_true less, decide_eq_false (not_lt.mpr less.le)]
      rfl
    · rw [same, if_neg (lt_irrefl _), if_neg (lt_irrefl _), decide_eq_false (lt_irrefl _)]
      rfl
    · rw [if_neg (not_lt.mpr greater.le), if_pos greater, decide_eq_true greater, decide_eq_false (not_lt.mpr greater.le)]
      rfl
  rw [fpCompare, if_neg nan]
  by_cases zeros : (fpIsZero a && fpIsZero b) = true
  · rw [if_pos zeros]
    obtain ⟨za, zb⟩ := (Bool.and_eq_true _ _).mp zeros
    rw [(fpIsZero_iff a).mp za, (fpIsZero_iff b).mp zb]
    rfl
  · rw [if_neg zeros]
    exact keys

/-! ## What a comparison writes -/

/-- The FPSCR a comparison builds. -/
def comparedFpscr (c : BitVec 4) (f exc : Word) : Word := fpSummary (setFpcc c (raiseExc f exc))

theorem comparedFpscr_code (c : BitVec 4) (f exc : Word) : field (comparedFpscr c f exc) 16 4 = c := by
  apply eq_of_bitAt
  intro k hk
  rw [bitAt_field _ (by decide) hk, comparedFpscr, bitAt_fpSummary_other _ (by omega) (by omega), bitAt_setFpcc _ _ (by omega),
    if_pos (by omega)]
  congr 1
  omega

theorem bitAt_comparedFpscr (c : BitVec 4) (f exc : Word) {k : Nat} (hk : k < 32) (code : k < 16 ∨ 19 < k)
    (summary : k ≠ 1 ∧ k ≠ 2 ∧ k ≠ 20) : bitAt (comparedFpscr c f exc) k = bitAt (raiseExc f exc) k := by
  rw [comparedFpscr, bitAt_fpSummary_other _ hk summary, bitAt_setFpcc _ _ hk, if_neg (by omega)]

/-- The bits a comparison raises. -/
theorem bitAt_compareExc (ordered : Bool) (f : Word) (a b : DWord) {k : Nat} (hk : k < 32) :
    bitAt (compareExc ordered f a b) k = true ↔ (k = 7 ∧ (isSnan a ∨ isSnan b)) ∨
      (k = 12 ∧ ordered = true ∧ (isNan a ∨ isNan b) ∧ ¬ ((isSnan a ∨ isSnan b) ∧ bitAt f 24 = true)) := by
  have snan : (fpIsSnan a || fpIsSnan b) = true ↔ isSnan a ∨ isSnan b := by simp [fpIsSnan_iff]
  have nan : (fpIsNan a || fpIsNan b) = true ↔ isNan a ∨ isNan b := by simp [fpIsNan_iff]
  have quieter : isSnan a ∨ isSnan b → isNan a ∨ isNan b := Or.imp And.left And.left
  have vx : bitAt vxsnanBit k = decide (k = 7) := bitAt_maskBit 7 k hk
  have vc : bitAt vxvcBit k = decide (k = 12) := bitAt_maskBit 12 k hk
  have zero : bitAt 0#32 k = false := by simp [bitAt]
  have ve : fpVe f = bitAt f 24 := rfl
  unfold compareExc
  rw [ve]
  by_cases s : isSnan a ∨ isSnan b
  · rw [if_pos (snan.mpr s)]
    have := quieter s
    cases ordered <;> cases bitAt f 24 <;> simp [bitAt_or, vx, vc, s, this]
  · rw [if_neg (mt snan.mp s)]
    by_cases n : isNan a ∨ isNan b
    · rw [nan.mpr n]
      cases ordered <;> simp [vc, zero, s, n]
    · rw [eq_false_of_ne_true (mt nan.mp n)]
      simp [zero, s, n]

/-- Settles O39, by the order of patterns and of the numbers they stand for, and the bits a comparison raises. -/
theorem floatCompareResults : Obligations.FloatCompareResults := by
  unfold Obligations.FloatCompareResults
  intro s crfD frA frB fp
  extract_lets a b nan snan order status is
  have holds (ordered : Bool) (c : BitVec 4) {t : State} (f : t.fpscr = comparedFpscr c s.fpscr (compareExc ordered s.fpscr a b)) :
      status ordered t := by
    have bits {k : Nat} (hk : k < 32) (code : k < 16 ∨ 19 < k) (summary : k ≠ 0 ∧ k ≠ 1 ∧ k ≠ 2 ∧ k ≠ 20) :
        bitAt t.fpscr k = (bitAt s.fpscr k || bitAt (compareExc ordered s.fpscr a b) k) := by
      rw [f, bitAt_comparedFpscr _ _ _ hk code (by omega), bitAt_raiseExc _ _ hk summary.1]
    have raised {k : Nat} (hk : k < 32) := bitAt_compareExc ordered s.fpscr a b hk
    refine ⟨fpSummary_legal f, fun k hk => ?_, ?_, ?_, ?_⟩
    · have range : k < 32 ∧ (k < 16 ∨ 19 < k) ∧ (k ≠ 0 ∧ k ≠ 1 ∧ k ≠ 2 ∧ k ≠ 20) ∧ k ≠ 7 ∧ k ≠ 12 := by
        revert k
        decide
      obtain ⟨small, code, summary, ne7, ne12⟩ := range
      rw [bits small code summary, eq_false_of_ne_true (mt (raised small).mp (by simp [ne7, ne12])), Bool.or_false]
    · rw [bits (by decide) (by decide) (by decide), Bool.or_eq_true, raised (by decide)]
      simp
      rfl
    · rw [bits (by decide) (by decide) (by decide), Bool.or_eq_true, raised (by decide)]
      simp
      rfl
    · rw [Bool.eq_iff_iff, Bool.or_eq_true, Bool.or_eq_true, newlySet, newlySet, f,
        bitAt_comparedFpscr _ _ _ (by decide) (by decide) (by decide), bitAt_raiseExc_fx, ← f,
        bits (k := 7) (by decide) (by decide) (by decide), bits (k := 12) (by decide) (by decide) (by decide), or_assoc]
      refine or_congr_right ⟨?_, ?_⟩
      · rintro ⟨k, hk, set, clear⟩
        have which : k = 7 ∨ k = 12 := ((raised hk).mp set).imp And.left And.left
        rcases which with rfl | rfl
        · exact .inl (by rw [set, clear]; rfl)
        · exact .inr (by rw [set, clear]; rfl)
      · rintro (new | new)
        · exact ⟨7, by decide, by grind, by grind⟩
        · exact ⟨12, by decide, by grind, by grind⟩
  have both (ordered : Bool) {i : Bool → Instr} (run : ∀ rc, exec (i rc) s = fpCompareInto ordered crfD frA frB rc s) :
      is ordered i := by
    constructor
    · have exec_eq : fpCompareInto ordered crfD frA frB false s = needsFp s (fpEnd false (setCrField crfD (fpCompare a b)
          { s with fpscr := comparedFpscr (fpCompare a b) s.fpscr (compareExc ordered s.fpscr a b) })) := rfl
      rw [run, exec_eq, needsFp_of_fp fp]
      refine fpEnd_unrecorded rfl rfl ?_
      have cr := setCrField_is s crfD (fpCompare a b)
      have value : crField (setCrField crfD (fpCompare a b) s) crfD = fpCompare a b := (cr crfD).trans (if_pos rfl)
      refine ⟨?_, fun m hm => (cr.outside m hm), ?_, holds ordered (fpCompare a b) rfl, rfl⟩
      · exact ⟨fun h => value.trans (fpCompare_nan h), fun h => value.trans (fpCompare_numbers h)⟩
      · exact (comparedFpscr_code _ _ _).trans value.symm
    · have exec_eq : fpCompareInto ordered crfD frA frB true s = needsFp s (fpEnd false { (fresh 4 (fresh 32 s).2).2 with
          fpscr := comparedFpscr (fresh 4 (fresh 32 s).2).1 s.fpscr (compareExc ordered s.fpscr a b)
          cr := (fresh 32 s).1 }) := rfl
      rw [run, exec_eq, needsFp_of_fp fp]
      exact fpEnd_unrecorded rfl rfl ⟨holds ordered _ rfl, rfl⟩
  exact ⟨both false fun rc => rfl, both true fun rc => rfl⟩

/-! ## What an operation commits -/

/-- What an instruction that writes one floating-point register (or none) and the FPSCR leaves. -/
structure FpCommitted (s t : State) (frD : Reg) (rc : Bool) (v : Option DWord) (f : Word) : Prop where
  written : ∀ x, v = some x → fprGet t frD = x ∧ fprReady t frD = true
  kept : v = none → t.fpr = s.fpr ∧ t.fprInit = s.fprInit
  others : ∀ r, r ≠ frD → fprGet t r = fprGet s r ∧ fprReady t r = fprReady s r
  fpscr : t.fpscr = f
  record : if rc then CrFieldIs s t 1 (field t.fpscr 0 4) else t.cr = s.cr
  frame : t = { s with fpr := t.fpr, fprInit := t.fprInit, fpscr := t.fpscr, cr := t.cr, freeCtr := t.freeCtr, pc := s.pc + 4 }

theorem fprSetOpt_frame (frD : Reg) (v : Option DWord) (s : State) :
    fprSetOpt frD v s = { s with fpr := (fprSetOpt frD v s).fpr, fprInit := (fprSetOpt frD v s).fprInit } := by
  cases v <;> rfl

theorem fprGet_fprSetOpt (frD r : Reg) (v : Option DWord) (s : State) :
    fprGet (fprSetOpt frD v s) r = if r = frD then v.getD (fprGet s r) else fprGet s r := by
  cases v with
  | none => simp [fprSetOpt]
  | some x => simp [fprSetOpt]

theorem fprReady_fprSetOpt (frD r : Reg) (v : Option DWord) (s : State) :
    fprReady (fprSetOpt frD v s) r = ((v.isSome && r == frD) || fprReady s r) := by
  cases v with
  | none => simp [fprSetOpt]
  | some x => simp [fprSetOpt]

/-- The state an instruction ends with that writes a register, the FPSCR and CR1. -/
def committed (s : State) (frD : Reg) (rc : Bool) (v : Option DWord) (f : Word) (n : Nat) : State :=
  advance (recordFp rc (fprSetOpt frD v { s with freeCtr := n, fpscr := f }))

theorem committed_spec (s : State) (frD : Reg) (rc : Bool) (v : Option DWord) (f : Word) (n : Nat) :
    FpCommitted s (committed s frD rc v f n) frD rc v f := by
  unfold committed
  have frame := fprSetOpt_frame frD v { s with freeCtr := n, fpscr := f }
  have value (r : Reg) := fprGet_fprSetOpt frD r v { s with freeCtr := n, fpscr := f }
  have ready (r : Reg) := fprReady_fprSetOpt frD r v { s with freeCtr := n, fpscr := f }
  have kept : v = none → fprSetOpt frD v { s with freeCtr := n, fpscr := f } = { s with freeCtr := n, fpscr := f } := by
    rintro rfl
    rfl
  generalize fprSetOpt frD v { s with freeCtr := n, fpscr := f } = u at frame value ready kept
  have frame' := recordFp_frame rc u
  have record := recordFp_cr rc u
  generalize recordFp rc u = t at frame' record
  have fpscr : t.fpscr = f := by rw [frame', frame]
  have get (r : Reg) : fprGet (advance t) r = fprGet u r := by rw [frame']; rfl
  have set (r : Reg) : fprReady (advance t) r = fprReady u r := by rw [frame']; rfl
  refine ⟨?_, ?_, ?_, fpscr, ?_, ?_⟩
  · rintro x rfl
    rw [get, set, value, ready]
    simp
  · intro none
    have same := kept none
    rw [frame', same]
    exact ⟨rfl, rfl⟩
  · intro r hr
    rw [get, set, value, ready, if_neg hr, beq_false_of_ne hr, Bool.and_false, Bool.false_or]
    exact ⟨rfl, rfl⟩
  · show if rc then CrFieldIs s (advance t) 1 (field t.fpscr 0 4) else _
    have same : u.fpscr = f := by rw [frame]
    rw [fpscr]
    rw [same] at record
    exact recorded_congr (by rw [frame]) rfl record
  · rw [frame', frame]
    rfl

/-- The common end: the register, the FPSCR, CR1 (R602). -/
theorem fpEnd_committed (s : State) (frD : Reg) (rc : Bool) (v : Option DWord) (f : Word) (n : Nat) :
    FpEnds s (fpEnd rc (fprSetOpt frD v { s with freeCtr := n, fpscr := f })) fun t => FpCommitted s t frD rc v f := by
  have same : (fprSetOpt frD v { s with freeCtr := n, fpscr := f }).pc = s.pc ∧
      msrFe (fprSetOpt frD v { s with freeCtr := n, fpscr := f }) = msrFe s := by
    rw [fprSetOpt_frame]
    exact ⟨rfl, rfl⟩
  exact fpEnd_ends rc same.1 same.2 (committed_spec s frD rc v f n)

/-- FR of a result, any value where that is said (U7). -/
def FrIs (r : FpResult) (fr : Bool) : Prop := r.frAny = false → fr = r.fr

theorem fpCommit_ends (s : State) (frD : Reg) (rc : Bool) (r : FpResult) :
    FpEnds s (fpCommit frD rc r s) fun t =>
      ∃ fr, FrIs r fr ∧ FpCommitted s t frD rc r.value (fpscrAfter s.fpscr r.exc fr r.fi r.fprf) := by
  unfold fpCommit
  cases h : r.frAny
  · exact (fpEnd_committed s frD rc r.value _ s.freeCtr).mono fun t committed => ⟨_, fun _ => by simp, committed⟩
  · refine (fpEnd_committed s frD rc r.value _ (s.freeCtr + 1)).mono fun t committed => ⟨_, fun other => ?_, committed⟩
    rw [h] at other
    exact absurd other (by decide)

/-- A commitment has the frame of every floating-point result. -/
theorem FpCommitted.resultFrame {s t : State} {frD : Reg} {rc : Bool} {v : Option DWord} {f : Word}
    (h : FpCommitted s t frD rc v f) (control : (field f 24 8 : BitVec 8) = field s.fpscr 24 8) (summary : fpSummary f = f) :
    FpResultFrame s t frD rc ∧ (rc = true → crField t 1 = field t.fpscr 0 4) where
  left := {
    others := fun r hr => (h.others r hr).1
    ready := fun r hr => (h.others r hr).2
    written := by
      cases v with
      | none => exact .inr (h.kept rfl)
      | some x => exact .inl (h.written x rfl).2
    control := by rw [h.fpscr, control]
    summary := by rw [FpscrLegal, h.fpscr, summary]
    cr := by
      rintro rfl
      exact h.record
    crOutside := by
      cases rc
      · exact .of_eq h.record 1
      · exact CrFieldIs.outside h.record
    frame := h.frame }
  right := by
    rintro rfl
    exact (h.record 1).trans (if_pos rfl)

/-! ## What the operations raise -/

theorem raises_none : Raises 0 := by decide
theorem raises_ux : Raises uxBit := by decide
theorem raises_ox : Raises oxBit := by decide
theorem raises_zx : Raises zxBit := by decide
theorem raises_vxsnan : Raises vxsnanBit := by decide
theorem raises_vxsqrt : Raises vxsqrtBit := by decide
theorem raises_vxcvi : Raises vxcviBit := by decide

theorem raises_ite {c : Prop} [Decidable c] {x y : Word} (hx : Raises x) (hy : Raises y) : Raises (if c then x else y) := by
  split
  · exact hx
  · exact hy

theorem raises_result {c : Prop} [Decidable c] {x y : FpResult} (hx : Raises x.exc) (hy : Raises y.exc) :
    Raises (if c then x else y).exc := by
  split
  · exact hx
  · exact hy

/-- A rounded significand with its power of two, one place up if rounding carried out of the precision. -/
def carried (p m : Nat) (t : Int) : Nat × Int := if m = 2 ^ p then (2 ^ (p - 1), t + 1) else (m, t)

def precision (single : Bool) : Nat := if single then 24 else 53
def greatestExp (single : Bool) : Int := if single then 127 else 1023
def leastExp (single : Bool) : Int := if single then -126 else -1022
def adjustment (single : Bool) : Int := if single then 192 else 1536

/-- A result of a pattern, FR, FI and the bits raised. -/
def roundedResult (single : Bool) (x : DWord) (fr fi : Bool) (exc : Word) : FpResult :=
  { value := some x, fprf := some (fprfOf single x), fr := fr, fi := fi, frAny := false, exc := exc }

/-- What a disabled overflow leaves. -/
def overflowValue (single : Bool) (rn : BitVec 2) (s : Bool) : DWord :=
  if rn == 0 || (rn == 2 && !s) || (rn == 3 && s) then fpInf s
  else fpPack s (2 ^ precision single - 1) (greatestExp single - precision single + 1)

def overflowResult (single : Bool) (rn : BitVec 2) (s : Bool) (exc : Word) : FpResult :=
  { value := some (overflowValue single rn s), fprf := some (fprfOf single (overflowValue single rn s))
    fr := false, fi := true, frAny := true, exc := exc ||| oxBit }

/-- The end of rounding: by the exponent of the rounded number. -/
def roundEnd (single : Bool) (f : Word) (s : Bool) (mt : Nat × Int) (fr fi : Bool) (adj : Int) (exc : Word) : FpResult :=
  if mt.2 + precision single - 1 > greatestExp single then
    if fpOe f then roundedResult single (fpPack s mt.1 (mt.2 - adj)) fr fi (exc ||| oxBit)
    else overflowResult single (fpRn f) s exc
  else roundedResult single (fpPack s mt.1 mt.2) fr fi exc

theorem roundInRange_eq (single : Bool) (f : Word) (s : Bool) (n d : Nat) (k e adj : Int) (exc : Word) :
    roundInRange single f s n d k e adj exc =
      roundEnd single f s
        (carried (precision single) (rintAt (fpRn f) s n d k (e - precision single + 1)).1 (e - precision single + 1))
        (rintAt (fpRn f) s n d k (e - precision single + 1)).2.1 (rintAt (fpRn f) s n d k (e - precision single + 1)).2.2
        adj exc := by
  cases single <;> rfl

/-- Rounding of a denormalised magnitude, `q` the multiple of the least unit. -/
def roundDenormal (single : Bool) (f : Word) (s : Bool) (q : Nat × Bool × Bool) : FpResult :=
  if fpNonIeee f && decide (q.1 < 2 ^ (precision single - 1)) then
    roundedResult single (fpZero s) false (q.2.2 || q.1 != 0) (if q.2.2 || q.1 != 0 then uxBit else 0)
  else roundedResult single (fpPack s q.1 (leastExp single - precision single + 1)) q.2.1 q.2.2 (if q.2.2 then uxBit else 0)

theorem fpRound_eq (single : Bool) (f : Word) (s : Bool) (n d : Nat) (k : Int) :
    fpRound single f s n d k =
      if floorLog2 n d k < leastExp single then
        if fpUe f then
          roundInRange single f s n d (k + adjustment single) (floorLog2 n d k + adjustment single) (adjustment single) uxBit
        else roundDenormal single f s (rintAt (fpRn f) s n d k (leastExp single - precision single + 1))
      else roundInRange single f s n d k (floorLog2 n d k) (adjustment single) 0 := by
  cases single <;> rfl

theorem roundInRange_raises (single : Bool) (f : Word) (s : Bool) (n d : Nat) (k e adj : Int) {exc : Word} (h : Raises exc) :
    Raises (roundInRange single f s n d k e adj exc).exc := by
  have ox : Raises (exc ||| oxBit) := h.or (by decide)
  rw [roundInRange_eq]
  exact raises_result (raises_result ox ox) h

theorem fpRound_raises (single : Bool) (f : Word) (s : Bool) (n d : Nat) (k : Int) : Raises (fpRound single f s n d k).exc := by
  have ux : Raises uxBit := by decide
  have none : Raises 0 := by decide
  rw [fpRound_eq]
  refine raises_result (raises_result (roundInRange_raises _ _ _ _ _ _ _ _ ux) (raises_result ?_ ?_))
    (roundInRange_raises _ _ _ _ _ _ _ _ none)
  · exact raises_ite ux none
  · exact raises_ite ux none

theorem fpRoundValue_raises (single : Bool) (f : Word) (v : FpValue) : Raises (fpRoundValue single f v).exc := by
  cases v with
  | inf s => exact (by decide : Raises 0)
  | zero s => exact (by decide : Raises 0)
  | fin s n d k => exact fpRound_raises single f s n d k

theorem negateResult_exc (single negated : Bool) (r : FpResult) : (negateResult single negated r).exc = r.exc := by
  unfold negateResult
  split
  · split <;> rfl
  · rfl

theorem invalidSum_raises (xInf xSign yInf ySign : Bool) : Raises (invalidSum xInf xSign yInf ySign) :=
  raises_ite (by decide) (by decide)

theorem fpInvalid_raises (kind : FpKind) (a b c : DWord) : Raises (fpInvalid kind a b c) := by
  cases kind with
  | add => exact invalidSum_raises _ _ _ _
  | sub => exact invalidSum_raises _ _ _ _
  | mul => exact raises_ite (by decide) (by decide)
  | div => exact raises_ite (by decide) (raises_ite (by decide) (by decide))
  | madd minus negated => exact raises_ite (by decide) (invalidSum_raises _ _ _ _)

/-- The bits an arithmetic operation raises before it computes (R609 step 3). -/
def arithExc (kind : FpKind) (a b c : DWord) : Word :=
  (if (fpOperands kind a b c).any fpIsSnan then vxsnanBit else 0) ||| fpInvalid kind a b c

/-- The arithmetic procedure after its first step (R609). -/
def arithFlushed (single : Bool) (kind : FpKind) (f : Word) (a b c : DWord) : FpResult :=
  if arithExc kind a b c != 0 then
    if fpVe f then fpSuppressed (arithExc kind a b c)
    else fpExact single (fpNanResult (fpOperands kind a b c)) (arithExc kind a b c)
  else if (fpOperands kind a b c).any fpIsNan then fpExact single (fpNanResult (fpOperands kind a b c)) 0
  else if kind == .div && fpIsZero b && !fpIsInf a then
    if fpZe f then fpSuppressed zxBit else fpExact single (fpInf (fpSign a != fpSign b)) zxBit
  else negateResult single (fpNegates kind) (fpRoundValue single f (fpExactValue kind f a b c))

theorem fpArith_eq (single : Bool) (kind : FpKind) (f : Word) (a b c : DWord) :
    fpArith single kind f a b c = arithFlushed single kind f (flushOperand f a) (flushOperand f b) (flushOperand f c) := rfl

theorem arithExc_raises (kind : FpKind) (a b c : DWord) : Raises (arithExc kind a b c) :=
  (raises_ite (by decide) (by decide)).or (fpInvalid_raises kind a b c)

theorem fpArith_raises (single : Bool) (kind : FpKind) (f : Word) (a b c : DWord) : Raises (fpArith single kind f a b c).exc := by
  have invalid := arithExc_raises kind (flushOperand f a) (flushOperand f b) (flushOperand f c)
  have none : Raises 0 := by decide
  have zx : Raises zxBit := by decide
  rw [fpArith_eq]
  refine raises_result (raises_result invalid invalid) (raises_result none (raises_result (raises_result zx zx) ?_))
  rw [negateResult_exc]
  exact fpRoundValue_raises _ _ _

theorem fpToSingle_raises (f : Word) (b : DWord) : Raises (fpToSingle f b).exc := by
  unfold fpToSingle
  exact raises_result (raises_result (raises_result raises_vxsnan raises_vxsnan) raises_none) (fpRoundValue_raises _ _ _)

theorem intInvalid_raises (f saturated : Word) {exc : Word} (h : Raises exc) : Raises (intInvalid f saturated exc).exc :=
  h.or raises_vxcvi

/-- A rounded integer, saturated where it is no signed word (R631). -/
def intRounded (f : Word) (n : Int) (fr fi : Bool) : IntResult :=
  if n > 2147483647 then intInvalid f 0x7FFFFFFF 0
  else if n < -2147483648 then intInvalid f 0x80000000 0
  else { value := some (BitVec.ofInt 32 n), fr := fr, fi := fi, exc := 0 }

/-- The conversion after its first step. -/
def toIntFlushed (f : Word) (rn : BitVec 2) (b : DWord) : IntResult :=
  if fpIsNan b then intInvalid f 0x80000000 (if fpIsSnan b then vxsnanBit else 0)
  else if fpIsInf b then intInvalid f (if fpSign b then 0x80000000 else 0x7FFFFFFF) 0
  else intRounded f (signedInt (fpSign b) (rintAt rn (fpSign b) (fpMant b) 1 (fpPow b) 0).1)
    (rintAt rn (fpSign b) (fpMant b) 1 (fpPow b) 0).2.1 (rintAt rn (fpSign b) (fpMant b) 1 (fpPow b) 0).2.2

theorem fpToInt_eq (f : Word) (rn : BitVec 2) (b : DWord) : fpToInt f rn b = toIntFlushed f rn (flushOperand f b) := rfl

theorem raises_intResult {c : Prop} [Decidable c] {x y : IntResult} (hx : Raises x.exc) (hy : Raises y.exc) :
    Raises (if c then x else y).exc := by
  split
  · exact hx
  · exact hy

theorem fpToInt_raises (f : Word) (rn : BitVec 2) (b : DWord) : Raises (fpToInt f rn b).exc := by
  have invalid (x : Word) : Raises (intInvalid f x 0).exc := intInvalid_raises f x raises_none
  have nan := intInvalid_raises f 0x80000000 (raises_ite (c := fpIsSnan (flushOperand f b) = true) raises_vxsnan raises_none)
  rw [fpToInt_eq]
  exact raises_intResult nan (raises_intResult (invalid _) (raises_intResult (invalid _) (raises_intResult (invalid _) raises_none)))

theorem fresSpecial_raises {f : Word} {b : DWord} {r : FpResult} (h : fresSpecial f b = some r) : Raises r.exc := by
  unfold fresSpecial at h
  split_ifs at h <;> obtain rfl := Option.some.inj h
  · exact raises_vxsnan
  · exact raises_vxsnan
  · exact raises_none
  · exact raises_zx
  · exact raises_zx
  · exact raises_none

theorem frsqrteSpecial_raises {f : Word} {b : DWord} {r : FpResult} (h : frsqrteSpecial f b = some r) : Raises r.exc := by
  unfold frsqrteSpecial at h
  split_ifs at h <;> obtain rfl := Option.some.inj h
  · exact raises_vxsnan
  · exact raises_vxsnan
  · exact raises_none
  · exact raises_zx
  · exact raises_zx
  · exact raises_vxsqrt
  · exact raises_vxsqrt
  · exact raises_none

theorem Raises.and {x : Word} (h : Raises x) (y : Word) : Raises (x &&& y) := by
  refine (eq_zero_iff_bits _).mpr fun k hk => ?_
  have bit := (eq_zero_iff_bits _).mp h k hk
  rw [bitAt_and] at bit ⊢
  rw [bitAt_and, Bool.and_right_comm, bit, Bool.false_and]

theorem fresOrdinary_raises (f : Word) (b : DWord) : Raises (fresOrdinary f b).exc := (fpRound_raises _ _ _ _ _ _).and _

theorem fresFlushed_raises (exc : Word) (x : DWord) : Raises (fresFlushed exc x).exc := by
  refine (by decide : Raises uxBit).or ?_
  refine (eq_zero_iff_bits _).mpr fun k hk => ?_
  have bit := (eq_zero_iff_bits _).mp (by decide : Raises oxBit) k hk
  rw [bitAt_and] at bit ⊢
  rw [bitAt_and, Bool.and_assoc, bit, Bool.and_false]

/-! ## The frame of the arithmetic instructions -/

/-- What O33 says of the next state. -/
abbrev ArithCompleted (s t : State) (frD : Reg) (rc : Bool) : Prop :=
  FpResultFrame s t frD rc ∧ (rc = true → crField t 1 = field t.fpscr 0 4)

theorem fpCommit_completes (s : State) (frD : Reg) (rc : Bool) {r : FpResult} (h : Raises r.exc) :
    FpEnds s (fpCommit frD rc r s) fun t => ArithCompleted s t frD rc :=
  (fpCommit_ends s frD rc r).mono fun _ ⟨_, _, committed⟩ =>
    committed.resultFrame (field_fpscrAfter_control _ _ _ h) (fpscrAfter_summary _ _ _ _ _)

theorem fpCommitEstimate_completes (s : State) (frD : Reg) (rc ordinary : Bool) {r : FpResult} (h : Raises r.exc) :
    FpEnds s (fpCommitEstimate frD rc ordinary r s) fun t => ArithCompleted s t frD rc := by
  have raised (c : Bool) : Raises (if c then r.exc ||| xxBit else r.exc) := raises_ite (h.or (by decide)) h
  exact (fpEnd_committed s frD rc r.value _ (s.freeCtr + 1)).mono fun t committed =>
    committed.resultFrame (field_control_raised _ _ _ (raised _)) (fpSummary_idem _)

theorem intCommit_completes (s : State) (frD : Reg) (rc : Bool) {r : IntResult} (h : Raises r.exc) :
    FpEnds s (intCommit frD rc r s) fun t => ArithCompleted s t frD rc := by
  have resultFrame {t : State} {v : Option DWord} {c : Option (BitVec 5)}
      (committed : FpCommitted s t frD rc v (fpscrAfter s.fpscr r.exc r.fr r.fi c)) : ArithCompleted s t frD rc :=
    committed.resultFrame (field_fpscrAfter_control _ _ _ h) (fpscrAfter_summary _ _ _ _ _)
  unfold intCommit
  cases r.value with
  | none => exact (fpEnd_committed s frD rc none _ s.freeCtr).mono fun t => resultFrame
  | some w => exact (fpEnd_committed s frD rc (some ((fresh 32 s).1 ++ w)) _ (s.freeCtr + 2)).mono fun t => resultFrame

/-- Any value in CR1 keeps the frame. -/
theorem FpResultFrame.withAnyCr {s u : State} {frD : Reg} (h : FpResultFrame s (advance u) frD false) (c : BitVec 4) :
    FpResultFrame s (advance (setCrField 1 c u)) frD true where
  others := h.others
  ready := h.ready
  written := h.written
  control := h.control
  summary := h.summary
  cr := by simp
  crOutside m hm := ((setCrField_is u 1 c).outside m hm).trans (h.crOutside m hm)
  frame := congrArg (setCrField 1 c) h.frame

theorem fpCommitAny_completes (s : State) (frD : Reg) (rc : Bool) {r : FpResult} (h : Raises r.exc) :
    FpEnds s (fpCommitAny frD rc r s) fun t => FpResultFrame s t frD rc := by
  obtain ⟨v, hv⟩ : ∃ v, v = (fresh 64 s).1 := ⟨_, rfl⟩
  obtain ⟨st, hst⟩ : ∃ st, st = (fresh 32 (fresh 64 s).2).1 := ⟨_, rfl⟩
  obtain ⟨c, hc⟩ : ∃ c, c = (fresh 4 (fresh 32 (fresh 64 s).2).2).1 := ⟨_, rfl⟩
  obtain ⟨exc, hexc⟩ : ∃ exc, exc = (r.exc &&& ~~~0x1A000000) ||| (st &&& 0x1A000000) := ⟨_, rfl⟩
  obtain ⟨f, hf⟩ : ∃ f, f = fpSummary (merge 0x1A07F000 (raiseExc s.fpscr exc) st) := ⟨_, rfl⟩
  have raised : Raises exc := by
    refine hexc ▸ (h.and _).or ((eq_zero_iff_bits _).mpr fun k hk => ?_)
    have bit := (eq_zero_iff_bits _).mp (show (0x1A000000 : Word) &&& ~~~causeBits = 0 by decide) k hk
    rw [bitAt_and] at bit ⊢
    rw [bitAt_and, Bool.and_assoc, bit, Bool.and_false]
  have control : (field f 24 8 : BitVec 8) = field s.fpscr 24 8 := by
    have mask : ∀ k : Fin 32, 24 ≤ k.val → bitAt (0x1A07F000 : Word) k.val = false := by decide
    apply eq_of_bitAt
    intro k hk
    rw [bitAt_field _ (by decide) hk, bitAt_field _ (by decide) hk, hf, bitAt_fpSummary_other _ (by omega) (by omega),
      bitAt_merge _ _ _ (by omega), mask ⟨24 + k, by omega⟩ (by simp), bitAt_raiseExc _ _ (by omega) (by omega),
      raised.bit (by omega) (by simp; omega)]
    simp
  obtain ⟨u, hu⟩ : ∃ u, u = fprSetOpt frD (r.value.map fun _ => v) { s with freeCtr := s.freeCtr + 3, fpscr := f } := ⟨_, rfl⟩
  have end_eq : fpCommitAny frD rc r s = fpEnd false (if rc then setCrField 1 c u else u) := by
    subst hu hf hexc hv hst hc
    unfold fpCommitAny
    cases r.value <;> rfl
  have plain : FpResultFrame s (advance u) frD false := by
    rw [hu]
    exact ((committed_spec s frD false (r.value.map fun _ => v) f (s.freeCtr + 3)).resultFrame control (hf ▸ fpSummary_idem _)).1
  have same : u.pc = s.pc ∧ msrFe u = msrFe s := by
    rw [hu, fprSetOpt_frame]
    exact ⟨rfl, rfl⟩
  rw [end_eq]
  cases rc
  · exact fpEnd_unrecorded same.1 same.2 plain
  · exact fpEnd_unrecorded (u := setCrField 1 c u) same.1 same.2 (plain.withAnyCr c)

/-! ## Every arithmetic instruction -/

theorem fpDouble_completes {s : State} (fp : msrFp s = true) (kind : FpKind) (frD frA frB frC : Reg) (rc : Bool) :
    FpEnds s (fpDouble kind frD frA frB frC rc s) fun t => ArithCompleted s t frD rc := by
  rw [fpDouble, needsFp_of_fp fp]
  exact fpCommit_completes s frD rc (fpArith_raises _ _ _ _ _ _)

/-- What O33 says of a single-precision instruction with these operands. -/
abbrev SingleCompleted (s t : State) (frD : Reg) (rc : Bool) (singles : Prop) : Prop :=
  FpResultFrame s t frD rc ∧ (singles → rc = true → crField t 1 = field t.fpscr 0 4)

theorem fpSingle_completes {s : State} (fp : msrFp s = true) (kind : FpKind) (frD frA frB frC : Reg) (rc : Bool) :
    FpEnds s (fpSingle kind frD frA frB frC rc s) fun t =>
      SingleCompleted s t frD rc (∀ x ∈ fpOperands kind (fprGet s frA) (fprGet s frB) (fprGet s frC), isSingle x) := by
  have raised := fpArith_raises true kind s.fpscr (fprGet s frA) (fprGet s frB) (fprGet s frC)
  rw [fpSingle, needsFp_of_fp fp, fpCommitSingle]
  split
  · exact (fpCommit_completes s frD rc raised).mono fun t h => ⟨h.1, fun _ => h.2⟩
  · next other =>
    refine (fpCommitAny_completes s frD rc raised).mono fun t h => ⟨h, fun singles => absurd ?_ other⟩
    exact List.all_eq_true.mpr fun x hx => (fpSingleRep_iff x).mpr (singles x hx)

theorem fres_completes {s : State} (fp : msrFp s = true) (frD frB : Reg) (rc : Bool) :
    FpEnds s (execFres frD frB rc s) fun t => SingleCompleted s t frD rc (isSingle (fprGet s frB)) := by
  have estimate (ordinary : Bool) {r : FpResult} (h : Raises r.exc) :
      FpEnds s (fpCommitEstimate frD rc ordinary r s) fun t => SingleCompleted s t frD rc (isSingle (fprGet s frB)) :=
    (fpCommitEstimate_completes s frD rc ordinary h).mono fun t done => ⟨done.1, fun _ => done.2⟩
  have any {r : FpResult} (h : Raises r.exc) (other : ¬ fpSingleRep (fprGet s frB) = true) :
      FpEnds s (fpCommitAny frD rc r s) fun t => SingleCompleted s t frD rc (isSingle (fprGet s frB)) :=
    (fpCommitAny_completes s frD rc h).mono fun t done => ⟨done, fun single => absurd ((fpSingleRep_iff _).mpr single) other⟩
  rw [execFres, needsFp_of_fp fp]
  dsimp only
  cases special : fresSpecial s.fpscr (flushOperand s.fpscr (fprGet s frB)) with
  | some r =>
    dsimp only
    split
    · exact estimate false (fresSpecial_raises special)
    · next other => exact any (fresSpecial_raises special) fun single => other (by rw [single, Bool.true_or])
  | none =>
    dsimp only
    split
    · next other => exact any (fresOrdinary_raises _ _) (by simpa using other)
    · split
      · exact (fpCommit_completes s frD rc (fresFlushed_raises _ _)).mono fun t done => ⟨done.1, fun _ => done.2⟩
      · exact estimate true (fresOrdinary_raises _ _)

theorem frsqrte_completes {s : State} (fp : msrFp s = true) (frD frB : Reg) (rc : Bool) :
    FpEnds s (execFrsqrte frD frB rc s) fun t => ArithCompleted s t frD rc := by
  rw [execFrsqrte, needsFp_of_fp fp]
  cases special : frsqrteSpecial s.fpscr (flushOperand s.fpscr (fprGet s frB)) with
  | some r => exact fpCommitEstimate_completes s frD rc false (frsqrteSpecial_raises special)
  | none => exact fpCommitEstimate_completes s frD rc true raises_none

theorem forall_pair {p : DWord → Prop} {x y : DWord} (hx : p x) (hy : p y) : ∀ z ∈ [x, y], p z := by
  simp [hx, hy]

theorem forall_triple {p : DWord → Prop} {x y z : DWord} (hx : p x) (hy : p y) (hz : p z) : ∀ w ∈ [x, y, z], p w := by
  simp [hx, hy, hz]

/-- Settles O33, by the three ends of the arithmetic instructions, and the bits their results raise. -/
theorem floatArithmeticCompletes : Obligations.FloatArithmeticCompletes := by
  unfold Obligations.FloatArithmeticCompletes
  intro s frD frA frB frC rc fp
  constructor
  · intro i hi
    simp only [fpDoubleInstrs, List.mem_cons, List.not_mem_nil, or_false] at hi
    rcases hi with rfl | rfl | rfl | rfl | rfl | rfl | rfl | rfl | rfl | rfl | rfl | rfl
    · exact fpDouble_completes fp .add frD frA frB frB rc
    · exact fpDouble_completes fp .sub frD frA frB frB rc
    · exact fpDouble_completes fp .mul frD frA frC frC rc
    · exact fpDouble_completes fp .div frD frA frB frB rc
    · exact fpDouble_completes fp (.madd false false) frD frA frB frC rc
    · exact fpDouble_completes fp (.madd true false) frD frA frB frC rc
    · exact fpDouble_completes fp (.madd false true) frD frA frB frC rc
    · exact fpDouble_completes fp (.madd true true) frD frA frB frC rc
    · show FpEnds s (execFrsp frD frB rc s) _
      rw [execFrsp, needsFp_of_fp fp]
      exact fpCommit_completes s frD rc (fpToSingle_raises _ _)
    · show FpEnds s (execFctiw frD frB rc s) _
      rw [execFctiw, needsFp_of_fp fp]
      exact intCommit_completes s frD rc (fpToInt_raises _ _ _)
    · show FpEnds s (execFctiwz frD frB rc s) _
      rw [execFctiwz, needsFp_of_fp fp]
      exact intCommit_completes s frD rc (fpToInt_raises _ _ _)
    · exact frsqrte_completes fp frD frB rc
  · have single {o : Out} {singles : Prop} (h : FpEnds s o fun t => SingleCompleted s t frD rc singles)
        (enough : isSingle (fprGet s frA) → isSingle (fprGet s frB) → isSingle (fprGet s frC) → singles) :
        FpEnds s o fun t => FpResultFrame s t frD rc ∧ (isSingle (fprGet s frA) → isSingle (fprGet s frB) →
          isSingle (fprGet s frC) → rc = true → crField t 1 = field t.fpscr 0 4) :=
      h.mono fun t done => ⟨done.1, fun a b c => done.2 (enough a b c)⟩
    intro i hi
    simp only [fpSingleInstrs, List.mem_cons, List.not_mem_nil, or_false] at hi
    rcases hi with rfl | rfl | rfl | rfl | rfl | rfl | rfl | rfl | rfl
    · exact single (fpSingle_completes fp .add frD frA frB frB rc) fun a b _ => forall_pair a b
    · exact single (fpSingle_completes fp .sub frD frA frB frB rc) fun a b _ => forall_pair a b
    · exact single (fpSingle_completes fp .mul frD frA frC frC rc) fun a _ c => forall_pair a c
    · exact single (fpSingle_completes fp .div frD frA frB frB rc) fun a b _ => forall_pair a b
    · exact single (fpSingle_completes fp (.madd false false) frD frA frB frC rc) fun a b c => forall_triple a b c
    · exact single (fpSingle_completes fp (.madd true false) frD frA frB frC rc) fun a b c => forall_triple a b c
    · exact single (fpSingle_completes fp (.madd false true) frD frA frB frC rc) fun a b c => forall_triple a b c
    · exact single (fpSingle_completes fp (.madd true true) frD frA frB frC rc) fun a b c => forall_triple a b c
    · exact single (fres_completes fp frD frB rc) fun _ b _ => b

end Sys2Proof.Machine
end

section
/-! PROOF. O35: NaN operands, invalid operations, division by zero. -/

namespace Sys2Proof.Machine

/-! ## Operands as the procedure reads them -/

theorem fpIsNan_fpZero (s : Bool) : fpIsNan (fpZero s) = false := by cases s <;> decide

theorem fpIsDenormal_not_nan {x : DWord} (h : fpIsDenormal x = true) : fpIsNan x = false := by
  have both : fpExp x = 0 ∧ fpFrac x ≠ 0 := by simpa [fpIsDenormal] using h
  simp [fpIsNan, both.1]

/-- Reading a denormalised operand as zero makes no NaN and takes none away. -/
theorem fpIsNan_flushOperand (f : Word) (x : DWord) : fpIsNan (flushOperand f x) = fpIsNan x := by
  unfold flushOperand
  split
  · next h => rw [fpIsNan_fpZero, fpIsDenormal_not_nan ((Bool.and_eq_true _ _).mp h).2]
  · rfl

theorem flushOperand_of_nan (f : Word) {x : DWord} (h : fpIsNan x = true) : flushOperand f x = x := by
  rw [flushOperand, if_neg]
  intro denormal
  have := fpIsDenormal_not_nan ((Bool.and_eq_true _ _).mp denormal).2
  rw [h] at this
  exact absurd this (by decide)

theorem fpIsSnan_flushOperand (f : Word) (x : DWord) : fpIsSnan (flushOperand f x) = fpIsSnan x := by
  cases h : fpIsNan x
  · rw [fpIsSnan, fpIsSnan, fpIsNan_flushOperand, h, Bool.false_and, Bool.false_and]
  · rw [flushOperand_of_nan f h]

theorem fpOperands_flush (kind : FpKind) (f : Word) (a b c : DWord) :
    fpOperands kind (flushOperand f a) (flushOperand f b) (flushOperand f c) = (fpOperands kind a b c).map (flushOperand f) := by
  cases kind <;> rfl

theorem flushOperand_ieee {f : Word} (h : bitAt f 29 = false) (x : DWord) : flushOperand f x = x := by
  have ni : fpNonIeee f = false := by simp [fpNonIeee, fpNi, h]
  simp [flushOperand, ni]

/-- The first NaN of the operands, made quiet. -/
theorem fpNanResult_flush (kind : FpKind) (f : Word) {a b c x : DWord} {before after : List DWord}
    (split : fpOperands kind a b c = before ++ x :: after) (numbers : ∀ y ∈ before, ¬ isNan y) (nan : isNan x) :
    fpNanResult (fpOperands kind (flushOperand f a) (flushOperand f b) (flushOperand f c)) = quiet x := by
  have first : ((before ++ x :: after).map (flushOperand f)).find? fpIsNan = some x := by
    rw [List.find?_map, List.find?_append, List.find?_eq_none.mpr, Option.none_or, List.find?_cons_of_pos]
    · rw [Option.map_some, flushOperand_of_nan f ((fpIsNan_iff x).mpr nan)]
    · rw [Function.comp_apply, fpIsNan_flushOperand]
      exact (fpIsNan_iff x).mpr nan
    · intro y hy
      rw [Function.comp_apply, fpIsNan_flushOperand]
      exact fun h => numbers y hy ((fpIsNan_iff y).mp h)
  rw [fpNanResult, fpOperands_flush, split, first]

theorem any_flush (p : DWord → Bool) (kind : FpKind) (f : Word) (same : ∀ x, p (flushOperand f x) = p x) (a b c : DWord) :
    (fpOperands kind (flushOperand f a) (flushOperand f b) (flushOperand f c)).any p = (fpOperands kind a b c).any p := by
  rw [fpOperands_flush, List.any_map]
  exact congrArg (List.any _) (funext same)

/-- A NaN made quiet is a NaN. -/
theorem fpIsNan_quiet {x : DWord} (h : isNan x) : fpIsNan (quiet x) = true := by
  have mask : ∀ k : Fin 64, bitAt (0x0008000000000000 : DWord) k.val = decide (k.val = 12) := by decide
  have bit {k : Nat} (hk : k < 64) : bitAt (quiet x) k = (bitAt x k || decide (k = 12)) := by
    rw [quiet, bitAt_or, mask ⟨k, hk⟩]
  refine (fpIsNan_iff _).mpr ⟨?_, fun zero => ?_⟩
  · rw [← h.1]
    apply eq_of_bitAt
    intro k hk
    rw [bitAt_field _ (by decide) hk, bitAt_field _ (by decide) hk, bit (by omega), decide_eq_false (by omega), Bool.or_false]
  · have set := bitAt_field (quiet x) (first := 12) (len := 52) (k := 0) (by decide) (by decide)
    rw [zero, bit (by decide)] at set
    simp [bitAt] at set

theorem fprfOf_nan (single : Bool) {x : DWord} (h : fpIsNan x = true) : fprfOf single x = 0b10001 := by
  rw [fprfOf, if_pos h]

/-! ## How the instructions run -/

/-- The instruction of a precision, on operands of that precision, ends with what the procedure decides. -/
theorem arith_run {s : State} (fp : msrFp s = true) (kind : FpKind) (frD frA frB frC : Reg) (rc single : Bool)
    (singles : single = true → ∀ x ∈ fpOperands kind (fprGet s frA) (fprGet s frB) (fprGet s frC), isSingle x) :
    (if single then fpSingle kind frD frA frB frC rc s else fpDouble kind frD frA frB frC rc s) =
      fpCommit frD rc (fpArith single kind s.fpscr (fprGet s frA) (fprGet s frB) (fprGet s frC)) s := by
  cases single
  · show fpDouble kind frD frA frB frC rc s = _
    rw [fpDouble, needsFp_of_fp fp]
  · have all : (fpOperands kind (fprGet s frA) (fprGet s frB) (fprGet s frC)).all fpSingleRep = true :=
      List.all_eq_true.mpr fun x hx => (fpSingleRep_iff x).mpr (singles rfl x hx)
    show fpSingle kind frD frA frB frC rc s = _
    rw [fpSingle, needsFp_of_fp fp, fpCommitSingle, if_pos all]

/-! ## NaN operands -/

theorem field_status {f : Word} {fr fi : Bool} {c : BitVec 5} (hr : bitAt f 13 = fr) (hi : bitAt f 14 = fi)
    (hc : field f 15 5 = c) : field f 13 7 = ofBit fr ++ ofBit fi ++ c := by
  rw [← hr, ← hi, ← hc, ofBit_bitAt f (by decide), ofBit_bitAt f (by decide), field_append_field f (by decide),
    field_append_field f (by decide)]

/-- What the procedure decides of operands with a NaN among them (R607). -/
theorem arith_nan (single : Bool) (kind : FpKind) (f : Word) {a b c x : DWord} {before after : List DWord}
    (split : fpOperands kind a b c = before ++ x :: after) (numbers : ∀ y ∈ before, ¬ isNan y) (nan : isNan x) :
    ∃ exc, ((∃ y ∈ fpOperands kind a b c, isSnan y) → bitAt exc 7 = true) ∧
      (fpArith single kind f a b c = fpExact single (quiet x) exc ∧
          ((∃ y ∈ fpOperands kind a b c, isSnan y) → bitAt f 24 = false) ∨
        fpArith single kind f a b c = fpSuppressed exc ∧ bitAt f 24 = true) := by
  have first := fpNanResult_flush kind f split numbers nan
  have anyNan : (fpOperands kind (flushOperand f a) (flushOperand f b) (flushOperand f c)).any fpIsNan = true := by
    rw [any_flush _ kind f (fpIsNan_flushOperand f), split]
    exact List.any_eq_true.mpr ⟨x, by simp, (fpIsNan_iff x).mpr nan⟩
  have snan : (∃ y ∈ fpOperands kind a b c, isSnan y) →
      bitAt (arithExc kind (flushOperand f a) (flushOperand f b) (flushOperand f c)) 7 = true := by
    rintro ⟨y, hy, signalling⟩
    have any : (fpOperands kind (flushOperand f a) (flushOperand f b) (flushOperand f c)).any fpIsSnan = true := by
      rw [any_flush _ kind f (fpIsSnan_flushOperand f)]
      exact List.any_eq_true.mpr ⟨y, hy, (fpIsSnan_iff y).mpr signalling⟩
    rw [arithExc, if_pos any, bitAt_or, vxsnanBit, bitAt_maskBit _ _ (by decide)]
    simp
  rw [fpArith_eq]
  unfold arithFlushed
  by_cases invalid : (arithExc kind (flushOperand f a) (flushOperand f b) (flushOperand f c) != 0) = true
  · refine ⟨_, snan, ?_⟩
    rw [if_pos invalid, first]
    cases ve : bitAt f 24
    · exact .inl ⟨if_neg (by rw [fpVe, ve]; decide), fun _ => rfl⟩
    · exact .inr ⟨if_pos ve, rfl⟩
  · have none : ¬ ∃ y ∈ fpOperands kind a b c, isSnan y := by
      intro some
      have bit := snan some
      rw [show arithExc kind (flushOperand f a) (flushOperand f b) (flushOperand f c) = 0 by simpa using invalid] at bit
      simp [bitAt] at bit
    refine ⟨0, fun some => absurd some none, .inl ⟨?_, fun some => absurd some none⟩⟩
    rw [if_neg invalid, if_pos anyNan, first]

theorem nan_ends (s : State) (frD : Reg) (rc single : Bool) (kind : FpKind) {a b c x : DWord} {before after : List DWord}
    (split : fpOperands kind a b c = before ++ x :: after) (numbers : ∀ y ∈ before, ¬ isNan y) (nan : isNan x) :
    FpEnds s (fpCommit frD rc (fpArith single kind s.fpscr a b c) s) fun t =>
      (bitAt s.fpscr 24 = false → fprGet t frD = x ||| 0x0008000000000000 ∧ field t.fpscr 13 7 = 0b0010001) ∧
      ((∃ y ∈ fpOperands kind a b c, isSnan y) → bitAt t.fpscr 7 = true ∧ (bitAt s.fpscr 24 = true → t.fpr = s.fpr)) := by
  obtain ⟨exc, bit7, decided⟩ := arith_nan single kind s.fpscr split numbers nan
  have raised (fr fi : Bool) (code : Option (BitVec 5)) (some : ∃ y ∈ fpOperands kind a b c, isSnan y) :
      bitAt (fpscrAfter s.fpscr exc fr fi code) 7 = true := by
    rw [bitAt_fpscrAfter_cause _ _ _ _ _ (by decide) (by decide) (by decide), bit7 some]
    simp
  refine (fpCommit_ends s frD rc _).mono fun t ⟨fr, isFr, committed⟩ => ?_
  rcases decided with ⟨result, quietly⟩ | ⟨result, ve⟩
  · rw [result] at isFr committed
    obtain rfl : fr = false := isFr rfl
    change FpCommitted s t frD rc (some (quiet x)) (fpscrAfter s.fpscr exc false false (some (fprfOf single (quiet x)))) at committed
    refine ⟨fun _ => ⟨(committed.written _ rfl).1, ?_⟩, fun some => ⟨?_, fun ve => ?_⟩⟩
    · rw [committed.fpscr, field_status (bitAt_fpscrAfter_fr _ _ _ _ _) (bitAt_fpscrAfter_fi _ _ _ _ _)
        (field_fpscrAfter_fprf _ _ _ _ _), fprfOf_nan single (fpIsNan_quiet nan)]
      rfl
    · rw [committed.fpscr]
      exact raised _ _ _ some
    · rw [quietly some] at ve
      exact absurd ve (by decide)
  · rw [result] at committed
    refine ⟨fun off => ?_, fun some => ⟨?_, fun _ => (committed.kept rfl).1⟩⟩
    · rw [ve] at off
      exact absurd off (by decide)
    · rw [committed.fpscr]
      exact raised _ _ _ some

/-! ## Invalid operations and division by zero -/

/-- An operation that raises a cause and, where that exception is enabled, writes nothing. -/
theorem special_ends (s : State) (frD : Reg) (rc single enabled : Bool) {r : FpResult} {v : DWord} {exc : Word} {cause : Nat}
    (result : r = if enabled then fpSuppressed exc else fpExact single v exc) (which : cause ∈ [5, 8, 9, 10, 11])
    (raised : bitAt exc cause = true) :
    FpEnds s (fpCommit frD rc r s) fun t =>
      bitAt t.fpscr cause = true ∧ field t.fpscr 13 2 = 0 ∧ if enabled then t.fpr = s.fpr else fprGet t frD = v := by
  have all : ∀ k ∈ [5, 8, 9, 10, 11], k < 32 ∧ k < 13 ∧ (k ≠ 0 ∧ k ≠ 1 ∧ k ≠ 2 ∧ k ≠ 20) := by decide
  obtain ⟨small, status, summary⟩ := all cause which
  have after (fr : Bool) (c : Option (BitVec 5)) : bitAt (fpscrAfter s.fpscr exc fr false c) cause = true := by
    rw [bitAt_fpscrAfter_cause _ _ _ _ _ small (.inl status) summary, raised]
    simp
  have cleared (c : Option (BitVec 5)) : field (fpscrAfter s.fpscr exc false false c) 13 2 = 0 := by
    rw [← field_append_field _ (f := 13) (l := 1) (m := 1) (by decide), ← ofBit_bitAt _ (by decide), ← ofBit_bitAt _ (by decide),
      bitAt_fpscrAfter_fr, bitAt_fpscrAfter_fi]
    rfl
  refine (fpCommit_ends s frD rc _).mono fun t ⟨fr, isFr, committed⟩ => ?_
  rw [result] at isFr committed
  cases enabled
  · obtain rfl : fr = false := isFr rfl
    exact ⟨by rw [committed.fpscr]; exact after _ _, by rw [committed.fpscr]; exact cleared _, (committed.written _ rfl).1⟩
  · obtain rfl : fr = false := isFr rfl
    exact ⟨by rw [committed.fpscr]; exact after _ _, by rw [committed.fpscr]; exact cleared _, (committed.kept rfl).1⟩

/-- An invalid operation on numbers: its cause, and the default NaN or nothing. -/
theorem invalid_ends (s : State) (frD : Reg) (rc single : Bool) (kind : FpKind) {a b c : DWord} {cause : Nat}
    (ieee : bitAt s.fpscr 29 = false) (which : cause ∈ [8, 9, 10, 11]) (raised : bitAt (fpInvalid kind a b c) cause = true)
    (numbers : ∀ x ∈ fpOperands kind a b c, ¬ isNan x) :
    FpEnds s (fpCommit frD rc (fpArith single kind s.fpscr a b c) s) fun t =>
      bitAt t.fpscr cause = true ∧ field t.fpscr 13 2 = 0 ∧
        if bitAt s.fpscr 24 then t.fpr = s.fpr else fprGet t frD = 0x7FF8000000000000 := by
  have bit : bitAt (arithExc kind a b c) cause = true := by rw [arithExc, bitAt_or, raised, Bool.or_true]
  have some : (arithExc kind a b c != 0) = true := by
    rw [bne_iff_ne]
    intro zero
    rw [zero] at bit
    simp [bitAt] at bit
  have nan : fpNanResult (fpOperands kind a b c) = defaultNan := by
    rw [fpNanResult, List.find?_eq_none.mpr]
    exact fun x hx h => numbers x hx ((fpIsNan_iff x).mp h)
  have result : fpArith single kind s.fpscr a b c =
      if bitAt s.fpscr 24 then fpSuppressed (arithExc kind a b c) else fpExact single defaultNan (arithExc kind a b c) := by
    rw [fpArith_eq, flushOperand_ieee ieee, flushOperand_ieee ieee, flushOperand_ieee ieee, arithFlushed, if_pos some, nan, fpVe]
  exact special_ends s frD rc single _ result (List.mem_cons_of_mem 5 which) bit

/-- A finite number by zero: ZX, and the infinity or nothing. -/
theorem zeroDivide_ends (s : State) (frD : Reg) (rc single : Bool) {a b : DWord} (ieee : bitAt s.fpscr 29 = false)
    (finite : fpIsNan a = false ∧ fpIsInf a = false) (nonzero : fpIsZero a = false) (zero : fpIsZero b = true) (c : DWord) :
    FpEnds s (fpCommit frD rc (fpArith single .div s.fpscr a b c) s) fun t =>
      bitAt t.fpscr 5 = true ∧ field t.fpscr 13 2 = 0 ∧
        if bitAt s.fpscr 27 then t.fpr = s.fpr else fprGet t frD = fpInf (fpSign a != fpSign b) := by
  have parts : fpExp b = 0 ∧ fpFrac b = 0 := by simpa [fpIsZero] using zero
  have notNan : fpIsNan b = false := by simp [fpIsNan, parts.1]
  have none : ¬ (arithExc .div a b c != 0) = true := by
    simp [arithExc, fpOperands, fpInvalid, fpIsSnan, finite, notNan, nonzero]
  have numbers : ¬ (fpOperands .div a b c).any fpIsNan = true := by simp [fpOperands, finite, notNan]
  have result : fpArith single .div s.fpscr a b c =
      if bitAt s.fpscr 27 then fpSuppressed zxBit else fpExact single (fpInf (fpSign a != fpSign b)) zxBit := by
    rw [fpArith_eq, flushOperand_ieee ieee, flushOperand_ieee ieee, flushOperand_ieee ieee, arithFlushed, if_neg none,
      if_neg numbers, if_pos (by simp [zero, finite]), fpZe]
  exact special_ends s frD rc single _ result (by decide) (by decide)

/-! ## The classes as O35 tells them -/

/-- The pattern of an infinity, of a zero. -/
abbrev IsInf (x : DWord) : Prop := field x 1 63 = 0x7FF0000000000000
abbrev IsZero (x : DWord) : Prop := field x 1 63 = 0

theorem isInf_iff (x : DWord) : IsInf x ↔ fpIsInf x = true := by
  rw [fpIsInf_iff, fpBits, IsInf, ← BitVec.toNat_inj]
  rfl

theorem isZero_iff (x : DWord) : IsZero x ↔ fpIsZero x = true := by
  rw [fpIsZero_iff, ← Int.natAbs_eq_zero, natAbs_scaledValue, magnitude_eq_zero, fpBits, IsZero, ← BitVec.toNat_inj]
  rfl

theorem IsInf.class {x : DWord} (h : IsInf x) : fpIsInf x = true ∧ fpIsZero x = false ∧ fpIsNan x = false := by
  have inf := (isInf_iff x).mp h
  have both : fpExp x = 2047 ∧ fpFrac x = 0 := by simpa [fpIsInf] using inf
  exact ⟨inf, by simp [fpIsZero, both.1], by simp [fpIsNan, both.2]⟩

theorem IsZero.class {x : DWord} (h : IsZero x) : fpIsZero x = true ∧ fpIsInf x = false ∧ fpIsNan x = false := by
  have zero := (isZero_iff x).mp h
  have both : fpExp x = 0 ∧ fpFrac x = 0 := by simpa [fpIsZero] using zero
  exact ⟨zero, by simp [fpIsInf, both.1], by simp [fpIsNan, both.1]⟩

theorem not_isNan {x : DWord} (h : fpIsNan x = false) : ¬ isNan x := by
  rw [← fpIsNan_iff, h]
  decide

theorem IsInf.notNan {x : DWord} (h : IsInf x) : ¬ isNan x := not_isNan h.class.2.2
theorem IsZero.notNan {x : DWord} (h : IsZero x) : ¬ isNan x := not_isNan h.class.2.2

/-! ## The invalid conditions -/

theorem invalidSum_bit {x y : Bool} (differ : x ≠ y) : bitAt (invalidSum true x true y) 8 = true := by
  rw [invalidSum, bne_iff_ne.mpr differ]
  decide

theorem infTimesZero_of {a c : DWord} (h : (IsInf a ∧ IsZero c) ∨ (IsZero a ∧ IsInf c)) :
    infTimesZero a c = true ∧ ¬ isNan a ∧ ¬ isNan c := by
  rcases h with ⟨ha, hc⟩ | ⟨ha, hc⟩
  · exact ⟨by simp [infTimesZero, ha.class, hc.class], ha.notNan, hc.notNan⟩
  · exact ⟨by simp [infTimesZero, ha.class, hc.class], ha.notNan, hc.notNan⟩

theorem productInf_of {a c : DWord} (h : (IsInf a ∧ ¬ isNan c ∧ ¬ IsZero c) ∨ (IsInf c ∧ ¬ isNan a ∧ ¬ IsZero a)) :
    productInf a c = true ∧ infTimesZero a c = false ∧ ¬ isNan a ∧ ¬ isNan c := by
  have number {x : DWord} (nan : ¬ isNan x) : fpIsNan x = false := eq_false_of_ne_true (mt (fpIsNan_iff x).mp nan)
  have nonzero {x : DWord} (zero : ¬ IsZero x) : fpIsZero x = false := eq_false_of_ne_true (mt (isZero_iff x).mpr zero)
  rcases h with ⟨inf, nan, zero⟩ | ⟨inf, nan, zero⟩
  · exact ⟨by simp [productInf, inf.class, number nan], by simp [infTimesZero, inf.class, nonzero zero], inf.notNan, nan⟩
  · exact ⟨by simp [productInf, inf.class, number nan], by simp [infTimesZero, inf.class, nonzero zero], nan, inf.notNan⟩

theorem madd_timesZero_bit {a c : DWord} (b : DWord) (minus negated : Bool) (h : infTimesZero a c = true) :
    bitAt (fpInvalid (.madd minus negated) a b c) 11 = true := by
  rw [fpInvalid, if_pos h]
  decide

theorem madd_sum_bit {a b c : DWord} (minus negated : Bool) (product : productInf a c = true) (notZero : infTimesZero a c = false)
    (inf : IsInf b) (differ : (fpSign a != fpSign c) ≠ (fpSign b != minus)) :
    bitAt (fpInvalid (.madd minus negated) a b c) 8 = true := by
  rw [fpInvalid, if_neg (by rw [notZero]; decide), product, inf.class.1]
  exact invalidSum_bit differ

/-- Settles O35, by what the arithmetic procedure decides of its special operands. -/
theorem floatSpecialResults : Obligations.FloatSpecialResults := by
  unfold Obligations.FloatSpecialResults
  intro s frD frA frB frC rc single fp a b c singles form add sub mul div madd msub nmadd nmsub nan
  have pair {x y : DWord} (h : single = true → isSingle x ∧ isSingle y) : single = true → ∀ z ∈ [x, y], isSingle z :=
    fun on => forall_pair (h on).1 (h on).2
  have all : single = true → ∀ z ∈ [a, b, c], isSingle z :=
    fun on => forall_triple (singles on).1 (singles on).2.1 (singles on).2.2
  have ab : single = true → ∀ z ∈ [a, b], isSingle z := pair fun on => ⟨(singles on).1, (singles on).2.1⟩
  have ac : single = true → ∀ z ∈ [a, c], isSingle z := pair fun on => ⟨(singles on).1, (singles on).2.2⟩
  have run {double narrow : Instr} (kind : FpKind) (frA frB frC : Reg)
      (hd : exec double s = fpDouble kind frD frA frB frC rc s) (hn : exec narrow s = fpSingle kind frD frA frB frC rc s)
      (of : single = true → ∀ x ∈ fpOperands kind (fprGet s frA) (fprGet s frB) (fprGet s frC), isSingle x) :
      exec (form double narrow) s =
        fpCommit frD rc (fpArith single kind s.fpscr (fprGet s frA) (fprGet s frB) (fprGet s frC)) s := by
    rw [← arith_run fp kind frD frA frB frC rc single of]
    show exec (if single then narrow else double) s = _
    cases single
    · exact hd
    · exact hn
  have addRun : exec add s = fpCommit frD rc (fpArith single .add s.fpscr a b b) s :=
    run .add frA frB frB rfl rfl ab
  have subRun : exec sub s = fpCommit frD rc (fpArith single .sub s.fpscr a b b) s :=
    run .sub frA frB frB rfl rfl ab
  have mulRun : exec mul s = fpCommit frD rc (fpArith single .mul s.fpscr a c c) s :=
    run .mul frA frC frC rfl rfl ac
  have divRun : exec div s = fpCommit frD rc (fpArith single .div s.fpscr a b b) s :=
    run .div frA frB frB rfl rfl ab
  have maddRun : exec madd s = fpCommit frD rc (fpArith single (.madd false false) s.fpscr a b c) s :=
    run (.madd false false) frA frB frC rfl rfl all
  have msubRun : exec msub s = fpCommit frD rc (fpArith single (.madd true false) s.fpscr a b c) s :=
    run (.madd true false) frA frB frC rfl rfl all
  have nmaddRun : exec nmadd s = fpCommit frD rc (fpArith single (.madd false true) s.fpscr a b c) s :=
    run (.madd false true) frA frB frC rfl rfl all
  have nmsubRun : exec nmsub s = fpCommit frD rc (fpArith single (.madd true true) s.fpscr a b c) s :=
    run (.madd true true) frA frB frC rfl rfl all
  have nanOf {i : Instr} {kind : FpKind} {x y z : DWord} (hi : exec i s = fpCommit frD rc (fpArith single kind s.fpscr x y z) s) :
      nan i (fpOperands kind x y z) := by
    intro before x after split numbers isNan
    rw [hi]
    exact nan_ends s frD rc single kind split numbers isNan
  refine ⟨⟨nanOf addRun, nanOf subRun, nanOf mulRun, nanOf divRun, nanOf maddRun, nanOf msubRun, nanOf nmaddRun,
    nanOf nmsubRun⟩, fun ieee => ?_⟩
  intro inf zero sign is default timesZero productInf
  have invalid {i : Instr} {kind : FpKind} {x y z : DWord} (hi : exec i s = fpCommit frD rc (fpArith single kind s.fpscr x y z) s)
      {cause : Nat} (which : cause ∈ [8, 9, 10, 11]) (raised : bitAt (fpInvalid kind x y z) cause = true)
      (numbers : ∀ w ∈ fpOperands kind x y z, ¬ isNan w) : is i cause 24 default := by
    show FpEnds s (exec i s) _
    rw [hi]
    exact invalid_ends s frD rc single kind ieee which raised numbers
  refine ⟨?_, ?_, ?_, ?_, ?_, ?_, ?_, ?_, ?_⟩
  · intro ia ib differ
    refine invalid addRun (by decide) ?_ (forall_pair (IsInf.notNan ia) (IsInf.notNan ib))
    rw [fpInvalid, IsInf.class ia |>.1, IsInf.class ib |>.1]
    exact invalidSum_bit differ
  · intro ia ib same
    refine invalid subRun (by decide) ?_ (forall_pair (IsInf.notNan ia) (IsInf.notNan ib))
    rw [fpInvalid, IsInf.class ia |>.1, IsInf.class ib |>.1]
    exact invalidSum_bit (show sign a ≠ !sign b by rw [same]; cases sign b <;> decide)
  · intro ia ib
    refine invalid divRun (by decide) ?_ (forall_pair (IsInf.notNan ia) (IsInf.notNan ib))
    rw [fpInvalid, if_pos (by rw [IsInf.class ia |>.1, IsInf.class ib |>.1]; rfl)]
    decide
  · intro za zb
    refine invalid divRun (by decide) ?_ (forall_pair (IsZero.notNan za) (IsZero.notNan zb))
    rw [fpInvalid, if_neg (by rw [IsZero.class za |>.2.1, Bool.false_and]; decide), if_pos (by rw [IsZero.class za |>.1, IsZero.class zb |>.1]; rfl)]
    decide
  · intro h
    obtain ⟨times, na, nc⟩ := infTimesZero_of h
    refine invalid mulRun (by decide) ?_ (forall_pair na nc)
    rw [fpInvalid, if_pos times]
    decide
  · intro h nb i hi
    obtain ⟨times, na, nc⟩ := infTimesZero_of h
    have abc := forall_triple (p := fun x => ¬ isNan x) na nb nc
    simp only [List.mem_cons, List.not_mem_nil, or_false] at hi
    rcases hi with rfl | rfl | rfl | rfl
    · exact invalid maddRun (by decide) (madd_timesZero_bit b _ _ times) abc
    · exact invalid msubRun (by decide) (madd_timesZero_bit b _ _ times) abc
    · exact invalid nmaddRun (by decide) (madd_timesZero_bit b _ _ times) abc
    · exact invalid nmsubRun (by decide) (madd_timesZero_bit b _ _ times) abc
  · intro h ib differ
    obtain ⟨product, notZero, na, nc⟩ := productInf_of h
    have abc := forall_triple (p := fun x => ¬ isNan x) na (IsInf.notNan ib) nc
    have signs : (fpSign a != fpSign c) ≠ (fpSign b != false) := by rwa [Bool.bne_false]
    exact ⟨invalid maddRun (by decide) (madd_sum_bit _ _ product notZero ib signs) abc,
      invalid nmaddRun (by decide) (madd_sum_bit _ _ product notZero ib signs) abc⟩
  · intro h ib same
    obtain ⟨product, notZero, na, nc⟩ := productInf_of h
    have abc := forall_triple (p := fun x => ¬ isNan x) na (IsInf.notNan ib) nc
    have signs : (fpSign a != fpSign c) ≠ (fpSign b != true) := by
      show (sign a != sign c) ≠ (sign b != true)
      rw [same]
      cases sign b <;> decide
    exact ⟨invalid msubRun (by decide) (madd_sum_bit _ _ product notZero ib signs) abc,
      invalid nmsubRun (by decide) (madd_sum_bit _ _ product notZero ib signs) abc⟩
  · intro finite nonzero zb
    have exp := (isFinite_iff a).mp finite
    have number : fpIsNan a = false ∧ fpIsInf a = false := by simp [fpIsNan, fpIsInf, exp]
    show FpEnds s (exec div s) _
    rw [divRun]
    exact zeroDivide_ends s frD rc single ieee number (eq_false_of_ne_true (mt (isZero_iff a).mpr nonzero))
      (IsZero.class zb).1 b

end Sys2Proof.Machine
end

section
/-! PROOF. O37: rounding to an integer, and the conversions. -/

namespace Sys2Proof.Machine

/-! ## `RInt` (R604) -/

/-- Whether a mode rounds magnitudes of a sign down, up, or to nearest. -/
def roundsDown (rn : BitVec 2) (s : Bool) : Bool := rn == 1 || (rn == 2 && s) || (rn == 3 && !s)
def roundsUp (rn : BitVec 2) (s : Bool) : Bool := (rn == 2 && !s) || (rn == 3 && s)

theorem mode_cases (rn : BitVec 2) (s : Bool) :
    (rn = 0 ∧ roundsDown rn s = false ∧ roundsUp rn s = false) ∨
      (rn ≠ 0 ∧ roundsDown rn s = true ∧ roundsUp rn s = false) ∨ (rn ≠ 0 ∧ roundsDown rn s = false ∧ roundsUp rn s = true) := by
  revert rn s
  decide

/-- `q` is `n / d` rounded to an integer. -/
structure RoundedTo (rn : BitVec 2) (s : Bool) (n d q : Nat) : Prop where
  down : roundsDown rn s = true → d * q ≤ n ∧ n < d * (q + 1)
  up : roundsUp rn s = true → n ≤ d * q ∧ d * q < n + d
  near : rn = 0 → 2 * n ≤ 2 * (d * q) + d ∧ 2 * (d * q) ≤ 2 * n + d ∧
    (2 * n = 2 * (d * q) + d ∨ 2 * (d * q) = 2 * n + d → q % 2 = 0)

/-- The decision to go up, of the remainder and the quotient. -/
def roundsUpFrom (rn : BitVec 2) (s : Bool) (q r d : Nat) : Bool :=
  if rn = 0 then decide (2 * r > d) || (2 * r == d && q % 2 == 1)
  else if rn = 1 then false else if rn = 2 then r != 0 && !s else r != 0 && s

theorem rint_eq (rn : BitVec 2) (s : Bool) (n d : Nat) :
    rint rn s n d = if roundsUpFrom rn s (n / d) (n % d) d then (n / d + 1, true, n % d != 0) else (n / d, false, n % d != 0) := rfl

theorem roundsUpFrom_directed {rn : BitVec 2} {s : Bool} (h : rn ≠ 0) (q r d : Nat) :
    roundsUpFrom rn s q r d = (roundsUp rn s && r != 0) := by
  have three : rn = 1 ∨ rn = 2 ∨ rn = 3 := by
    revert rn
    decide
  unfold roundsUpFrom
  rw [if_neg h]
  rcases three with rfl | rfl | rfl
  · rfl
  · cases s <;> cases r != 0 <;> rfl
  · cases s <;> cases r != 0 <;> rfl

/-- What `RInt` answers: the rounded number, whether it is above, and whether it is another. -/
structure RintSpec (rn : BitVec 2) (s : Bool) (n d : Nat) (a : Nat × Bool × Bool) : Prop where
  rounded : RoundedTo rn s n d a.1
  increased : a.2.1 = true ↔ n < d * a.1
  inexact : a.2.2 = false ↔ d * a.1 = n

section
variable {rn : BitVec 2} {s : Bool} {n d q r : Nat}

theorem rintSpec_stay (sum : d * q + r = n) (small : r < d) (up : roundsUp rn s = true → r = 0)
    (near : rn = 0 → 2 * r ≤ d ∧ (2 * r = d → q % 2 = 0)) : RintSpec rn s n d (q, false, r != 0) := by
  have next : d * (q + 1) = d * q + d := by ring
  generalize hb : d * q = b at sum next
  refine ⟨⟨fun _ => ?_, fun h => ?_, fun h => ?_⟩, ?_, ?_⟩ <;> dsimp only <;> rw [hb]
  · omega
  · have := up h
    omega
  · obtain ⟨half, tie⟩ := near h
    refine ⟨by omega, by omega, fun eq => tie (by omega)⟩
  · simp
    omega
  · rw [bne_eq_false_iff_eq]
    omega

theorem rintSpec_go (sum : d * q + r = n) (small : r < d) (rest : r ≠ 0) (down : roundsDown rn s = false)
    (near : rn = 0 → d ≤ 2 * r ∧ (2 * r = d → q % 2 = 1)) : RintSpec rn s n d (q + 1, true, r != 0) := by
  have next : d * (q + 1) = d * q + d := by ring
  generalize hb : d * q = b at sum next
  refine ⟨⟨fun h => ?_, fun h => ?_, fun h => ?_⟩, ?_, ?_⟩ <;> dsimp only <;> try rw [next]
  · rw [down] at h
    exact absurd h (by decide)
  · omega
  · obtain ⟨half, tie⟩ := near h
    refine ⟨by omega, by omega, fun eq => ?_⟩
    have := tie (by omega)
    omega
  · simp
    omega
  · rw [bne_eq_false_iff_eq]
    omega

end

theorem rint_spec (rn : BitVec 2) (s : Bool) (n : Nat) {d : Nat} (hd : 0 < d) : RintSpec rn s n d (rint rn s n d) := by
  have sum : d * (n / d) + n % d = n := Nat.div_add_mod n d
  have small : n % d < d := Nat.mod_lt n hd
  rw [rint_eq]
  generalize n / d = q at sum
  generalize n % d = r at sum small
  rcases mode_cases rn s with ⟨near, down, up⟩ | ⟨directed, down, up⟩ | ⟨directed, down, up⟩
  · have from_eq : roundsUpFrom rn s q r d = (decide (2 * r > d) || (2 * r == d && q % 2 == 1)) := if_pos near
    by_cases h : roundsUpFrom rn s q r d = true
    · rw [if_pos h]
      have reached : 2 * r > d ∨ (2 * r = d ∧ q % 2 = 1) := by simpa [from_eq] using h
      exact rintSpec_go sum small (by omega) down fun _ => ⟨by omega, by omega⟩
    · rw [if_neg h]
      have kept : ¬ (2 * r > d ∨ (2 * r = d ∧ q % 2 = 1)) := by simpa [from_eq] using h
      exact rintSpec_stay sum small (by simp [up]) fun _ => ⟨by omega, by omega⟩
  · rw [roundsUpFrom_directed directed, up, Bool.false_and, if_neg (by decide)]
    exact rintSpec_stay sum small (by simp [up]) fun near => absurd near directed
  · rw [roundsUpFrom_directed directed, up, Bool.true_and]
    by_cases rest : (r != 0) = true
    · rw [if_pos rest]
      exact rintSpec_go sum small (bne_iff_ne.mp rest) down fun near => absurd near directed
    · rw [if_neg rest]
      exact rintSpec_stay sum small (fun _ => by simpa using rest) fun near => absurd near directed

/-- `RInt` sees the ratio only. -/
theorem rint_congr (rn : BitVec 2) (s : Bool) {n d n' d' : Nat} (hd : 0 < d) (hd' : 0 < d') (ratio : n * d' = n' * d) :
    rint rn s n d = rint rn s n' d' := by
  have scaled (a b : Nat) {c : Nat} (hb : 0 < b) (hc : 0 < c) : rint rn s (a * c) (b * c) = rint rn s a b := by
    have twice (x : Nat) : 2 * (x * c) = (2 * x) * c := (Nat.mul_assoc _ _ _).symm
    have sides (x y : Nat) : decide (x * c > y * c) = decide (x > y) := by
      simp only [gt_iff_lt, Nat.mul_lt_mul_right hc]
    have same (x y : Nat) : (x * c == y * c) = (x == y) := by
      rw [Bool.eq_iff_iff, beq_iff_eq, beq_iff_eq, Nat.mul_left_inj hc.ne']
    have zero (x : Nat) : (x * c != 0) = (x != 0) := by
      rw [Bool.eq_iff_iff, bne_iff_ne, bne_iff_ne, Ne, Nat.mul_eq_zero]
      simp [hc.ne']
    rw [rint_eq, rint_eq, Nat.mul_div_mul_right _ _ hc, Nat.mul_mod_mul_right, roundsUpFrom, roundsUpFrom, twice, sides, same, zero]
  calc rint rn s n d = rint rn s (n * d') (d * d') := (scaled n d hd hd').symm
    _ = rint rn s (n' * d) (d' * d) := by rw [ratio, Nat.mul_comm d d']
    _ = rint rn s n' d' := scaled n' d' hd' hd

/-- A number of a rational value rounded to a multiple of a power of two. -/
theorem rintAt_eq (rn : BitVec 2) (s : Bool) {n d a b : Nat} {k t : Int} (hd : 0 < d) (hb : 0 < b)
    (ratio : (n : ℚ) / d * 2 ^ (k - t) = a / b) : rintAt rn s n d k t = rint rn s a b := by
  have hd' : (d : ℚ) ≠ 0 := by exact_mod_cast hd.ne'
  have hb' : (b : ℚ) ≠ 0 := by exact_mod_cast hb.ne'
  unfold rintAt
  split
  · next le =>
    refine rint_congr rn s hd hb ?_
    have exponent : k - t = ((k - t).natAbs : Int) := by omega
    rw [exponent, zpow_natCast] at ratio
    rw [Nat.shiftLeft_eq]
    field_simp at ratio
    have : n * 2 ^ (k - t).natAbs * b = d * a := by exact_mod_cast ratio
    linarith
  · next lt =>
    refine rint_congr rn s (by rw [Nat.shiftLeft_eq]; positivity) hb ?_
    have exponent : k - t = -((t - k).natAbs : Int) := by omega
    rw [exponent, zpow_neg, zpow_natCast] at ratio
    rw [Nat.shiftLeft_eq]
    field_simp at ratio
    have : n * b = d * 2 ^ (t - k).natAbs * a := by exact_mod_cast ratio
    linarith

/-! ## Rounding a signed number -/

/-- The rounded magnitude with its sign, in each mode (R604). -/
theorem signed_floor {s : Bool} {a b q : Nat} (hb : 0 < b) (h : RoundedTo 3 s a b q) : signedInt s q = signedInt s a / (b : Int) := by
  cases s
  · obtain ⟨low, high⟩ := h.down rfl
    have quotient : a / b = q := Nat.div_eq_of_lt_le (by linarith) (by linarith)
    show (q : Int) = (a : Int) / b
    exact_mod_cast quotient.symm
  · obtain ⟨low, high⟩ := h.up rfl
    have low : (a : Int) ≤ b * q := by exact_mod_cast low
    have high : (b : Int) * q < a + b := by exact_mod_cast high
    simp only [signedInt, if_true]
    symm
    rw [Int.ediv_eq_iff_of_pos (by exact_mod_cast hb)]
    constructor <;> linarith

theorem signed_ceil {s : Bool} {a b q : Nat} (hb : 0 < b) (h : RoundedTo 2 s a b q) :
    signedInt s q = -(-signedInt s a / (b : Int)) := by
  have flip : RoundedTo 3 (!s) a b q := ⟨fun down => h.down (by cases s <;> simp_all [roundsDown]),
    fun up => h.up (by cases s <;> simp_all [roundsUp]), fun near => absurd near (by decide)⟩
  have floor := signed_floor hb flip
  have neg (n : Nat) : signedInt (!s) n = -signedInt s n := by cases s <;> simp [signedInt]
  rw [neg, neg] at floor
  rw [← floor, neg_neg]

theorem signed_trunc {s : Bool} {a b q : Nat} (h : RoundedTo 1 s a b q) : signedInt s q = Int.tdiv (signedInt s a) (b : Int) := by
  obtain ⟨low, high⟩ := h.down rfl
  have quotient : a / b = q := Nat.div_eq_of_lt_le (by linarith) (by linarith)
  cases s
  · show (q : Int) = Int.tdiv (a : Int) b
    rw [← quotient]
    rfl
  · show -(q : Int) = Int.tdiv (-(a : Int)) b
    rw [Int.neg_tdiv, ← quotient]
    rfl

/-- To nearest: no integer is nearer, and of two as near the even one is taken. -/
theorem signed_near {s : Bool} {a b q : Nat} (hb : 0 < b) (h : RoundedTo 0 s a b q) (m : Int) :
    ((b : Int) * signedInt s q - signedInt s a).natAbs ≤ ((b : Int) * m - signedInt s a).natAbs ∧
      (m ≠ signedInt s q → ((b : Int) * signedInt s q - signedInt s a).natAbs = ((b : Int) * m - signedInt s a).natAbs →
        signedInt s q % 2 = 0) := by
  obtain ⟨low, high, tie⟩ := h.near rfl
  have even : signedInt s q % 2 = 0 ↔ q % 2 = 0 := by cases s <;> simp only [signedInt, if_true, Bool.false_eq_true, if_false] <;> omega
  obtain ⟨m', hm⟩ : ∃ m' : Int, m = if s then -m' else m' := ⟨if s then -m else m, by cases s <;> simp⟩
  have mirror (x : Int) : ((b : Int) * (if s then -x else x) - signedInt s a).natAbs = ((b : Int) * x - a).natAbs := by
    cases s
    · simp [signedInt]
    · simp only [signedInt, if_true]
      rw [show (b : Int) * -x - -a = -(b * x - a) by ring, Int.natAbs_neg]
  rw [even, hm, mirror, show signedInt s q = if s then -(q : Int) else q from rfl, mirror]
  have differ : (if s then -m' else m') ≠ (if s then -(q : Int) else q) ↔ m' ≠ q := by cases s <;> simp
  rw [differ]
  rcases lt_trichotomy m' q with less | same | greater
  · have step : (b : Int) * m' ≤ b * q - b := by
      have := mul_le_mul_of_nonneg_left (show m' ≤ q - 1 by omega) (show (0 : Int) ≤ b by positivity)
      linarith
    push_cast at *
    generalize (b : Int) * m' = y at *
    constructor
    · zify at low high; omega
    · intro _ eq
      apply tie
      zify; omega
  · subst same
    exact ⟨le_refl _, fun h => absurd rfl h⟩
  · have step : (b : Int) * q + b ≤ b * m' := by
      have := mul_le_mul_of_nonneg_left (show (q : Int) + 1 ≤ m' by omega) (show (0 : Int) ≤ b by positivity)
      linarith
    generalize (b : Int) * m' = y at *
    constructor
    · zify at low high; omega
    · intro _ eq
      apply tie
      zify; omega

/-! ## The conversions -/

/-- The number one, in the unit of values. -/
def unitOne : Nat := 2 ^ 1074

theorem unitOne_pos : 0 < unitOne := Nat.two_pow_pos 1074

/-- A finite value is its significand times its power of two. -/
theorem magnitude_ratio (x : DWord) : (fpMant x : ℚ) * 2 ^ fpPow x = (magnitude 52 (fpBits x) : Nat) / unitOne := by
  have place : fpPow x = ((fpPow x + 1074).toNat : Int) - 1074 := by
    have low : -1074 ≤ fpPow x := by
      unfold fpPow
      split <;> omega
    omega
  have value : magnitude 52 (fpBits x) = fpMant x * 2 ^ (fpPow x + 1074).toNat := by
    rw [← natAbs_scaledValue, scaledValue_mant, Int.natAbs_mul, Int.natAbs_natCast]
    cases fpSign x <;> exact Nat.one_mul _
  have unit : ((unitOne : Nat) : ℚ) = 2 ^ (1074 : Int) := by
    rw [unitOne, Nat.cast_pow]
    exact (zpow_natCast (2 : ℚ) 1074).symm
  rw [value, unit]
  conv_lhs => rw [place, zpow_sub₀ (by norm_num), zpow_natCast]
  push_cast
  ring

/-- A finite operand rounded to an integer. -/
theorem rintAt_operand (rn : BitVec 2) (s : Bool) (x : DWord) :
    rintAt rn s (fpMant x) 1 (fpPow x) 0 = rint rn s (magnitude 52 (fpBits x)) unitOne := by
  refine rintAt_eq rn s Nat.one_pos unitOne_pos ?_
  rw [Nat.cast_one, div_one, sub_zero, magnitude_ratio]

/-- What a conversion leaves of the FPSCR and of frD. -/
theorem intCommit_ends (s : State) (frD : Reg) (rc : Bool) (r : IntResult) :
    FpEnds s (intCommit frD rc r s) fun t =>
      ∃ (hi : Word) (c : Option (BitVec 5)), FpCommitted s t frD rc (r.value.map fun w => hi ++ w) (fpscrAfter s.fpscr r.exc r.fr r.fi c) := by
  unfold intCommit
  cases h : r.value with
  | none => exact (fpEnd_committed s frD rc none _ s.freeCtr).mono fun t done => ⟨0, none, done⟩
  | some w => exact (fpEnd_committed s frD rc (some ((fresh 32 s).1 ++ w)) _ (s.freeCtr + 2)).mono fun t done => ⟨_, some _, done⟩

/-- What O37 says of a conversion whose rounded integer is `n`. -/
def Converted (s t : State) (frD : Reg) (x u n : Int) : Prop :=
  if fitsWord n then field (fprGet t frD) 32 32 = BitVec.ofInt 32 n ∧ (bitAt t.fpscr 14 = false ↔ u * n = x)
  else bitAt t.fpscr 23 = true ∧
    if bitAt s.fpscr 24 then t.fpr = s.fpr
    else field (fprGet t frD) 32 32 = if n < 0 then 0x80000000 else 0x7FFFFFFF

theorem saturated_converted {s t : State} {frD : Reg} {rc : Bool} {hi sat : Word} {c : Option (BitVec 5)} (x u : Int) {n : Int}
    (ieee : bitAt s.fpscr 29 = false) (large : fitsWord n = false) (which : sat = if n < 0 then 0x80000000 else 0x7FFFFFFF)
    (h : FpCommitted s t frD rc ((intInvalid s.fpscr sat 0).value.map fun w => hi ++ w)
      (fpscrAfter s.fpscr (intInvalid s.fpscr sat 0).exc (intInvalid s.fpscr sat 0).fr (intInvalid s.fpscr sat 0).fi c)) :
    Converted s t frD x u n := by
  have ni : fpNonIeee s.fpscr = false := by simp [fpNonIeee, fpNi, ieee]
  rw [Converted, if_neg (by rw [large]; decide)]
  refine ⟨?_, ?_⟩
  · rw [h.fpscr, bitAt_fpscrAfter_cause _ _ _ _ _ (by decide) (by decide) (by decide)]
    have raised : bitAt (intInvalid s.fpscr sat 0).exc 23 = true := by
      show bitAt ((0 : Word) ||| vxcviBit) 23 = true
      decide
    rw [raised, Bool.or_true, Bool.true_or]
  · cases ve : bitAt s.fpscr 24
    · have value : (intInvalid s.fpscr sat 0).value = some sat := by simp [intInvalid, fpVe, ve, ni]
      rw [value] at h
      rw [if_neg (by decide), (h.written _ rfl).1, field_append_right _ _ (by decide) (by decide), Nat.sub_self, field_full, which]
    · have value : (intInvalid s.fpscr sat 0).value = none := by simp [intInvalid, fpVe, ve]
      rw [value] at h
      exact (h.kept rfl).1

/-- A conversion of a finite number leaves its rounded integer. -/
theorem convert_ends (s : State) (frD frB : Reg) (rc : Bool) (rn : BitVec 2) (ieee : bitAt s.fpscr 29 = false)
    (finite : isFinite (fprGet s frB)) {n : Int}
    (rounded : signedInt (fpSign (fprGet s frB))
      (rint rn (fpSign (fprGet s frB)) (magnitude 52 (fpBits (fprGet s frB))) unitOne).1 = n) :
    FpEnds s (intCommit frD rc (fpToInt s.fpscr rn (fprGet s frB)) s) fun t =>
      Converted s t frD (scaledValue (fprGet s frB)) unitOne n := by
  generalize hb : fprGet s frB = b at *
  have exp := (isFinite_iff b).mp finite
  have nan : ¬ fpIsNan b = true := by simp [fpIsNan, exp]
  have inf : ¬ fpIsInf b = true := by simp [fpIsInf, exp]
  have spec := rint_spec rn (fpSign b) (magnitude 52 (fpBits b)) unitOne_pos
  rw [fpToInt_eq, flushOperand_ieee ieee, toIntFlushed, if_neg nan, if_neg inf, rintAt_operand]
  generalize rint rn (fpSign b) (magnitude 52 (fpBits b)) unitOne = a at spec rounded ⊢
  rw [rounded]
  refine (intCommit_ends s frD rc _).mono fun t ⟨hi, c, committed⟩ => ?_
  unfold intRounded at committed
  by_cases high : n > 2147483647
  · rw [if_pos high] at committed
    exact saturated_converted _ _ ieee (by simp [fitsWord]; omega) (if_neg (by omega)).symm committed
  rw [if_neg high] at committed
  by_cases low : n < -2147483648
  · rw [if_pos low] at committed
    exact saturated_converted _ _ ieee (by simp [fitsWord]; omega) (if_pos (by omega)).symm committed
  rw [if_neg low] at committed
  rw [Converted, if_pos (by simp [fitsWord]; omega)]
  refine ⟨?_, ?_⟩
  · rw [(committed.written _ rfl).1, field_append_right _ _ (by decide) (by decide), Nat.sub_self, field_full]
  · rw [committed.fpscr, bitAt_fpscrAfter_fi, spec.inexact, scaledValue_signed, ← rounded]
    generalize unitOne = u
    cases fpSign b
    · show _ ↔ (u : Int) * (a.1 : Int) = ((magnitude 52 (fpBits b) : Nat) : Int)
      exact_mod_cast Iff.rfl
    · show _ ↔ (u : Int) * -(a.1 : Int) = -((magnitude 52 (fpBits b) : Nat) : Int)
      rw [mul_neg, neg_inj]
      exact_mod_cast Iff.rfl

/-- Settles O37, by the rounding of a ratio to an integer in each mode. -/
theorem convertToIntegerResults : Obligations.ConvertToIntegerResults := by
  unfold Obligations.ConvertToIntegerResults
  intro s frD frB rc fp ieee finite x u is
  have unit : u = (unitOne : Int) := by
    show (2 : Int) ^ 1074 = ((2 ^ 1074 : Nat) : Int)
    rw [Nat.cast_pow]
    rfl
  have value : x = signedInt (fpSign (fprGet s frB)) (magnitude 52 (fpBits (fprGet s frB))) := scaledValue_signed _
  have wz {n : Int} (rounded : signedInt (fpSign (fprGet s frB))
      (rint 1 (fpSign (fprGet s frB)) (magnitude 52 (fpBits (fprGet s frB))) unitOne).1 = n) : is (.fctiwz frD frB rc) n := by
    show FpEnds s (execFctiwz frD frB rc s) _
    rw [execFctiwz, needsFp_of_fp fp, unit]
    exact convert_ends s frD frB rc 1 ieee finite rounded
  have w (rn : BitVec 2) (mode : field s.fpscr 30 2 = rn) {n : Int} (rounded : signedInt (fpSign (fprGet s frB))
      (rint rn (fpSign (fprGet s frB)) (magnitude 52 (fpBits (fprGet s frB))) unitOne).1 = n) : is (.fctiw frD frB rc) n := by
    show FpEnds s (execFctiw frD frB rc s) _
    rw [execFctiw, needsFp_of_fp fp, unit, fpRn, mode]
    exact convert_ends s frD frB rc rn ieee finite rounded
  have spec (rn : BitVec 2) := (rint_spec rn (fpSign (fprGet s frB)) (magnitude 52 (fpBits (fprGet s frB))) unitOne_pos).rounded
  rw [value, unit]
  refine ⟨wz (signed_trunc (spec 1)), fun mode => ⟨_, fun m => ?_, w 0 mode rfl⟩, fun mode => w 1 mode (signed_trunc (spec 1)),
    fun mode => w 2 mode (signed_ceil unitOne_pos (spec 2)), fun mode => w 3 mode (signed_floor unitOne_pos (spec 3))⟩
  exact signed_near unitOne_pos (spec 0) m

end Sys2Proof.Machine
end

section
/-! PROOF. O34, O36: the exponent of a ratio; a magnitude rounded to a precision. -/

namespace Sys2Proof.Machine

/-! ## The exponent of a ratio -/

theorem zpow_toNat {e : Int} (h : 0 ≤ e) : (2 : ℚ) ^ e = ((2 ^ e.natAbs : Nat) : ℚ) := by
  obtain ⟨n, rfl⟩ := Int.eq_ofNat_of_zero_le h
  simp

theorem zpow_neg_toNat {e : Int} (h : e < 0) : (2 : ℚ) ^ e * ((2 ^ e.natAbs : Nat) : ℚ) = 1 := by
  obtain ⟨n, rfl⟩ : ∃ n : Nat, e = -(n : Int) := ⟨e.natAbs, by omega⟩
  rw [Int.natAbs_neg, Int.natAbs_natCast, zpow_neg, zpow_natCast, Nat.cast_pow]
  exact inv_mul_cancel₀ (by positivity)

/-- A comparison of two numbers with a power of two between them, told in naturals. -/
theorem power_le_ratio (n : Nat) {d : Nat} (hd : 0 < d) (g : Int) :
    (2 : ℚ) ^ g ≤ (n : ℚ) / d ↔ (if g ≥ 0 then n ≥ d <<< g.natAbs else n <<< g.natAbs ≥ d) := by
  have hd' : (0 : ℚ) < d := by exact_mod_cast hd
  rw [le_div_iff₀ hd']
  split
  · next h =>
    rw [zpow_toNat h, Nat.shiftLeft_eq, Nat.mul_comm]
    exact_mod_cast Iff.rfl
  · next h =>
    have unit := zpow_neg_toNat (show g < 0 by omega)
    have pos : (0 : ℚ) < ((2 ^ g.natAbs : Nat) : ℚ) := by positivity
    rw [Nat.shiftLeft_eq, ← mul_le_mul_iff_of_pos_right pos, mul_right_comm, unit, one_mul]
    exact_mod_cast Iff.rfl

theorem floorLog2_spec {n d : Nat} (hn : 0 < n) (hd : 0 < d) (k : Int) :
    (2 : ℚ) ^ floorLog2 n d k ≤ (n : ℚ) / d * 2 ^ k ∧ (n : ℚ) / d * 2 ^ k < 2 ^ (floorLog2 n d k + 1) := by
  have hd' : (0 : ℚ) < d := by exact_mod_cast hd
  have pos (e : Int) : (0 : ℚ) < 2 ^ e := by positivity
  have nlow : (2 : ℚ) ^ (n.log2 : Int) ≤ n := by
    rw [zpow_natCast]
    exact_mod_cast Nat.log2_self_le hn.ne'
  have nhigh : (n : ℚ) < 2 ^ ((n.log2 : Int) + 1) := by
    rw [show ((n.log2 : Int) + 1) = ((n.log2 + 1 : Nat) : Int) by push_cast; rfl, zpow_natCast]
    exact_mod_cast Nat.lt_log2_self
  have dlow : (2 : ℚ) ^ (d.log2 : Int) ≤ d := by
    rw [zpow_natCast]
    exact_mod_cast Nat.log2_self_le hd.ne'
  have dhigh : (d : ℚ) < 2 ^ ((d.log2 : Int) + 1) := by
    rw [show ((d.log2 : Int) + 1) = ((d.log2 + 1 : Nat) : Int) by push_cast; rfl, zpow_natCast]
    exact_mod_cast Nat.lt_log2_self
  obtain ⟨g, hg⟩ : ∃ g : Int, g = (n.log2 : Int) - d.log2 := ⟨_, rfl⟩
  have above : (n : ℚ) / d < 2 ^ (g + 1) := by
    rw [div_lt_iff₀ hd']
    calc (n : ℚ) < 2 ^ ((n.log2 : Int) + 1) := nhigh
      _ = 2 ^ (g + 1) * 2 ^ (d.log2 : Int) := by rw [← zpow_add₀ (by norm_num)]; congr 1; omega
      _ ≤ 2 ^ (g + 1) * d := by gcongr
  have below : (2 : ℚ) ^ (g - 1) < (n : ℚ) / d := by
    rw [lt_div_iff₀ hd']
    calc (2 : ℚ) ^ (g - 1) * d < 2 ^ (g - 1) * 2 ^ ((d.log2 : Int) + 1) := by gcongr
      _ = 2 ^ (n.log2 : Int) := by rw [← zpow_add₀ (by norm_num)]; congr 1; omega
      _ ≤ n := nlow
  have value : floorLog2 n d k = (if (2 : ℚ) ^ g ≤ (n : ℚ) / d then g else g - 1) + k := by
    unfold floorLog2
    dsimp only
    rw [← hg]
    congr 1
    exact if_congr (power_le_ratio n hd g).symm rfl rfl
  rw [value]
  split
  · next ge =>
    rw [add_right_comm, zpow_add₀ (by norm_num) g, zpow_add₀ (by norm_num) (g + 1)]
    exact ⟨mul_le_mul_of_nonneg_right ge (pos k).le, mul_lt_mul_of_pos_right above (pos k)⟩
  · next lt =>
    rw [add_right_comm, sub_add_cancel, zpow_add₀ (by norm_num) (g - 1), zpow_add₀ (by norm_num) g]
    exact ⟨mul_le_mul_of_nonneg_right below.le (pos k).le, mul_lt_mul_of_pos_right (not_le.mp lt) (pos k)⟩

/-! ## A magnitude as a ratio -/

/-- `n / d * 2^k` is `a / b` of the unit of values. -/
structure Magnitude (n d : Nat) (k : Int) (a b : Nat) : Prop where
  num : 0 < n
  den : 0 < d
  pos : 0 < b
  ratio : (n : ℚ) / d * 2 ^ (k + 1074) = (a : ℚ) / b

theorem rintAt_magnitude {n d a b : Nat} {k : Int} (h : Magnitude n d k a b) (rn : BitVec 2) (s : Bool) {t : Int} {T : Nat}
    (place : t + 1074 = T) : rintAt rn s n d k t = rint rn s a (b * 2 ^ T) := by
  have pos := h.pos
  refine rintAt_eq rn s h.den (by positivity) ?_
  have split : k - t = (k + 1074) - (T : Int) := by omega
  rw [split, zpow_sub₀ (by norm_num), ← mul_div_assoc, h.ratio, zpow_natCast]
  push_cast
  rw [div_div]

/-- The exponent of a magnitude, against a number of units. -/
theorem floorLog2_lt_iff {n d a b : Nat} {k : Int} (h : Magnitude n d k a b) {m : Int} {M : Nat} (place : m + 1074 = M) :
    floorLog2 n d k < m ↔ a < b * 2 ^ M := by
  have pos : (0 : ℚ) < b := by exact_mod_cast h.pos
  obtain ⟨low, high⟩ := floorLog2_spec h.num h.den k
  have shift : (n : ℚ) / d * 2 ^ k * 2 ^ (1074 : Int) = a / b := by rw [mul_assoc, ← zpow_add₀ (by norm_num), h.ratio]
  have value (e : Int) : (2 : ℚ) ^ e * 2 ^ (1074 : Int) = 2 ^ (e + 1074) := (zpow_add₀ (by norm_num) _ _).symm
  have one : (0 : ℚ) < 2 ^ (1074 : Int) := by positivity
  have low := mul_le_mul_of_nonneg_right low one.le
  have high := mul_lt_mul_of_pos_right high one
  rw [shift, value] at low high
  have bound : (a : ℚ) / b < 2 ^ (M : Int) ↔ a < b * 2 ^ M := by
    rw [div_lt_iff₀ pos, zpow_natCast, mul_comm]
    exact_mod_cast Iff.rfl
  rw [← bound, ← place]
  constructor
  · intro less
    exact high.trans_le (zpow_le_zpow_right₀ (by norm_num) (by omega))
  · intro less
    have := low.trans_lt less
    rw [zpow_lt_zpow_iff_right₀ (by norm_num)] at this
    omega

/-- The exponent puts a magnitude between two powers of two. -/
theorem floorLog2_bounds {n d a b : Nat} {k : Int} (h : Magnitude n d k a b) {E : Nat} (place : floorLog2 n d k + 1074 = E) :
    b * 2 ^ E ≤ a ∧ a < b * 2 ^ (E + 1) := by
  have below := (floorLog2_lt_iff h (m := floorLog2 n d k) place).not.mp (lt_irrefl _)
  have above := (floorLog2_lt_iff h (m := floorLog2 n d k + 1) (M := E + 1) (by push_cast; omega)).mp (by omega)
  exact ⟨not_lt.mp below, above⟩

/-- A magnitude scaled by a power of two. -/
theorem Magnitude.scale {n d a b : Nat} {k : Int} (h : Magnitude n d k a b) (j : Nat) : Magnitude n d (k + j) (a * 2 ^ j) b := by
  refine ⟨h.num, h.den, h.pos, ?_⟩
  rw [add_right_comm, zpow_add₀ (by norm_num), ← mul_assoc, h.ratio, zpow_natCast]
  push_cast
  ring

/-! ## Bounds of a rounded number -/

theorem RoundedTo.ge {rn : BitVec 2} {s : Bool} {n d q l : Nat} (h : RoundedTo rn s n d q) (hd : 0 < d) (low : l * d ≤ n) :
    l ≤ q := by
  rcases mode_cases rn s with ⟨near, _, _⟩ | ⟨_, down, _⟩ | ⟨_, _, up⟩
  · have := (h.near near).1
    by_contra less
    have := Nat.mul_le_mul_right d (show q + 1 ≤ l by omega)
    nlinarith
  · have := (h.down down).2
    exact Nat.lt_succ_iff.mp (Nat.lt_of_mul_lt_mul_right (a := d) (by linarith))
  · have := (h.up up).1
    exact Nat.le_of_mul_le_mul_right (by linarith) hd

theorem RoundedTo.le {rn : BitVec 2} {s : Bool} {n d q u : Nat} (h : RoundedTo rn s n d q) (hd : 0 < d) (high : n ≤ u * d) :
    q ≤ u := by
  rcases mode_cases rn s with ⟨near, _, _⟩ | ⟨_, down, _⟩ | ⟨_, _, up⟩
  · have := (h.near near).2.1
    by_contra more
    have := Nat.mul_le_mul_right d (show u + 1 ≤ q by omega)
    nlinarith
  · have := (h.down down).1
    exact Nat.le_of_mul_le_mul_right (by linarith) hd
  · have := (h.up up).2
    exact Nat.lt_succ_iff.mp (Nat.lt_of_mul_lt_mul_right (a := d) (by linarith))

/-! ## The numbers of a precision -/

/-- Where the numbers of a precision lie: `E` places up, from `2^w` units on. -/
theorem magnitude_place {w E q : Nat} (small : q ≤ 2 ^ (w + 1)) (normal : E = 0 ∨ 2 ^ w ≤ q) :
    magnitude w (E * 2 ^ w + q) = q * 2 ^ E := by
  have pos : 0 < 2 ^ w := by positivity
  rw [pow_succ] at small
  rcases Nat.lt_or_ge q (2 ^ w) with below | reached
  · obtain rfl : E = 0 := by omega
    rw [Nat.zero_mul, Nat.zero_add, magnitude_of_exp_zero below, pow_zero, Nat.mul_one]
  rcases Nat.lt_or_ge q (2 ^ w * 2) with inside | top
  · have code : E * 2 ^ w + q = (E + 1) * 2 ^ w + (q - 2 ^ w) := by
      rw [Nat.succ_mul]
      omega
    rw [code, magnitude_of_exp (Nat.succ_ne_zero E) (by omega), Nat.sub_add_cancel reached, Nat.succ_sub_one]
  · obtain rfl : q = 2 ^ w * 2 := by omega
    have code : E * 2 ^ w + 2 ^ w * 2 = (E + 2) * 2 ^ w + 0 := by ring
    rw [code, magnitude_of_exp (by omega) pos, Nat.zero_add, show E + 2 - 1 = E + 1 by omega, pow_succ]
    ring

/-- A number from `2^w` units of a place on is a multiple of that unit. -/
theorem place_dvd_magnitude {w E j : Nat} (large : 2 ^ w * 2 ^ E ≤ magnitude w j) : 2 ^ E ∣ magnitude w j := by
  have pos : 0 < 2 ^ w := by positivity
  obtain ⟨e, f, hf, rfl⟩ : ∃ e f, f < 2 ^ w ∧ j = e * 2 ^ w + f := ⟨j / 2 ^ w, j % 2 ^ w, Nat.mod_lt _ pos, (Nat.div_add_mod' j _).symm⟩
  rcases Nat.eq_zero_or_pos e with rfl | he
  · rw [Nat.zero_mul, Nat.zero_add, magnitude_of_exp_zero hf] at large
    have : 2 ^ w * 1 ≤ 2 ^ w * 2 ^ E := Nat.mul_le_mul_left _ Nat.one_le_two_pow
    omega
  · rw [magnitude_of_exp he.ne' hf] at large ⊢
    have below : (f + 2 ^ w) * 2 ^ (e - 1) < 2 ^ (w + 1) * 2 ^ (e - 1) :=
      Nat.mul_lt_mul_of_pos_right (by rw [pow_succ]; omega) (by positivity)
    rw [← pow_add] at large below
    have exponent := (Nat.pow_lt_pow_iff_right (by decide)).mp (large.trans_lt below)
    exact Dvd.dvd.mul_left (pow_dvd_pow 2 (by omega)) _

end Sys2Proof.Machine
end

section
/-! PROOF. O34: rounding among the patterns of a format. -/

namespace Sys2Proof.Machine

/-! ## Formats as grids of magnitudes -/

/-- The finite patterns of a set are those whose magnitude is one of precision `w` in the unit `2^c`; even codes are the
even patterns. -/
structure Grid (among even : DWord → Prop) (w c J : Nat) : Prop where
  code : ∀ y, isFinite y → among y → ∃ j, magnitude 52 (fpBits y) = magnitude w j * 2 ^ c
  member : ∀ x j, isFinite x → j < J → magnitude 52 (fpBits x) = magnitude w j * 2 ^ c → among x ∧ (j % 2 = 0 → even x)

/-- The last bit of a pattern, and the one above the low 29. -/
theorem evenDouble_iff (x : DWord) : evenDouble x ↔ fpBits x % 2 = 0 := by
  have last : bitAt x 63 = decide (fpBits x % 2 = 1) := by
    rw [fpBits, field_toNat]
    simp [bitAt, BitVec.getMsbD, BitVec.getLsbD, Nat.testBit_zero]
  rw [evenDouble, last]
  simp

theorem precise_iff (x : DWord) : (field x 35 29 : BitVec 29) = 0 ↔ fpBits x % 2 ^ 29 = 0 := by
  rw [fpFrac_mod_of_low, fpBits_eq]
  omega

theorem preciseEven_iff (x : DWord) : bitAt x 34 = false ↔ fpBits x / 2 ^ 29 % 2 = 0 := by
  have bit : bitAt x 34 = decide (fpBits x / 2 ^ 29 % 2 = 1) := by
    rw [fpBits, field_toNat]
    simp only [bitAt, BitVec.getMsbD, BitVec.getLsbD, Nat.testBit_eq_decide_div_mod_eq]
    norm_num
    omega
  rw [bit]
  simp

theorem doubleGrid : Grid (fun _ => True) evenDouble 52 0 (2047 * 2 ^ 52) where
  code y _ _ := ⟨fpBits y, by rw [pow_zero, Nat.mul_one]⟩
  member x j _ _ value := by
    rw [pow_zero, Nat.mul_one] at value
    rw [evenDouble_iff, (magnitude_strictMono 52).injective value]
    exact ⟨trivial, id⟩

theorem evenSingle_of {x : DWord} {j : Nat} (even : j % 2 = 0)
    (single : x = toDouble (singleOf (fpSign x) (j / 2 ^ 23) (j % 2 ^ 23))) : evenSingle x := by
  refine ⟨_, single, ?_⟩
  rw [singleOf, bitAt_append_right _ _ (by decide), bitAt]
  simp [BitVec.getMsbD, BitVec.getLsbD, Nat.testBit_zero]
  omega

theorem singleGrid : Grid isSingle evenSingle 23 925 (255 * 2 ^ 23) where
  code y finite single := by
    obtain ⟨j, _, value⟩ := (isSingle_iff_magnitude finite).mp single
    exact ⟨j, value⟩
  member x j finite small value := by
    have single := isSingle_of_magnitude small value
    exact ⟨⟨_, single⟩, fun even => evenSingle_of even single⟩

/-- The doubles of the singles' precision: codes of 23 bits, 29 places up. -/
theorem magnitude_wide (i : Nat) : magnitude 52 (i * 2 ^ 29) = magnitude 23 i * 2 ^ 29 := by
  obtain ⟨e, f, hf, rfl⟩ : ∃ e f, f < 2 ^ 23 ∧ i = e * 2 ^ 23 + f :=
    ⟨i / 2 ^ 23, i % 2 ^ 23, Nat.mod_lt _ (by decide), (Nat.div_add_mod' i _).symm⟩
  have code : (e * 2 ^ 23 + f) * 2 ^ 29 = e * 2 ^ 52 + f * 2 ^ 29 := by ring
  rw [code]
  rcases Nat.eq_zero_or_pos e with rfl | he
  · rw [Nat.zero_mul, Nat.zero_mul, Nat.zero_add, Nat.zero_add, magnitude_of_exp_zero (by omega), magnitude_of_exp_zero hf]
  · rw [magnitude_of_exp he.ne' (by omega), magnitude_of_exp he.ne' hf]
    ring

theorem preciseGrid : Grid (fun x => field x 35 29 = (0 : BitVec 29)) (fun x => bitAt x 34 = false) 23 29 (2047 * 2 ^ 23) where
  code y _ low := by
    have whole := (precise_iff y).mp low
    exact ⟨fpBits y / 2 ^ 29, by rw [← magnitude_wide, Nat.div_mul_cancel (Nat.dvd_of_mod_eq_zero whole)]⟩
  member x j _ _ value := by
    rw [← magnitude_wide] at value
    have code := (magnitude_strictMono 52).injective value
    rw [precise_iff, preciseEven_iff, code, Nat.mul_mod_left, Nat.mul_div_cancel _ (by decide)]
    exact ⟨rfl, id⟩

/-! ## A rounded number in its grid -/

/-- A finite pattern of a sign and a magnitude. -/
structure Holds (s : Bool) (v : Nat) (x : DWord) : Prop where
  sign : fpSign x = s
  finite : isFinite x
  value : magnitude 52 (fpBits x) = v

theorem Holds.scaled {s : Bool} {v : Nat} {x : DWord} (h : Holds s v x) : scaledValue x = signedInt s v := by
  rw [scaledValue_signed, h.sign, h.value]

/-- The place of a ratio `a / b`: its numbers, `q` of them, are units of the grid, or have the whole precision. -/
structure Placed (w c a b q T : Nat) : Prop where
  pos : 0 < b
  base : c ≤ T
  small : q ≤ 2 ^ (w + 1)
  normal : T = c ∨ (2 ^ w ≤ q ∧ 2 ^ w * (b * 2 ^ T) ≤ a)

theorem Placed.code {w c a b q T : Nat} (h : Placed w c a b q T) : magnitude w ((T - c) * 2 ^ w + q) * 2 ^ c = q * 2 ^ T := by
  rw [magnitude_place h.small (h.normal.imp (fun e => by omega) And.left), Nat.mul_assoc, ← pow_add, Nat.sub_add_cancel h.base]

/-- A magnitude of the grid is a multiple of the place, or below all numbers of the whole precision. -/
theorem Placed.multiple_or_below {w c a b q T : Nat} (h : Placed w c a b q T) (j : Nat) :
    (∃ k, magnitude w j * 2 ^ c = k * 2 ^ T) ∨
      (magnitude w j * 2 ^ c < 2 ^ w * 2 ^ T ∧ 2 ^ w ≤ q ∧ 2 ^ w * (b * 2 ^ T) ≤ a) := by
  rcases h.normal with rfl | ⟨whole, large⟩
  · exact .inl ⟨_, rfl⟩
  rcases Nat.lt_or_ge (magnitude w j * 2 ^ c) (2 ^ w * 2 ^ T) with below | reached
  · exact .inr ⟨below, whole, large⟩
  · have units : 2 ^ T = 2 ^ (T - c) * 2 ^ c := by rw [← pow_add, Nat.sub_add_cancel h.base]
    rw [units, ← Nat.mul_assoc] at reached
    obtain ⟨k, hk⟩ := place_dvd_magnitude (Nat.le_of_mul_le_mul_right reached (by positivity))
    exact .inl ⟨k, by rw [hk, units]; ring⟩

section
variable {w c a b q T : Nat} (h : Placed w c a b q T) (j : Nat)
include h

/-- Rounded down, no magnitude of the grid lies between. -/
theorem Placed.down (spec : b * 2 ^ T * q ≤ a ∧ a < b * 2 ^ T * (q + 1)) (below : b * (magnitude w j * 2 ^ c) ≤ a) :
    magnitude w j * 2 ^ c ≤ q * 2 ^ T := by
  rcases h.multiple_or_below j with ⟨k, eq⟩ | ⟨less, whole, _⟩
  · rw [eq] at below ⊢
    have : b * 2 ^ T * k < b * 2 ^ T * (q + 1) := by
      calc b * 2 ^ T * k = b * (k * 2 ^ T) := by ring
        _ ≤ a := below
        _ < _ := spec.2
    exact Nat.mul_le_mul_right _ (Nat.lt_succ_iff.mp (Nat.lt_of_mul_lt_mul_left this))
  · exact less.le.trans (Nat.mul_le_mul_right _ whole)

theorem Placed.up (spec : a ≤ b * 2 ^ T * q ∧ b * 2 ^ T * q < a + b * 2 ^ T) (above : a ≤ b * (magnitude w j * 2 ^ c)) :
    q * 2 ^ T ≤ magnitude w j * 2 ^ c := by
  rcases h.multiple_or_below j with ⟨k, eq⟩ | ⟨less, _, large⟩
  · rw [eq] at above ⊢
    have : b * 2 ^ T * q < b * 2 ^ T * (k + 1) := by
      calc b * 2 ^ T * q < a + b * 2 ^ T := spec.2
        _ ≤ b * (k * 2 ^ T) + b * 2 ^ T := Nat.add_le_add_right above _
        _ = _ := by ring
    exact Nat.mul_le_mul_right _ (Nat.lt_succ_iff.mp (Nat.lt_of_mul_lt_mul_left this))
  · exfalso
    have : b * (magnitude w j * 2 ^ c) < b * (2 ^ w * 2 ^ T) := Nat.mul_lt_mul_of_pos_left less h.pos
    have : b * (2 ^ w * 2 ^ T) = 2 ^ w * (b * 2 ^ T) := by ring
    omega

/-- Rounded to nearest, no magnitude of the grid is nearer, and one as near is the other of two, `q` even. -/
theorem Placed.near (spec : 2 * a ≤ 2 * (b * 2 ^ T * q) + b * 2 ^ T ∧ 2 * (b * 2 ^ T * q) ≤ 2 * a + b * 2 ^ T ∧
      (2 * a = 2 * (b * 2 ^ T * q) + b * 2 ^ T ∨ 2 * (b * 2 ^ T * q) = 2 * a + b * 2 ^ T → q % 2 = 0)) :
    ((b : Int) * (q * 2 ^ T : Nat) - a).natAbs ≤ ((b : Int) * (magnitude w j * 2 ^ c : Nat) - a).natAbs ∧
      (magnitude w j * 2 ^ c ≠ q * 2 ^ T →
        ((b : Int) * (q * 2 ^ T : Nat) - a).natAbs = ((b : Int) * (magnitude w j * 2 ^ c : Nat) - a).natAbs → q % 2 = 0) := by
  obtain ⟨high, low, tie⟩ := spec
  have own : (b : Int) * (q * 2 ^ T : Nat) = (b * 2 ^ T * q : Nat) := by push_cast; ring
  rw [own]
  rcases h.multiple_or_below j with ⟨k, eq⟩ | ⟨less, whole, large⟩
  · have other : (b : Int) * (k * 2 ^ T : Nat) = (b * 2 ^ T * k : Nat) := by push_cast; ring
    rw [eq, other]
    have differ : k * 2 ^ T ≠ q * 2 ^ T → k ≠ q := fun ne same => ne (by rw [same])
    rcases lt_trichotomy k q with before | same | after
    · have := Nat.mul_le_mul_left (b * 2 ^ T) (show k + 1 ≤ q by omega)
      rw [Nat.mul_succ] at this
      refine ⟨by omega, fun _ same => tie (by omega)⟩
    · subst same
      exact ⟨le_refl _, fun ne => absurd rfl (differ ne)⟩
    · have := Nat.mul_le_mul_left (b * 2 ^ T) (show q + 1 ≤ k by omega)
      rw [Nat.mul_succ] at this
      refine ⟨by omega, fun _ same => tie (by omega)⟩
  · have strict : (b : Int) * (magnitude w j * 2 ^ c : Nat) < (2 ^ w * (b * 2 ^ T) : Nat) := by
      have : b * (magnitude w j * 2 ^ c) < b * (2 ^ w * 2 ^ T) := Nat.mul_lt_mul_of_pos_left less h.pos
      have : b * (2 ^ w * 2 ^ T) = 2 ^ w * (b * 2 ^ T) := by ring
      zify at *
      linarith
    have reached := Nat.mul_le_mul_left (b * 2 ^ T) whole
    rw [Nat.mul_comm _ (2 ^ w)] at reached
    rcases Nat.lt_or_ge (2 ^ w) q with above | top
    · have := Nat.mul_le_mul_left (b * 2 ^ T) (show 2 ^ w + 1 ≤ q by omega)
      rw [Nat.mul_succ, Nat.mul_comm _ (2 ^ w)] at this
      refine ⟨by omega, fun _ same => by omega⟩
    · have same : q = 2 ^ w := by omega
      rw [same, Nat.mul_comm _ (2 ^ w)]
      refine ⟨by omega, fun _ same => by omega⟩

end

/-! ## Rounding of signed numbers among patterns -/

/-- The magnitude of a pattern of the set, in the grid. -/
theorem Grid.natAbs {among even : DWord → Prop} {w c J : Nat} (g : Grid among even w c J) {y : DWord} (finite : isFinite y)
    (hy : among y) : ∃ j, (scaledValue y).natAbs = magnitude w j * 2 ^ c := by
  rw [natAbs_scaledValue]
  exact g.code y finite hy

section
variable {among even : DWord → Prop} {w c J a b q T : Nat} (g : Grid among even w c J) (h : Placed w c a b q T)
include g h

theorem roundsDown_positive (spec : b * 2 ^ T * q ≤ a ∧ a < b * 2 ^ T * (q + 1)) : RoundsDown among a b (q * 2 ^ T : Nat) := by
  refine ⟨?_, fun y finite hy below => ?_⟩
  · have : b * (q * 2 ^ T) ≤ a := (by ring : b * (q * 2 ^ T) = b * 2 ^ T * q) ▸ spec.1
    exact_mod_cast this
  · obtain ⟨j, hj⟩ := g.natAbs finite hy
    rcases lt_or_ge (scaledValue y) 0 with negative | positive
    · omega
    · obtain ⟨n, hn⟩ := Int.eq_ofNat_of_zero_le positive
      rw [hn] at hj below ⊢
      rw [Int.natAbs_natCast] at hj
      subst hj
      exact_mod_cast h.down j spec (by exact_mod_cast below)

theorem roundsUp_positive (positive : 0 < a) (spec : a ≤ b * 2 ^ T * q ∧ b * 2 ^ T * q < a + b * 2 ^ T) :
    RoundsUp among a b (q * 2 ^ T : Nat) := by
  refine ⟨?_, fun y finite hy above => ?_⟩
  · have : a ≤ b * (q * 2 ^ T) := (by ring : b * (q * 2 ^ T) = b * 2 ^ T * q) ▸ spec.1
    exact_mod_cast this
  · obtain ⟨j, hj⟩ := g.natAbs finite hy
    have pos : 0 ≤ scaledValue y := by
      by_contra negative
      have : (b : Int) * scaledValue y ≤ 0 := mul_nonpos_of_nonneg_of_nonpos (by positivity) (by omega)
      omega
    obtain ⟨n, hn⟩ := Int.eq_ofNat_of_zero_le pos
    rw [hn] at hj above ⊢
    rw [Int.natAbs_natCast] at hj
    subst hj
    exact_mod_cast h.up j spec (by exact_mod_cast above)

end

/-- The numbers of a set with their signs turned. -/
def mirrored (among : DWord → Prop) (x : DWord) : Prop := among (fpNegate x)

theorem bitAt_fpNegate (x : DWord) {k : Nat} (hk : k < 64) : bitAt (fpNegate x) k = (bitAt x k ^^ decide (k = 0)) := by
  rw [fpNegate, bitAt_xor, bitAt_signMask hk]

theorem fpSign_fpNegate (x : DWord) : fpSign (fpNegate x) = !fpSign x := by
  rw [fpSign, bitAt_fpNegate x (by decide)]
  simp [fpSign]

theorem fpBits_fpNegate (x : DWord) : fpBits (fpNegate x) = fpBits x := by
  rw [fpBits, fpBits]
  congr 1
  apply eq_of_bitAt
  intro k hk
  rw [bitAt_field _ (by decide) hk, bitAt_field _ (by decide) hk, bitAt_fpNegate x (by omega), decide_eq_false (by omega), Bool.xor_false]

theorem fpNegate_fpNegate (x : DWord) : fpNegate (fpNegate x) = x :=
  pattern_ext (by rw [fpSign_fpNegate, fpSign_fpNegate, Bool.not_not]) (by rw [fpBits_fpNegate, fpBits_fpNegate])

theorem scaledValue_fpNegate (x : DWord) : scaledValue (fpNegate x) = -scaledValue x := by
  rw [scaledValue_eq, scaledValue_eq, fpSign_fpNegate, fpBits_fpNegate]
  cases fpSign x <;> simp

theorem isFinite_fpNegate (x : DWord) : isFinite (fpNegate x) ↔ isFinite x := by
  rw [isFinite_iff_bits, isFinite_iff_bits, fpBits_fpNegate]

theorem RoundsDown.mirror {among : DWord → Prop} {n d r : Int} (h : RoundsDown (mirrored among) n d r) :
    RoundsUp among (-n) d (-r) := by
  refine ⟨by linarith [h.1], fun y finite hy above => ?_⟩
  have := h.2 (fpNegate y) ((isFinite_fpNegate y).mpr finite) (by rwa [mirrored, fpNegate_fpNegate])
    (by rw [scaledValue_fpNegate]; linarith)
  rw [scaledValue_fpNegate] at this
  linarith

theorem RoundsUp.mirror {among : DWord → Prop} {n d r : Int} (h : RoundsUp (mirrored among) n d r) :
    RoundsDown among (-n) d (-r) := by
  refine ⟨by linarith [h.1], fun y finite hy below => ?_⟩
  have := h.2 (fpNegate y) ((isFinite_fpNegate y).mpr finite) (by rwa [mirrored, fpNegate_fpNegate])
    (by rw [scaledValue_fpNegate]; linarith)
  rw [scaledValue_fpNegate] at this
  linarith

/-- The mirror of a set lies in the same grid. -/
theorem Grid.mirror {among even : DWord → Prop} {w c J : Nat} (g : Grid among even w c J) :
    Grid (mirrored among) (mirrored even) w c J where
  code y finite hy := by
    have := g.code (fpNegate y) ((isFinite_fpNegate y).mpr finite) hy
    rwa [fpBits_fpNegate] at this
  member x j finite small value :=
    g.member (fpNegate x) j ((isFinite_fpNegate x).mpr finite) small (by rwa [fpBits_fpNegate])

/-- The distance of two numbers, both turned to a sign. -/
theorem natAbs_turned (s : Bool) (b : Int) (a : Nat) (y : Int) :
    (b * y - signedInt s a).natAbs = (b * (if s then -y else y) - a).natAbs := by
  cases s
  · rfl
  · show (b * y - -(a : Int)).natAbs = (b * -y - a).natAbs
    rw [← Int.natAbs_neg]
    congr 1
    ring

theorem Grid.roundsNear {among even : DWord → Prop} {w c J a b q T : Nat} {s : Bool} {x : DWord} (g : Grid among even w c J)
    (h : Placed w c a b q T) (positive : 0 < a) (spec : RoundedTo 0 s a (b * 2 ^ T) q) (evenX : q % 2 = 0 → even x)
    (hx : Holds s (q * 2 ^ T) x) : RoundsNear among even (signedInt s a) b x := by
  intro y finite hy
  obtain ⟨j, hj⟩ := g.natAbs finite hy
  obtain ⟨nearest, tie⟩ := h.near j (spec.near rfl)
  have own : (if s then -scaledValue x else scaledValue x) = ((q * 2 ^ T : Nat) : Int) := by
    rw [hx.scaled]
    cases s <;> simp [signedInt]
  have differ : scaledValue y ≠ scaledValue x → (if s then -scaledValue y else scaledValue y) ≠ ((q * 2 ^ T : Nat) : Int) := by
    rw [← own]
    cases s <;> simp
  rw [natAbs_turned, natAbs_turned, own]
  have size : (if s then -scaledValue y else scaledValue y).natAbs = magnitude w j * 2 ^ c := by
    rw [← hj]
    cases s <;> simp
  generalize (if s then -scaledValue y else scaledValue y) = v at size differ ⊢
  rcases Int.natAbs_eq v with same | opposite
  · rw [size] at same
    rw [same] at differ ⊢
    exact ⟨nearest, fun ne eq => evenX (tie (fun e => differ ne (by rw [e])) eq)⟩
  · rw [size] at opposite
    rcases Nat.eq_zero_or_pos (magnitude w j * 2 ^ c) with zero | some
    · rw [zero] at opposite nearest tie
      have v0 : v = ((0 : Nat) : Int) := by simpa using opposite
      rw [v0] at differ ⊢
      exact ⟨nearest, fun ne eq => evenX (tie (fun e => differ ne (by rw [e])) eq)⟩
    · have product : (0 : Int) < b * ((magnitude w j * 2 ^ c : Nat) : Int) :=
        mul_pos (by exact_mod_cast h.pos) (by exact_mod_cast some)
      rw [opposite, mul_neg]
      generalize (b : Int) * ((magnitude w j * 2 ^ c : Nat) : Int) = far at *
      generalize (b : Int) * ((q * 2 ^ T : Nat) : Int) = near at *
      exact ⟨by omega, fun _ eq => by omega⟩

theorem rn_cases : ∀ rn : BitVec 2, rn = 0 ∨ rn = 1 ∨ rn = 2 ∨ rn = 3 := by decide

/-- The theorem of this part: a number placed in the grid and rounded to an integer of its place is the number rounded among
the patterns. -/
theorem Grid.isRounded {among even : DWord → Prop} {w c J a b q T : Nat} {rn : BitVec 2} {s : Bool} {x : DWord}
    (g : Grid among even w c J) (hw : 0 < w) (h : Placed w c a b q T) (positive : 0 < a) (spec : RoundedTo rn s a (b * 2 ^ T) q)
    (inside : (T - c) * 2 ^ w + q < J) (hx : Holds s (q * 2 ^ T) x) : IsRounded among even rn (signedInt s a) b x := by
  obtain ⟨member, even⟩ := g.member x _ hx.finite inside (h.code.trans hx.value.symm).symm
  have parity : ((T - c) * 2 ^ w + q) % 2 = q % 2 := by
    obtain ⟨v, rfl⟩ : ∃ v, w = v + 1 := ⟨w - 1, by omega⟩
    rw [pow_succ, ← Nat.mul_assoc]
    omega
  rw [parity] at even
  refine ⟨hx.finite, member, ?_⟩
  have value := hx.scaled
  have nonneg : (0 : Int) ≤ (a : Int) := by positivity
  have negative : ¬ 0 ≤ -(a : Int) := by omega
  rcases rn_cases rn with rfl | rfl | rfl | rfl
  · exact g.roundsNear h positive spec even hx
  · show if 0 ≤ signedInt s a then RoundsDown among (signedInt s a) b (scaledValue x) else RoundsUp among _ b (scaledValue x)
    rw [value]
    cases s
    · rw [if_pos (by exact nonneg)]
      exact roundsDown_positive g h (spec.down rfl)
    · rw [if_neg (by exact negative)]
      exact (roundsDown_positive g.mirror h (spec.down rfl)).mirror
  · show RoundsUp among (signedInt s a) b (scaledValue x)
    rw [value]
    cases s
    · exact roundsUp_positive g h positive (spec.up rfl)
    · exact (roundsDown_positive g.mirror h (spec.down rfl)).mirror
  · show RoundsDown among (signedInt s a) b (scaledValue x)
    rw [value]
    cases s
    · exact roundsDown_positive g h (spec.down rfl)
    · exact (roundsUp_positive g.mirror h positive (spec.up rfl)).mirror

/-- Zero is rounded to zero. -/
theorem isRounded_zero {among even : DWord → Prop} (rn : BitVec 2) {b : Int} (hb : 0 < b) {x : DWord} (finite : isFinite x) (member : among x)
    (zero : scaledValue x = 0) : IsRounded among even rn 0 b x := by
  have down : RoundsDown among 0 b 0 := ⟨by simp, fun y _ _ below => nonpos_of_mul_nonpos_right below hb⟩
  have up : RoundsUp among 0 b 0 := ⟨by simp, fun y _ _ above => nonneg_of_mul_nonneg_right above hb⟩
  have near : RoundsNear among even 0 b x := by
    intro y _ _
    rw [zero, mul_zero, sub_zero, sub_zero, Int.natAbs_zero]
    refine ⟨Nat.zero_le _, fun ne eq => absurd (Int.natAbs_eq_zero.mp eq.symm) (mul_ne_zero hb.ne' ne)⟩
  refine ⟨finite, member, ?_⟩
  rcases rn_cases rn with rfl | rfl | rfl | rfl
  · exact near
  · show if (0 : Int) ≤ 0 then RoundsDown among 0 b (scaledValue x) else RoundsUp among 0 b (scaledValue x)
    rw [if_pos (le_refl _), zero]
    exact down
  · exact zero.symm ▸ up
  · exact zero.symm ▸ down

end Sys2Proof.Machine
end

section
/-! PROOF. O34: what the rounding of a magnitude decides. -/

namespace Sys2Proof.Machine

/-! ## The formats -/

/-- The exponent of a pattern says whether its magnitude is below a power of two. -/
theorem fpExp_lt_iff (x : DWord) {e : Nat} (he : e ≠ 0) : fpExp x < e ↔ magnitude 52 (fpBits x) < 2 ^ 52 * 2 ^ (e - 1) := by
  have frac := fpFrac_lt x
  have power : magnitude 52 (e * 2 ^ 52 + 0) = 2 ^ 52 * 2 ^ (e - 1) := by
    rw [magnitude_of_exp he (by positivity), Nat.zero_add]
  rw [← power, (magnitude_strictMono 52).lt_iff_lt, fpBits_eq]
  constructor
  · intro less
    have := Nat.mul_le_mul_right (2 ^ 52) (show fpExp x + 1 ≤ e from less)
    omega
  · intro less
    by_contra reached
    have := Nat.mul_le_mul_right (2 ^ 52) (show e ≤ fpExp x by omega)
    omega

/-- The class of a number, by its magnitude. -/
theorem fprfOf_eq (single : Bool) {least : Nat} (h : least = if single then 2 ^ 52 * 2 ^ 896 else 2 ^ 52 * 2 ^ 0) {x : DWord}
    (number : fpIsNan x = false) : fprfOf single x = classOf least x := by
  have inf : fpIsInf x = true ↔ field x 1 11 = (2047 : BitVec 11) := by
    have nan : ¬ (fpExp x = 2047 ∧ fpFrac x ≠ 0) := by simpa [fpIsNan] using number
    rw [← BitVec.toNat_inj]
    show (fpExp x == 2047 && fpFrac x == 0) = true ↔ fpExp x = 2047
    simp only [Bool.and_eq_true, beq_iff_eq]
    tauto
  have sign : fpSign x = bitAt x 0 := rfl
  have small : fpIsZero x = false → ((fpIsDenormal x || (single && decide (fpExp x < 897))) = true ↔ (scaledValue x).natAbs < least) := by
    intro nonzero
    have one := fpExp_lt_iff x (e := 1) (by decide)
    have wide := fpExp_lt_iff x (e := 897) (by decide)
    have zero : ¬ (fpExp x = 0 ∧ fpFrac x = 0) := by simpa [fpIsZero] using nonzero
    rw [natAbs_scaledValue, h]
    cases single
    · rw [if_neg (by decide), ← one]
      simp only [fpIsDenormal, Bool.false_and, Bool.or_false, Bool.and_eq_true, beq_iff_eq, bne_iff_ne]
      omega
    · rw [if_pos rfl, ← wide]
      simp only [fpIsDenormal, Bool.true_and, Bool.or_eq_true, Bool.and_eq_true, beq_iff_eq, bne_iff_ne, decide_eq_true_eq]
      omega
  rw [fprfOf, number, if_neg (by decide), classOf, sign]
  refine if_congr inf rfl ?_
  by_cases zero : fpIsZero x = true
  · rw [if_pos zero, if_pos ((fpIsZero_iff x).mp zero)]
  · rw [if_neg zero, if_neg (mt (fpIsZero_iff x).mpr zero)]
    exact if_congr (small (eq_false_of_ne_true zero)) rfl rfl

/-- A format and its numbers: `w` fraction bits from the unit `2^c` on; `S` is the place of its greatest numbers. -/
structure FormatIs (F : FpFormat) (single : Bool) (w c S J cp Jp lowest highest : Nat) : Prop where
  grid : Grid F.among F.even w c J
  precise : Grid F.precise F.preciseEven w cp Jp
  least : F.least = 2 ^ w * 2 ^ c
  step : F.step = 2 ^ S
  bound : F.bound = 2 ^ (w + 1) * 2 ^ S
  precision : precision single = w + 1
  leastExp : leastExp single = c + w - 1074
  greatestExp : greatestExp single = w + S - 1074
  adjustment : adjustment single = F.adjust
  width : 0 < w ∧ w < 53
  codes : 2 ^ (w + 1) * 2 ^ S ≤ magnitude w J * 2 ^ c
  preciseCodes : 2 ^ 2098 ≤ magnitude w Jp * 2 ^ cp
  top : w + 1 + S ≤ 2098
  order : c ≤ S
  up : cp + w + lowest ≤ F.adjust
  upTop : c + w + F.adjust < w + S
  down : cp + F.adjust ≤ S
  downTop : highest ≤ 2096 + F.adjust
  classes : ∀ x, fpIsNan x = false → fprfOf single x = classOf F.least x

theorem doubleIs : FormatIs doubleFormat false 52 0 2045 (2047 * 2 ^ 52) 0 (2047 * 2 ^ 52) 1074 3200 where
  grid := doubleGrid
  precise := doubleGrid
  least := rfl
  step := rfl
  bound := by
    show 2 ^ 2098 = 2 ^ (52 + 1) * 2 ^ 2045
    rw [← pow_add]
  precision := rfl
  leastExp := rfl
  greatestExp := rfl
  adjustment := rfl
  width := by decide
  codes := by
    rw [← Nat.add_zero (2047 * 2 ^ 52), magnitude_of_exp (by decide) (by decide), Nat.zero_add, ← pow_add, ← pow_add, pow_zero, Nat.mul_one]
  preciseCodes := by
    rw [← Nat.add_zero (2047 * 2 ^ 52), magnitude_of_exp (by decide) (by decide), Nat.zero_add, ← pow_add, pow_zero, Nat.mul_one]
  top := by decide
  order := by decide
  up := by decide
  upTop := by decide
  down := by decide
  downTop := by decide
  classes _ number := fprfOf_eq false rfl number

theorem singleIs : FormatIs singleFormat true 23 925 1178 (255 * 2 ^ 23) 29 (2047 * 2 ^ 23) 0 2100 where
  grid := singleGrid
  precise := preciseGrid
  least := by
    show 2 ^ 948 = 2 ^ 23 * 2 ^ 925
    rw [← pow_add]
  step := rfl
  bound := by
    show 2 ^ 1202 = 2 ^ (23 + 1) * 2 ^ 1178
    rw [← pow_add]
  precision := rfl
  leastExp := rfl
  greatestExp := rfl
  adjustment := rfl
  width := by decide
  codes := by
    rw [← Nat.add_zero (255 * 2 ^ 23), magnitude_of_exp (by decide) (by decide), Nat.zero_add, ← pow_add, ← pow_add, ← pow_add]
  preciseCodes := by
    rw [← Nat.add_zero (2047 * 2 ^ 23), magnitude_of_exp (by decide) (by decide), Nat.zero_add, ← pow_add, ← pow_add]
  top := by decide
  order := by decide
  up := by decide
  upTop := by decide
  down := by decide
  downTop := by decide
  classes _ number := fprfOf_eq true (by
    show 2 ^ 948 = 2 ^ 52 * 2 ^ 896
    rw [← pow_add]) number

/-! ## Packing -/

theorem Packed.holds {s : Bool} {m : Nat} {k : Int} {x : DWord} (h : Packed s m k x) {v : Nat} (value : m * 2 ^ (k + 1074).toNat = v) :
    Holds s v x := ⟨h.sign, h.finite, h.value.trans value⟩

theorem pack_holds (s : Bool) {m : Nat} (hm : m < 2 ^ 53) {t : Int} {T : Nat} (place : t + 1074 = T) (high : m * 2 ^ T < 2 ^ 2098) :
    Holds s (m * 2 ^ T) (fpPack s m t) := by
  have toNat : (t + 1074).toNat = T := by omega
  exact (fpPack_packed s hm (by omega) (by rwa [toNat])).holds (by rw [toNat])

/-- A carry changes the place, not the number. -/
theorem pack_carried (s : Bool) {w q : Nat} (hw : w < 53) (small : q ≤ 2 ^ (w + 1)) {t adj : Int} {T : Nat} (place : t - adj + 1074 = T)
    (high : q * 2 ^ T < 2 ^ 2098) :
    Holds s (q * 2 ^ T) (fpPack s (carried (w + 1) q t).1 ((carried (w + 1) q t).2 - adj)) := by
  have top : (2 : Nat) ^ (w + 1) ≤ 2 ^ 53 := Nat.pow_le_pow_right (by decide) (by omega)
  unfold carried
  split
  · next e =>
    have same : 2 ^ (w + 1 - 1) * 2 ^ (T + 1) = q * 2 ^ T := by
      rw [e, Nat.add_sub_cancel, pow_succ, pow_succ]
      ring
    rw [← same] at high ⊢
    have less : (2 : Nat) ^ w < 2 ^ 53 := Nat.pow_lt_pow_right (by decide) hw
    exact pack_holds s less (by push_cast; omega) high
  · exact pack_holds s (by omega) place high

/-- The exponent after a carry says whether the number reaches a power of two. -/
theorem carried_exceeds {w q : Nat} (low : 2 ^ w ≤ q) (small : q ≤ 2 ^ (w + 1)) {t e : Int} {T E : Nat} (place : t + 1074 = T)
    (bound : e + 1 + 1074 = E) :
    (carried (w + 1) q t).2 + (w + 1 : Nat) - 1 > e ↔ 2 ^ E ≤ q * 2 ^ T := by
  unfold carried
  split
  · next top =>
    rw [top, ← pow_add, Nat.pow_le_pow_iff_right (by decide)]
    push_cast
    omega
  · next inside =>
    have below : q * 2 ^ T < 2 ^ (w + 1) * 2 ^ T := Nat.mul_lt_mul_of_pos_right (by omega) (by positivity)
    have above : 2 ^ w * 2 ^ T ≤ q * 2 ^ T := Nat.mul_le_mul_right _ low
    rw [← pow_add] at below above
    push_cast
    constructor
    · intro more
      exact (Nat.pow_le_pow_right (by decide) (by omega)).trans above
    · intro reached
      have := (Nat.pow_lt_pow_iff_right (by decide)).mp (reached.trans_lt below)
      omega

/-! ## Overflow -/

theorem awayFromZero_signed (rn : BitVec 2) (s : Bool) {a : Nat} (positive : 0 < a) :
    awayFromZero rn (signedInt s a) = roundsUp rn s := by
  have less : decide ((0 : Int) < a) = true := decide_eq_true (by omega)
  have notLess : decide ((a : Int) < 0) = false := decide_eq_false (by omega)
  rcases rn_cases rn with rfl | rfl | rfl | rfl <;> cases s <;> simp [awayFromZero, signedInt, roundsUp, positive]

theorem natAbs_signedInt (s : Bool) (a : Nat) : (signedInt s a).natAbs = a := by cases s <;> simp [signedInt]

/-- `FpFormat.over` in naturals. -/
theorem over_iff (F : FpFormat) (rn : BitVec 2) (s : Bool) {a b : Nat} (positive : 0 < a) :
    F.over rn (signedInt s a) b = true ↔
      if rn = 0 then 2 * b * F.bound ≤ 2 * a + b * F.step
      else if roundsUp rn s then b * (F.bound - F.step) < a else b * F.bound ≤ a := by
  unfold FpFormat.over
  rw [awayFromZero_signed rn s positive, natAbs_signedInt]
  split
  · rw [decide_eq_true_eq]
    exact_mod_cast Iff.rfl
  · split
    · rw [decide_eq_true_eq]
      exact_mod_cast Iff.rfl
    · rw [decide_eq_true_eq]
      exact_mod_cast Iff.rfl

/-- The rounded number reaches the bound of the format exactly where the exact one overflows. -/
theorem over_iff_reached {F : FpFormat} {w S T a b q : Nat} (step : F.step = 2 ^ S) (bound : F.bound = 2 ^ (w + 1) * 2 ^ S)
    {rn : BitVec 2} {s : Bool} (positive : 0 < a) (hb : 0 < b) (spec : RoundedTo rn s a (b * 2 ^ T) q)
    (low : 2 ^ w * (b * 2 ^ T) ≤ a) (high : a < 2 ^ (w + 1) * (b * 2 ^ T)) :
    F.over rn (signedInt s a) b = true ↔ 2 ^ (w + 1) * 2 ^ S ≤ q * 2 ^ T := by
  have unit : 0 < b * 2 ^ T := by positivity
  have qlow := spec.ge unit low
  have qhigh := spec.le unit high.le
  have two : 2 ^ (w + 1) = 2 ^ w * 2 := pow_succ 2 w
  have whole : 0 < 2 ^ w := by positivity
  rw [over_iff F rn s positive, bound, step]
  rcases lt_trichotomy T S with before | rfl | after
  · -- far below the bound
    have units : 2 ^ S = 2 ^ T * 2 * 2 ^ (S - T - 1) := by
      rw [← pow_succ, ← pow_add]
      congr 1
      omega
    have more : 2 ^ T * 2 ≤ 2 ^ S := units ▸ Nat.le_mul_of_pos_right _ (by positivity)
    have away : 2 * a < b * (2 ^ (w + 1) * 2 ^ S) := by
      have : 2 ^ (w + 1) * b * (2 ^ T * 2) ≤ 2 ^ (w + 1) * b * 2 ^ S := Nat.mul_le_mul_left _ more
      nlinarith
    have gap : 2 * (b * 2 ^ S) ≤ b * (2 ^ (w + 1) * 2 ^ S) := by
      have : 2 * (b * 2 ^ S) ≤ 2 * 2 ^ w * (b * 2 ^ S) := Nat.mul_le_mul_right _ (by omega)
      rw [two]
      nlinarith
    have sub : b * (2 ^ (w + 1) * 2 ^ S - 2 ^ S) = b * (2 ^ (w + 1) * 2 ^ S) - b * 2 ^ S := Nat.mul_sub _ _ _
    have never : ¬ 2 ^ (w + 1) * 2 ^ S ≤ q * 2 ^ T := by
      have : q * 2 ^ T < 2 ^ (w + 1) * 2 ^ S :=
        (Nat.mul_le_mul_right _ qhigh).trans_lt (Nat.mul_lt_mul_of_pos_left (Nat.pow_lt_pow_right (by decide) before) (by positivity))
      omega
    refine iff_of_false ?_ never
    rw [Nat.mul_assoc 2 b]
    generalize b * (2 ^ (w + 1) * 2 ^ S) = B at *
    split
    · omega
    · split <;> omega
  · -- the greatest place
    have factor : ∀ n : Nat, b * (n * 2 ^ T) = b * 2 ^ T * n := fun n => by ring
    have sub : b * (2 ^ (w + 1) * 2 ^ T - 2 ^ T) = b * 2 ^ T * (2 ^ (w + 1) - 1) := by
      rw [← factor, Nat.sub_mul, Nat.one_mul]
    rw [Nat.mul_le_mul_right_iff (by positivity), Nat.mul_assoc 2 b, factor, sub]
    generalize b * 2 ^ T = u at *
    have even : 2 ^ (w + 1) % 2 = 0 := by omega
    generalize 2 ^ (w + 1) = Q at *
    obtain ⟨Q', rfl⟩ : ∃ n, Q = n + 1 := ⟨Q - 1, by omega⟩
    rw [Nat.add_sub_cancel]
    rcases mode_cases rn s with ⟨near, _, _⟩ | ⟨directed, down, up⟩ | ⟨directed, down, up⟩
    · rw [if_pos near]
      obtain ⟨above, below, tie⟩ := spec.near near
      constructor
      · intro reached
        by_contra less
        have : u * q ≤ u * Q' := Nat.mul_le_mul_left _ (by omega)
        have expand : u * (Q' + 1) = u * Q' + u := by ring
        have parity := tie (.inl (by omega))
        have same : q = Q' := by
          by_contra ne
          have : u * (q + 1) ≤ u * Q' := Nat.mul_le_mul_left _ (by omega)
          have expand : u * (q + 1) = u * q + u := by ring
          omega
        omega
      · intro reached
        have : u * (Q' + 1) ≤ u * q := Nat.mul_le_mul_left _ reached
        omega
    · rw [if_neg directed, if_neg (by rw [up]; decide)]
      obtain ⟨below, above⟩ := spec.down down
      constructor
      · intro reached
        exact Nat.lt_succ_iff.mp (Nat.lt_of_mul_lt_mul_left (reached.trans_lt above))
      · intro reached
        exact (Nat.mul_le_mul_left _ reached).trans below
    · rw [if_neg directed, if_pos up]
      obtain ⟨above, below⟩ := spec.up up
      constructor
      · intro reached
        exact Nat.lt_of_mul_lt_mul_left (reached.trans_le above)
      · intro reached
        have : u * (Q' + 1) ≤ u * q := Nat.mul_le_mul_left _ reached
        have expand : u * (Q' + 1) = u * Q' + u := by ring
        omega
  · -- beyond the bound
    have units : 2 ^ T = 2 ^ S * 2 * 2 ^ (T - S - 1) := by
      rw [← pow_succ, ← pow_add]
      congr 1
      omega
    have more : 2 ^ S * 2 ≤ 2 ^ T := units ▸ Nat.le_mul_of_pos_right _ (by positivity)
    have beyond : b * (2 ^ (w + 1) * 2 ^ S) ≤ a := by
      have : 2 ^ w * b * (2 ^ S * 2) ≤ 2 ^ w * b * 2 ^ T := Nat.mul_le_mul_left _ more
      rw [two]
      nlinarith
    have always : 2 ^ (w + 1) * 2 ^ S ≤ q * 2 ^ T := by
      calc 2 ^ (w + 1) * 2 ^ S = 2 ^ w * (2 ^ S * 2) := by rw [two]; ring
        _ ≤ q * 2 ^ T := Nat.mul_le_mul qlow more
    have gap : b * (2 ^ (w + 1) * 2 ^ S - 2 ^ S) < b * (2 ^ (w + 1) * 2 ^ S) :=
      Nat.mul_lt_mul_of_pos_left (Nat.sub_lt (by positivity) (by positivity)) hb
    refine iff_of_true ?_ always
    rw [Nat.mul_assoc 2 b]
    split
    · omega
    · split
      · omega
      · exact beyond

end Sys2Proof.Machine
end

section
/-! PROOF. O34: the rounding of an exact number, case by case. -/

namespace Sys2Proof.Machine

/-- What rounding the exact number `n / d` of sign `s` decides: the pattern, and the bits it raises (as `FpRounded`, of the
result alone). -/
structure Rounds (F : FpFormat) (p : Word) (n d : Int) (s : Bool) (x : DWord) (r : FpResult) : Prop where
  value : r.value = some x
  fprf : r.fprf = some (classOf F.least x)
  number : fpIsNan x = false
  sign : fpSign x = s
  adjusted : F.underflows p n d = true ∨ F.overflows p n d = true →
    IsRounded F.precise F.preciseEven (fpRn p) (F.num p n d) (F.den p n d) x
  lost : F.lost p n d = true →
    if fpRn p = 0 ∨ awayFromZero (fpRn p) n = true then field x 1 63 = (0x7FF0000000000000 : BitVec 63)
    else isFinite x ∧ (scaledValue x).natAbs = F.bound - F.step
  rounded : F.over (fpRn p) n d = false → F.underflows p n d = false → isFinite x ∧
    ∃ y, IsRounded F.among F.even (fpRn p) n d y ∧
      scaledValue x = if bitAt p 29 && F.tiny n d && decide ((scaledValue y).natAbs < F.least) then 0 else scaledValue y
  fi : if F.lost p n d then r.fi = true else (r.fi = false ↔ F.den p n d * scaledValue x = F.num p n d)
  fr : F.lost p n d = false → r.frAny = false ∧
    (r.fr = true ↔ ((F.num p n d).natAbs : Int) < F.den p n d * (scaledValue x).natAbs)
  exc : ∀ k, k < 32 → bitAt r.exc k =
    ((k == 3 && F.over (fpRn p) n d) || (k == 4 && (F.tiny n d && (bitAt p 26 || r.fi))))

/-- Without an overflow and without an enabled underflow the value itself is rounded. -/
theorem not_adjusted {F : FpFormat} {p : Word} {n d : Int} (overs : F.over (fpRn p) n d = false) (under : F.underflows p n d = false) :
    F.overflows p n d = false ∧ F.lost p n d = false ∧ F.num p n d = n ∧ F.den p n d = d := by
  have over' : F.overflows p n d = false := by
    show (bitAt p 25 && F.over (fpRn p) n d) = false
    rw [overs, Bool.and_false]
  have lost : F.lost p n d = false := by
    show (!bitAt p 25 && F.over (fpRn p) n d) = false
    rw [overs, Bool.and_false]
  exact ⟨over', lost, if_neg (by rw [under]; decide), if_neg (by rw [over']; decide)⟩

/-! ## Signs and scaling -/

theorem signedInt_mul (s : Bool) (a m : Nat) : signedInt s (a * m) = signedInt s a * (m : Int) := by
  cases s <;> simp [signedInt]

theorem Holds.not_nan {s : Bool} {v : Nat} {x : DWord} (h : Holds s v x) : fpIsNan x = false := by
  have := (isFinite_iff x).mp h.finite
  simp [fpIsNan, this]

/-- Inexactness and increase, told by the number written. -/
theorem Holds.inexact {rn : BitVec 2} {s : Bool} {a b T : Nat} {ans : Nat × Bool × Bool} {x : DWord}
    (h : Holds s (ans.1 * 2 ^ T) x) (spec : RintSpec rn s a (b * 2 ^ T) ans) :
    (ans.2.2 = false ↔ (b : Int) * scaledValue x = signedInt s a) ∧
      (ans.2.1 = true ↔ ((signedInt s a).natAbs : Int) < b * (scaledValue x).natAbs) := by
  have product : b * 2 ^ T * ans.1 = b * (ans.1 * 2 ^ T) := by ring
  rw [h.scaled, natAbs_signedInt, natAbs_signedInt, spec.inexact, spec.increased, product]
  generalize ans.1 * 2 ^ T = v
  refine ⟨?_, by exact_mod_cast Iff.rfl⟩
  cases s
  · show _ ↔ (b : Int) * (v : Int) = a
    exact_mod_cast Iff.rfl
  · show _ ↔ (b : Int) * -(v : Int) = -(a : Int)
    rw [mul_neg, neg_inj]
    exact_mod_cast Iff.rfl

theorem tiny_iff (F : FpFormat) (s : Bool) {a b : Nat} (positive : 0 < a) :
    F.tiny (signedInt s a) b = true ↔ a < b * F.least := by
  rw [FpFormat.tiny, decide_eq_true_eq, natAbs_signedInt]
  have nonzero : signedInt s a ≠ 0 := by cases s <;> simp [signedInt] <;> omega
  rw [and_iff_right nonzero]
  exact_mod_cast Iff.rfl

/-- The bits raised, of a result that raises at most OX and UX. -/
theorem bitAt_ux {k : Nat} (hk : k < 32) : bitAt uxBit k = (k == 4) := bitAt_maskBit 4 k hk
theorem bitAt_ox {k : Nat} (hk : k < 32) : bitAt oxBit k = (k == 3) := bitAt_maskBit 3 k hk

/-- The bits raised where only UX can be. -/
theorem exc_without_overflow {F : FpFormat} (p : Word) (s : Bool) {a b : Nat} (fi : Bool) (overs : F.over (fpRn p) (signedInt s a) b = false) {k : Nat}
    (hk : k < 32) : bitAt (if F.tiny (signedInt s a) b && (bitAt p 26 || fi) then uxBit else 0) k =
      ((k == 3 && F.over (fpRn p) (signedInt s a) b) || (k == 4 && (F.tiny (signedInt s a) b && (bitAt p 26 || fi)))) := by
  rw [overs, Bool.and_false, Bool.false_or]
  cases F.tiny (signedInt s a) b && (bitAt p 26 || fi)
  · rw [if_neg (by decide), Bool.and_false, bitAt_zero]
  · rw [if_pos rfl, Bool.and_true, bitAt_ux hk]

/-- The place of a number from the least normalised one on. -/
theorem normal_place {w n d a b : Nat} {k : Int} (m : Magnitude n d k a b) {E : Nat} (exponent : floorLog2 n d k + 1074 = (w : Int) + E) :
    2 ^ w * (b * 2 ^ E) ≤ a ∧ a < 2 ^ (w + 1) * (b * 2 ^ E) := by
  obtain ⟨low, high⟩ := floorLog2_bounds m (E := w + E) (by push_cast; exact exponent)
  constructor
  · calc 2 ^ w * (b * 2 ^ E) = b * 2 ^ (w + E) := by rw [pow_add]; ring
      _ ≤ a := low
  · calc a < b * 2 ^ (w + E + 1) := high
      _ = 2 ^ (w + 1) * (b * 2 ^ E) := by rw [pow_succ, pow_add, pow_succ]; ring

section
variable {F : FpFormat} {single : Bool} {w c S J cp Jp lowest highest : Nat}
  (format : FormatIs F single w c S J cp Jp lowest highest)
include format

/-- A tiny number does not overflow. -/
theorem not_over_of_tiny (rn : BitVec 2) (s : Bool) {a b : Nat} (positive : 0 < a) (tiny : a < b * F.least) :
    F.over rn (signedInt s a) b = false := by
  rw [Bool.eq_false_iff, Ne, over_iff F rn s positive, format.bound, format.step]
  rw [format.least] at tiny
  have order : (2 : Nat) ^ c ≤ 2 ^ S := Nat.pow_le_pow_right (by decide) format.order
  have below : a < b * (2 ^ w * 2 ^ S) := tiny.trans_le (Nat.mul_le_mul_left _ (Nat.mul_le_mul_left _ order))
  have whole : 2 * 2 ^ S ≤ 2 ^ w * 2 ^ S := Nat.mul_le_mul_right _ (by
    calc 2 = 2 ^ 1 := rfl
      _ ≤ 2 ^ w := Nat.pow_le_pow_right (by decide) format.width.1)
  have gap : b * (2 * 2 ^ S) ≤ b * (2 ^ w * 2 ^ S) := Nat.mul_le_mul_left _ whole
  have gap : b * 2 ^ S * 2 ≤ b * (2 ^ w * 2 ^ S) := by linarith
  have double : b * (2 ^ (w + 1) * 2 ^ S) = b * (2 ^ w * 2 ^ S) * 2 := by rw [pow_succ]; ring
  have sub : b * (2 ^ (w + 1) * 2 ^ S - 2 ^ S) = b * (2 ^ (w + 1) * 2 ^ S) - b * 2 ^ S := Nat.mul_sub _ _ _
  rw [Nat.mul_assoc 2 b, sub, double]
  generalize b * (2 ^ w * 2 ^ S) = B at *
  split
  · omega
  · split <;> omega

/-- A number below the bound has a code of the format. -/
theorem code_inside {a b q T : Nat} (placed : Placed w c a b q T) (inside : q * 2 ^ T < F.bound) : (T - c) * 2 ^ w + q < J := by
  have value := placed.code
  have top := format.codes
  rw [format.bound, ← value] at inside
  exact (magnitude_strictMono w).lt_iff_lt.mp (Nat.lt_of_mul_lt_mul_right (inside.trans_le top))

theorem precise_code_inside {a b q T : Nat} (placed : Placed w cp a b q T) (inside : q * 2 ^ T < 2 ^ 2098) :
    (T - cp) * 2 ^ w + q < Jp := by
  have value := placed.code
  have top := format.preciseCodes
  rw [← value] at inside
  exact (magnitude_strictMono w).lt_iff_lt.mp (Nat.lt_of_mul_lt_mul_right (inside.trans_le top))

/-- A number without an overflow, rounded in the format. -/
theorem rounds_plain {p : Word} {s : Bool} {a b T : Nat} {ans : Nat × Bool × Bool} {x : DWord} {r : FpResult} (positive : 0 < a)
    (placed : Placed w c a b ans.1 T) (spec : RintSpec (fpRn p) s a (b * 2 ^ T) ans)
    (overs : F.over (fpRn p) (signedInt s a) b = false) (under : F.underflows p (signedInt s a) b = false)
    (flush : (bitAt p 29 && F.tiny (signedInt s a) b && decide (ans.1 * 2 ^ T < F.least)) = false)
    (inside : ans.1 * 2 ^ T < F.bound) (hx : Holds s (ans.1 * 2 ^ T) x)
    (hr : r = roundedResult single x ans.2.1 ans.2.2 (if F.tiny (signedInt s a) b && ans.2.2 then uxBit else 0)) :
    Rounds F p (signedInt s a) b s x r := by
  obtain ⟨over', lost, num, den⟩ := not_adjusted overs under
  obtain ⟨inexact, increased⟩ := hx.inexact spec
  have rounded := format.grid.isRounded format.width.1 placed positive spec.rounded (code_inside format placed inside) hx
  have size : (scaledValue x).natAbs = ans.1 * 2 ^ T := by rw [natAbs_scaledValue, hx.value]
  have uxOff : F.tiny (signedInt s a) b = true → bitAt p 26 = false := by
    intro tiny
    have : (bitAt p 26 && F.tiny (signedInt s a) b) = false := under
    rwa [tiny, Bool.and_true] at this
  subst hr
  refine ⟨rfl, congrArg some (format.classes x hx.not_nan), hx.not_nan, hx.sign, ?_, ?_, ?_, ?_, ?_, ?_⟩
  · rintro (h | h)
    · rw [under] at h
      exact absurd h (by decide)
    · rw [over'] at h
      exact absurd h (by decide)
  · intro h
    rw [lost] at h
    exact absurd h (by decide)
  · refine fun _ _ => ⟨hx.finite, x, rounded, ?_⟩
    rw [size, flush, if_neg (by decide)]
  · rw [lost, num, den, if_neg (by decide)]
    exact inexact
  · rw [num, den]
    exact fun _ => ⟨rfl, increased⟩
  · intro k hk
    have same : (F.tiny (signedInt s a) b && ans.2.2) = (F.tiny (signedInt s a) b && (bitAt p 26 || ans.2.2)) := by
      cases tiny : F.tiny (signedInt s a) b
      · rfl
      · rw [uxOff tiny, Bool.false_or]
    show bitAt (if F.tiny (signedInt s a) b && ans.2.2 then uxBit else 0) k = _
    rw [same]
    exact exc_without_overflow p s ans.2.2 overs hk

/-- A denormalised result in the non-IEEE mode: a zero. -/
theorem rounds_flushed {p : Word} {s : Bool} {a b : Nat} {ans : Nat × Bool × Bool} {r : FpResult} (positive : 0 < a)
    (placed : Placed w c a b ans.1 c) (spec : RintSpec (fpRn p) s a (b * 2 ^ c) ans)
    (tiny : F.tiny (signedInt s a) b = true) (ni : bitAt p 29 = true) (ue : bitAt p 26 = false) (small : ans.1 < 2 ^ w)
    (hr : r = roundedResult single (fpZero s) false (ans.2.2 || ans.1 != 0) (if ans.2.2 || ans.1 != 0 then uxBit else 0)) :
    Rounds F p (signedInt s a) b s (fpZero s) r := by
  have overs := not_over_of_tiny format (fpRn p) s positive ((tiny_iff F s positive).mp tiny)
  have under : F.underflows p (signedInt s a) b = false := by
    show (bitAt p 26 && _) = false
    rw [ue, Bool.false_and]
  obtain ⟨over', lost, num, den⟩ := not_adjusted overs under
  have something : (ans.2.2 || ans.1 != 0) = true := by
    by_contra nothing
    rw [Bool.not_eq_true, Bool.or_eq_false_iff, bne_eq_false_iff_eq, spec.inexact] at nothing
    obtain ⟨exact_, zero⟩ := nothing
    rw [zero, Nat.mul_zero] at exact_
    omega
  have hz : Holds s 0 (fpZero s) := by
    have bits : fpBits (fpZero s) = 0 := fpBits_signed s (n := 0) (by decide)
    exact ⟨fpSign_signed s 0, (isFinite_iff_bits _).mpr (by rw [bits]; decide), by rw [bits, magnitude_eq_zero]⟩
  have zero : scaledValue (fpZero s) = 0 := by
    rw [hz.scaled]
    cases s <;> rfl
  have least : 2 ^ w * 2 ^ c ≤ magnitude w J * 2 ^ c := by
    refine le_trans ?_ format.codes
    exact Nat.mul_le_mul (Nat.pow_le_pow_right (by decide) (by omega)) (Nat.pow_le_pow_right (by decide) format.order)
  obtain ⟨y, hy⟩ : ∃ y, Holds s (ans.1 * 2 ^ c) y := by
    have width := format.width.2
    have top := format.top
    have order := format.order
    have wide : (2 : Nat) ^ w ≤ 2 ^ 53 := Nat.pow_le_pow_right (by decide) (by omega)
    refine ⟨fpPack s ans.1 ((c : Int) - 1074), pack_holds s (by omega) (by omega) ?_⟩
    calc ans.1 * 2 ^ c < 2 ^ w * 2 ^ c := Nat.mul_lt_mul_of_pos_right small (by positivity)
      _ = 2 ^ (w + c) := (pow_add _ _ _).symm
      _ ≤ 2 ^ 2098 := Nat.pow_le_pow_right (by decide) (by omega)
  have below : ans.1 * 2 ^ c < F.least := by
    rw [format.least]
    exact Nat.mul_lt_mul_of_pos_right small (by positivity)
  have inside : ans.1 * 2 ^ c < F.bound := by
    rw [format.bound]
    refine (format.least ▸ below).trans_le ?_
    exact Nat.mul_le_mul (Nat.pow_le_pow_right (by decide) (by omega)) (Nat.pow_le_pow_right (by decide) format.order)
  have rounded := format.grid.isRounded format.width.1 placed positive spec.rounded (code_inside format placed inside) hy
  rw [something] at hr
  subst hr
  refine ⟨rfl, congrArg some (format.classes _ hz.not_nan), hz.not_nan, hz.sign, ?_, ?_, ?_, ?_, ?_, ?_⟩
  · rintro (h | h)
    · rw [under] at h
      exact absurd h (by decide)
    · rw [over'] at h
      exact absurd h (by decide)
  · intro h
    rw [lost] at h
    exact absurd h (by decide)
  · refine fun _ _ => ⟨hz.finite, y, rounded, ?_⟩
    rw [zero, natAbs_scaledValue, hy.value, ni, tiny, decide_eq_true below, if_pos (by rfl)]
  · have differ : (b : Int) * 0 ≠ signedInt s a := by cases s <;> simp [signedInt] <;> omega
    rw [lost, num, den, if_neg (by decide), zero]
    exact iff_of_false (by simp [roundedResult]) differ
  · rw [num, den, zero]
    refine fun _ => ⟨rfl, iff_of_false (by simp [roundedResult]) ?_⟩
    simp
  · intro k hk
    rw [overs, tiny, ue]
    show bitAt uxBit k = _
    rw [bitAt_ux hk]
    simp [roundedResult]

/-- An enabled overflow or underflow: the adjusted number, rounded to the precision. -/
theorem rounds_adjusted {p : Word} {s : Bool} {a b a' b' T : Nat} {ans : Nat × Bool × Bool} {x : DWord} {r : FpResult}
    (positive : 0 < a') (placed : Placed w cp a' b' ans.1 T) (spec : RintSpec (fpRn p) s a' (b' * 2 ^ T) ans)
    (lost : F.lost p (signedInt s a) b = false)
    (regular : F.over (fpRn p) (signedInt s a) b = false → F.underflows p (signedInt s a) b = true)
    (num : F.num p (signedInt s a) b = signedInt s a') (den : F.den p (signedInt s a) b = b')
    (inside : ans.1 * 2 ^ T < 2 ^ 2098) (hx : Holds s (ans.1 * 2 ^ T) x) {exc : Word}
    (raised : ∀ k, k < 32 → bitAt exc k =
      ((k == 3 && F.over (fpRn p) (signedInt s a) b) || (k == 4 && (F.tiny (signedInt s a) b && (bitAt p 26 || ans.2.2)))))
    (hr : r = roundedResult single x ans.2.1 ans.2.2 exc) : Rounds F p (signedInt s a) b s x r := by
  obtain ⟨inexact, increased⟩ := hx.inexact spec
  have rounded := format.precise.isRounded format.width.1 placed positive spec.rounded
    (precise_code_inside format placed inside) hx
  subst hr
  refine ⟨rfl, congrArg some (format.classes x hx.not_nan), hx.not_nan, hx.sign, fun _ => ?_, ?_, ?_, ?_, ?_, raised⟩
  · rw [num, den]
    exact rounded
  · intro h
    rw [lost] at h
    exact absurd h (by decide)
  · intro overs under
    rw [regular overs] at under
    exact absurd under (by decide)
  · rw [lost, num, den, if_neg (by decide)]
    exact inexact
  · rw [num, den]
    exact fun _ => ⟨rfl, increased⟩

/-- A disabled overflow. -/
theorem rounds_lost {p : Word} {s : Bool} {a b : Nat} {r : FpResult} (positive : 0 < a)
    (overs : F.over (fpRn p) (signedInt s a) b = true) (oe : bitAt p 25 = false) (hr : r = overflowResult single (fpRn p) s 0) :
    Rounds F p (signedInt s a) b s (overflowValue single (fpRn p) s) r := by
  have lost : F.lost p (signedInt s a) b = true := by
    show (!bitAt p 25 && F.over (fpRn p) (signedInt s a) b) = true
    rw [overs, oe]
    rfl
  have tiny : F.tiny (signedInt s a) b = false := by
    by_contra h
    rw [Bool.not_eq_false, tiny_iff F s positive] at h
    rw [not_over_of_tiny format (fpRn p) s positive h] at overs
    exact absurd overs (by decide)
  have toInf : (fpRn p == 0 || (fpRn p == 2 && !s) || (fpRn p == 3 && s)) = true ↔
      fpRn p = 0 ∨ awayFromZero (fpRn p) (signedInt s a) = true := by
    rw [awayFromZero_signed _ _ positive]
    have all : ∀ (rn : BitVec 2) (s : Bool), (rn == 0 || (rn == 2 && !s) || (rn == 3 && s)) = true ↔ rn = 0 ∨ roundsUp rn s = true := by
      decide
    exact all (fpRn p) s
  have infinity : fpIsInf (fpInf s) = true ∧ fpIsNan (fpInf s) = false ∧ fpSign (fpInf s) = s ∧
      field (fpInf s) 1 63 = (0x7FF0000000000000 : BitVec 63) := by cases s <;> decide
  have greatest : Holds s ((2 ^ (w + 1) - 1) * 2 ^ S) (fpPack s (2 ^ (w + 1) - 1) (greatestExp single - precision single + 1)) := by
    have width := format.width.2
    have top := format.top
    have wide : (2 : Nat) ^ (w + 1) ≤ 2 ^ 53 := Nat.pow_le_pow_right (by decide) (by omega)
    have some : 0 < (2 : Nat) ^ (w + 1) := by positivity
    refine pack_holds s (by omega) (T := S) ?_ ?_
    · rw [format.greatestExp, format.precision]
      push_cast
      omega
    · calc (2 ^ (w + 1) - 1) * 2 ^ S < 2 ^ (w + 1) * 2 ^ S := Nat.mul_lt_mul_of_pos_right (by omega) (by positivity)
        _ = 2 ^ (w + 1 + S) := (pow_add _ _ _).symm
        _ ≤ 2 ^ 2098 := Nat.pow_le_pow_right (by decide) top
  have precision := format.precision
  rw [← precision] at greatest
  have value : fpIsNan (overflowValue single (fpRn p) s) = false ∧ fpSign (overflowValue single (fpRn p) s) = s := by
    unfold overflowValue
    split
    · exact ⟨infinity.2.1, infinity.2.2.1⟩
    · exact ⟨greatest.not_nan, greatest.sign⟩
  subst hr
  refine ⟨rfl, congrArg some (format.classes _ value.1), value.1, value.2, ?_, fun _ => ?_, ?_, ?_, ?_, ?_⟩
  · rintro (h | h)
    · have : (bitAt p 26 && F.tiny (signedInt s a) b) = true := h
      rw [tiny, Bool.and_false] at this
      exact absurd this (by decide)
    · have : (bitAt p 25 && F.over (fpRn p) (signedInt s a) b) = true := h
      rw [oe, Bool.false_and] at this
      exact absurd this (by decide)
  · unfold overflowValue
    by_cases h : (fpRn p == 0 || (fpRn p == 2 && !s) || (fpRn p == 3 && s)) = true
    · rw [if_pos h, if_pos (toInf.mp h)]
      exact infinity.2.2.2
    · rw [if_neg h, if_neg (mt toInf.mpr h)]
      refine ⟨greatest.finite, ?_⟩
      rw [natAbs_scaledValue, greatest.value, format.bound, format.step, precision, Nat.sub_mul, Nat.one_mul]
  · intro off
    rw [overs] at off
    exact absurd off (by decide)
  · rw [lost, if_pos rfl]
    rfl
  · intro off
    rw [lost] at off
    exact absurd off (by decide)
  · intro k hk
    rw [overs, tiny]
    show bitAt ((0 : Word) ||| oxBit) k = _
    rw [bitAt_or, bitAt_zero, bitAt_ox hk]
    simp

/-! ## The rounding of a magnitude -/

/-- The end of rounding where the number stays in range. -/
theorem roundEnd_inside {p : Word} {s : Bool} {mt : Nat × Int} {fr fi : Bool} {adj : Int} {exc : Word}
    (h : ¬ mt.2 + ((w + 1 : Nat) : Int) - 1 > greatestExp single) :
    roundEnd single p s mt fr fi adj exc = roundedResult single (fpPack s mt.1 mt.2) fr fi exc := by
  have precision := format.precision
  rw [roundEnd, precision, if_neg h]

theorem roundEnd_beyond {p : Word} {s : Bool} {mt : Nat × Int} {fr fi : Bool} {adj : Int} {exc : Word}
    (h : mt.2 + ((w + 1 : Nat) : Int) - 1 > greatestExp single) :
    roundEnd single p s mt fr fi adj exc =
      if fpOe p then roundedResult single (fpPack s mt.1 (mt.2 - adj)) fr fi (exc ||| oxBit)
      else overflowResult single (fpRn p) s exc := by
  have precision := format.precision
  rw [roundEnd, precision, if_pos h]

/-- From the least normalised number on: rounded at its own place. -/
theorem rounds_normal (p : Word) (s : Bool) {n d a b T : Nat} {k : Int} (m : Magnitude n d k a b) (positive : 0 < a)
    (within : a < b * 2 ^ highest) (base : c ≤ T) (exponent : floorLog2 n d k + 1074 = (w : Int) + T) :
    ∃ x, Rounds F p (signedInt s a) b s x (roundInRange single p s n d k (floorLog2 n d k) (adjustment single) 0) := by
  obtain ⟨low, high⟩ := normal_place m exponent
  have hb := m.pos
  have unit : 0 < b * 2 ^ T := by positivity
  have spec := rint_spec (fpRn p) s a unit
  have qlow := spec.rounded.ge unit low
  have qhigh := spec.rounded.le unit high.le
  have precision := format.precision
  have place : (floorLog2 n d k - ((w + 1 : Nat) : Int) + 1) + 1074 = T := by push_cast; omega
  have reached := over_iff_reached format.step format.bound positive hb spec.rounded low high
  have exceeds := carried_exceeds qlow qhigh place (e := greatestExp single) (E := w + 1 + S)
    (by rw [format.greatestExp]; push_cast; omega)
  rw [pow_add] at exceeds
  have notTiny : F.tiny (signedInt s a) b = false := by
    by_contra h
    rw [Bool.not_eq_false, tiny_iff F s positive, format.least] at h
    have : b * (2 ^ w * 2 ^ c) ≤ 2 ^ w * (b * 2 ^ T) := by
      calc b * (2 ^ w * 2 ^ c) ≤ b * (2 ^ w * 2 ^ T) := Nat.mul_le_mul_left _ (Nat.mul_le_mul_left _ (Nat.pow_le_pow_right (by decide) base))
        _ = _ := by ring
    omega
  have under : F.underflows p (signedInt s a) b = false := by
    show (bitAt p 26 && F.tiny (signedInt s a) b) = false
    rw [notTiny, Bool.and_false]
  have num : F.num p (signedInt s a) b = signedInt s a := if_neg (by rw [under]; decide)
  rw [roundInRange_eq, precision, rintAt_magnitude m (fpRn p) s place]
  generalize rint (fpRn p) s a (b * 2 ^ T) = ans at spec qlow qhigh reached exceeds
  by_cases overs : F.over (fpRn p) (signedInt s a) b = true
  · rw [roundEnd_beyond format (exceeds.mpr (reached.mp overs))]
    cases oe : bitAt p 25
    · rw [if_neg (by rw [fpOe, oe]; decide)]
      exact ⟨_, rounds_lost format positive overs oe rfl⟩
    · have on : fpOe p = true := oe
      rw [if_pos on]
      have down := format.down
      have downTop := format.downTop
      have order := format.top
      obtain ⟨T', rfl⟩ : ∃ T', T = T' + F.adjust := by
        refine ⟨T - F.adjust, ?_⟩
        have : (2 : Nat) ^ (w + 1) * 2 ^ S ≤ 2 ^ (w + 1) * 2 ^ T := (reached.mp overs).trans (Nat.mul_le_mul_right _ qhigh)
        have := (Nat.pow_le_pow_iff_right (by decide)).mp (Nat.le_of_mul_le_mul_left this (by positivity))
        omega
      have base' : cp ≤ T' := by
        have : (2 : Nat) ^ (w + 1) * 2 ^ S ≤ 2 ^ (w + 1) * 2 ^ (T' + F.adjust) := (reached.mp overs).trans (Nat.mul_le_mul_right _ qhigh)
        have := (Nat.pow_le_pow_iff_right (by decide)).mp (Nat.le_of_mul_le_mul_left this (by positivity))
        omega
      have units : b * 2 ^ F.adjust * 2 ^ T' = b * 2 ^ (T' + F.adjust) := by rw [pow_add]; ring
      rw [← units] at spec low
      have inside : ans.1 * 2 ^ T' < 2 ^ 2098 := by
        have bound : w + (T' + F.adjust) < highest := by
          have : b * 2 ^ (w + (T' + F.adjust)) < b * 2 ^ highest := by
            calc b * 2 ^ (w + (T' + F.adjust)) = 2 ^ w * (b * 2 ^ F.adjust * 2 ^ T') := by rw [units, pow_add]; ring
              _ ≤ a := low
              _ < _ := within
          exact (Nat.pow_lt_pow_iff_right (by decide)).mp (Nat.lt_of_mul_lt_mul_left this)
        calc ans.1 * 2 ^ T' ≤ 2 ^ (w + 1) * 2 ^ T' := Nat.mul_le_mul_right _ qhigh
          _ = 2 ^ (w + 1 + T') := (pow_add _ _ _).symm
          _ < 2 ^ 2098 := Nat.pow_lt_pow_right (by decide) (by omega)
      have over' : F.overflows p (signedInt s a) b = true := by
        show (bitAt p 25 && F.over (fpRn p) (signedInt s a) b) = true
        rw [oe, overs]
        rfl
      refine ⟨_, rounds_adjusted format positive ⟨by positivity, base', qhigh, .inr ⟨qlow, low⟩⟩ spec ?_ ?_ num ?_ inside
        (pack_carried s format.width.2 qhigh (by rw [format.adjustment]; push_cast at place ⊢; omega) inside) ?_ rfl⟩
      · show (!bitAt p 25 && _) = false
        rw [oe]
        rfl
      · intro off
        rw [overs] at off
        exact absurd off (by decide)
      · refine (if_pos over').trans ?_
        push_cast
        rfl
      · intro j hj
        rw [overs, notTiny, bitAt_or, bitAt_zero, bitAt_ox hj]
        simp
  · have inside : ¬ 2 ^ (w + 1) * 2 ^ S ≤ ans.1 * 2 ^ T := mt reached.mpr overs
    rw [roundEnd_inside format (mt exceeds.mp inside)]
    have inBound : ans.1 * 2 ^ T < F.bound := by
      rw [format.bound]
      exact not_le.mp inside
    have small : ans.1 * 2 ^ T < 2 ^ 2098 := by
      have top := format.top
      calc ans.1 * 2 ^ T < 2 ^ (w + 1) * 2 ^ S := not_le.mp inside
        _ = 2 ^ (w + 1 + S) := (pow_add _ _ _).symm
        _ ≤ 2 ^ 2098 := Nat.pow_le_pow_right (by decide) top
    have packed := pack_carried s format.width.2 qhigh (t := floorLog2 n d k - ((w + 1 : Nat) : Int) + 1) (adj := 0)
      (by rw [sub_zero]; exact place) small
    rw [sub_zero] at packed
    refine ⟨_, rounds_plain format positive ⟨hb, base, qhigh, .inr ⟨qlow, low⟩⟩ spec (eq_false_of_ne_true overs) under ?_ inBound packed ?_⟩
    · rw [notTiny, Bool.and_false, Bool.false_and]
    · rw [notTiny, Bool.false_and, if_neg (by decide)]

/-- A tiny number with underflow disabled: rounded at the least place, a zero in the non-IEEE mode. -/
theorem rounds_denormal (p : Word) (s : Bool) {n d a b : Nat} {k : Int} (m : Magnitude n d k a b) (positive : 0 < a)
    (tiny : F.tiny (signedInt s a) b = true) (ue : bitAt p 26 = false) :
    ∃ x, Rounds F p (signedInt s a) b s x
      (roundDenormal single p s (rintAt (fpRn p) s n d k (leastExp single - precision single + 1))) := by
  have hb := m.pos
  have unit : 0 < b * 2 ^ c := by positivity
  have precision := format.precision
  have least := format.leastExp
  have below := (tiny_iff F s positive).mp tiny
  rw [format.least] at below
  have spec := rint_spec (fpRn p) s a unit
  have qhigh := spec.rounded.le unit (u := 2 ^ w) (by linarith)
  have overs := not_over_of_tiny format (fpRn p) s positive ((tiny_iff F s positive).mp tiny)
  have under : F.underflows p (signedInt s a) b = false := by
    show (bitAt p 26 && _) = false
    rw [ue, Bool.false_and]
  have place : (leastExp single - ((w + 1 : Nat) : Int) + 1) + 1074 = c := by
    rw [least]
    push_cast
    omega
  rw [precision, rintAt_magnitude m (fpRn p) s place]
  generalize rint (fpRn p) s a (b * 2 ^ c) = ans at spec qhigh
  have placed : Placed w c a b ans.1 c := ⟨hb, le_refl c, qhigh.trans (Nat.pow_le_pow_right (by decide) (Nat.le_succ w)), .inl rfl⟩
  have test : (fpNonIeee p && decide (ans.1 < 2 ^ (Machine.precision single - 1))) = true ↔ bitAt p 29 = true ∧ ans.1 < 2 ^ w := by
    have ni : fpNonIeee p = bitAt p 29 := by
      show (bitAt p 29 && !bitAt p 26) = bitAt p 29
      rw [ue, Bool.not_false, Bool.and_true]
    rw [ni, precision, Bool.and_eq_true, decide_eq_true_eq]
    rfl
  unfold roundDenormal
  by_cases flush : (fpNonIeee p && decide (ans.1 < 2 ^ (Machine.precision single - 1))) = true
  · rw [if_pos flush]
    obtain ⟨ni, small⟩ := test.mp flush
    exact ⟨_, rounds_flushed format positive placed spec tiny ni ue small rfl⟩
  · rw [if_neg flush, precision]
    have width := format.width.2
    have top := format.top
    have order := format.order
    have inside : ans.1 * 2 ^ c < F.bound := by
      rw [format.bound]
      calc ans.1 * 2 ^ c ≤ 2 ^ w * 2 ^ S := Nat.mul_le_mul qhigh (Nat.pow_le_pow_right (by decide) order)
        _ < 2 ^ (w + 1) * 2 ^ S := Nat.mul_lt_mul_of_pos_right (Nat.pow_lt_pow_right (by decide) (Nat.lt_succ_self w)) (by positivity)
    have small : ans.1 * 2 ^ c < 2 ^ 2098 := by
      rw [format.bound] at inside
      exact inside.trans_le (by rw [← pow_add]; exact Nat.pow_le_pow_right (by decide) top)
    have wide : (2 : Nat) ^ w < 2 ^ 53 := Nat.pow_lt_pow_right (by decide) width
    refine ⟨_, rounds_plain format positive placed spec overs under ?_ inside (pack_holds s (by omega) place small) ?_⟩
    · rw [tiny, Bool.and_true, format.least]
      have units : ans.1 * 2 ^ c < 2 ^ w * 2 ^ c ↔ ans.1 < 2 ^ w := Nat.mul_lt_mul_right (by positivity)
      by_contra both
      rw [Bool.not_eq_false, Bool.and_eq_true, decide_eq_true_eq, units] at both
      exact flush (test.mpr both)
    · rw [tiny, Bool.true_and]

/-- A tiny number with underflow enabled: scaled up, rounded to the precision. -/
theorem rounds_scaled (p : Word) (s : Bool) {n d a b : Nat} {k : Int} (m : Magnitude n d k a b) (positive : 0 < a)
    (within : b ≤ a * 2 ^ lowest) (tiny : F.tiny (signedInt s a) b = true) (ue : bitAt p 26 = true) :
    ∃ x, Rounds F p (signedInt s a) b s x
      (roundInRange single p s n d (k + F.adjust) (floorLog2 n d k + F.adjust) (adjustment single) uxBit) := by
  have hb := m.pos
  have m' := m.scale F.adjust
  have precision := format.precision
  have exponent : floorLog2 n d (k + F.adjust) = floorLog2 n d k + F.adjust := (Int.add_assoc _ _ _).symm
  have below := (tiny_iff F s positive).mp tiny
  have overs := not_over_of_tiny format (fpRn p) s positive below
  rw [format.least] at below
  have up := format.up
  have upTop := format.upTop
  have top := format.top
  obtain ⟨T, hT, base⟩ : ∃ T : Nat, floorLog2 n d (k + F.adjust) + 1074 = (w : Int) + T ∧ cp ≤ T := by
    have reached : ¬ floorLog2 n d (k + F.adjust) < ((cp + w : Nat) : Int) - 1074 := by
      rw [floorLog2_lt_iff m' (M := cp + w) (by push_cast; omega)]
      refine not_lt.mpr ?_
      calc b * 2 ^ (cp + w) ≤ a * 2 ^ lowest * 2 ^ (cp + w) := Nat.mul_le_mul_right _ within
        _ = a * 2 ^ (lowest + (cp + w)) := by rw [pow_add]; ring
        _ ≤ a * 2 ^ F.adjust := Nat.mul_le_mul_left _ (Nat.pow_le_pow_right (by decide) (by omega))
    push_cast at reached
    exact ⟨(floorLog2 n d (k + F.adjust) + 1074 - w).toNat, by omega, by omega⟩
  have order : T + w < c + w + F.adjust := by
    have less : floorLog2 n d k < ((c + w : Nat) : Int) - 1074 := by
      rw [floorLog2_lt_iff m (M := c + w) (by push_cast; omega)]
      calc a < b * (2 ^ w * 2 ^ c) := below
        _ = b * 2 ^ (c + w) := by rw [pow_add]; ring
    rw [exponent] at hT
    push_cast at less
    omega
  obtain ⟨low, high⟩ := normal_place m' hT
  have unit : 0 < b * 2 ^ T := by positivity
  have spec := rint_spec (fpRn p) s (a * 2 ^ F.adjust) unit
  have qlow := spec.rounded.ge unit low
  have qhigh := spec.rounded.le unit high.le
  have place : (floorLog2 n d k + F.adjust - ((w + 1 : Nat) : Int) + 1) + 1074 = T := by
    rw [← exponent]
    push_cast
    omega
  have exceeds := carried_exceeds qlow qhigh place (e := greatestExp single) (E := w + 1 + S)
    (by rw [format.greatestExp]; push_cast; omega)
  rw [roundInRange_eq, precision, rintAt_magnitude m' (fpRn p) s place]
  generalize rint (fpRn p) s (a * 2 ^ F.adjust) (b * 2 ^ T) = ans at spec qlow qhigh exceeds
  have inRange : ans.1 * 2 ^ T < 2 ^ (w + 1 + S) := by
    calc ans.1 * 2 ^ T ≤ 2 ^ (w + 1) * 2 ^ T := Nat.mul_le_mul_right _ qhigh
      _ = 2 ^ (w + 1 + T) := (pow_add _ _ _).symm
      _ < 2 ^ (w + 1 + S) := Nat.pow_lt_pow_right (by decide) (by omega)
  rw [roundEnd_inside format (mt exceeds.mp (not_le.mpr inRange))]
  have inside : ans.1 * 2 ^ T < 2 ^ 2098 := inRange.trans_le (Nat.pow_le_pow_right (by decide) top)
  have packed := pack_carried s format.width.2 qhigh (t := floorLog2 n d k + F.adjust - ((w + 1 : Nat) : Int) + 1) (adj := 0)
    (by rw [sub_zero]; exact place) inside
  rw [sub_zero] at packed
  have under : F.underflows p (signedInt s a) b = true := by
    show (bitAt p 26 && F.tiny (signedInt s a) b) = true
    rw [ue, tiny]
    rfl
  have off : F.overflows p (signedInt s a) b = false ∧ F.lost p (signedInt s a) b = false := by
    constructor
    · show (bitAt p 25 && F.over (fpRn p) (signedInt s a) b) = false
      rw [overs, Bool.and_false]
    · show (!bitAt p 25 && F.over (fpRn p) (signedInt s a) b) = false
      rw [overs, Bool.and_false]
  refine ⟨_, rounds_adjusted format (by positivity) ⟨hb, base, qhigh, .inr ⟨qlow, low⟩⟩ spec off.2 (fun _ => under) ?_ ?_ inside packed ?_ rfl⟩
  · rw [signedInt_mul]
    exact if_pos under
  · exact if_neg (by rw [off.1]; decide)
  · intro j hj
    rw [overs, tiny, ue, bitAt_ux hj]
    simp

/-- The rounding of any magnitude. -/
theorem rounds_magnitude (p : Word) (s : Bool) {n d a b : Nat} {k : Int} (m : Magnitude n d k a b) (positive : 0 < a)
    (low : b ≤ a * 2 ^ lowest) (high : a < b * 2 ^ highest) :
    ∃ x, Rounds F p (signedInt s a) b s x (fpRound single p s n d k) := by
  have adjust := format.adjustment
  have tiny : floorLog2 n d k < leastExp single ↔ F.tiny (signedInt s a) b = true := by
    rw [tiny_iff F s positive, format.least, format.leastExp, floorLog2_lt_iff m (M := c + w) (by push_cast; omega), pow_add,
      Nat.mul_comm (2 ^ c)]
  rw [fpRound_eq]
  by_cases small : floorLog2 n d k < leastExp single
  · rw [if_pos small]
    cases ue : bitAt p 26
    · have off : ¬ fpUe p = true := by rw [fpUe, ue]; decide
      rw [if_neg off]
      exact rounds_denormal format p s m positive (tiny.mp small) ue
    · have on : fpUe p = true := ue
      rw [if_pos on]
      have := rounds_scaled format p s m positive low (tiny.mp small) ue
      rwa [← adjust] at this
  · rw [if_neg small]
    rw [format.leastExp] at small
    exact rounds_normal format p s m positive high (T := (floorLog2 n d k + 1074 - w).toNat) (by omega) (by omega)

end

end Sys2Proof.Machine
end

section
/-! PROOF. O34: the exact results of the arithmetic instructions. -/

namespace Sys2Proof.Machine

/-! ## Values of finite operands -/

/-- A value is the number `n / d` (in units), of the sign `s` also where it is zero, given as an integer times a power of two. -/
def Operand (v : FpValue) (n : Int) (d : Nat) (s : Bool) : Prop :=
  (v = .zero s ∧ n = 0) ∨ ∃ m k a, v = .fin s m 1 k ∧ Magnitude m 1 k a d ∧ 0 < a ∧ n = signedInt s a

/-- A value is the number `n / d`; where it is zero its sign is `z`. -/
def Stands (v : FpValue) (n : Int) (d : Nat) (z : Bool) : Prop :=
  (v = .zero z ∧ n = 0) ∨ ∃ s m e k a, v = .fin s m e k ∧ Magnitude m e k a d ∧ 0 < a ∧ n = signedInt s a

theorem Operand.stands {v : FpValue} {n : Int} {d : Nat} {s : Bool} (h : Operand v n d s) : Stands v n d s := by
  rcases h with zero | ⟨m, k, a, rest⟩
  · exact .inl zero
  · exact .inr ⟨s, m, 1, k, a, rest⟩

theorem signedInt_mul_signedInt (s t : Bool) (a b : Nat) : signedInt s a * signedInt t b = signedInt (s != t) (a * b) := by
  cases s <;> cases t <;> simp [signedInt]

theorem signedInt_neg (s : Bool) (a : Nat) : -signedInt s a = signedInt (!s) a := by cases s <;> simp [signedInt]

theorem Operand.neg {v : FpValue} {n : Int} {d : Nat} {s : Bool} (h : Operand v n d s) : Operand (fpValueNeg v) (-n) d (!s) := by
  rcases h with ⟨rfl, rfl⟩ | ⟨m, k, a, rfl, magnitude, positive, rfl⟩
  · exact .inl ⟨rfl, rfl⟩
  · exact .inr ⟨m, k, a, rfl, magnitude, positive, signedInt_neg s a⟩

theorem unit_ratio : ((unitOne : Nat) : ℚ) = 2 ^ (1074 : Int) := by
  rw [unitOne, Nat.cast_pow]
  exact (zpow_natCast (2 : ℚ) 1074).symm

/-- The same number over the unit. -/
theorem Operand.over_unit {v : FpValue} {n : Int} {s : Bool} (h : Operand v n 1 s) : Operand v (n * unitOne) unitOne s := by
  rcases h with ⟨rfl, rfl⟩ | ⟨m, k, a, rfl, magnitude, positive, rfl⟩
  · exact .inl ⟨rfl, Int.zero_mul _⟩
  · have unit : (unitOne : ℚ) ≠ 0 := by exact_mod_cast unitOne_pos.ne'
    refine .inr ⟨m, k, a * unitOne, rfl, ⟨magnitude.num, magnitude.den, unitOne_pos, ?_⟩, Nat.mul_pos positive unitOne_pos,
      (signedInt_mul s a unitOne).symm⟩
    rw [magnitude.ratio]
    push_cast
    field_simp

theorem Operand.mul {v w : FpValue} {n m : Int} {s t : Bool} (h : Operand v n 1 s) (h' : Operand w m 1 t) :
    Operand (fpMul v w) (n * m) unitOne (s != t) := by
  rcases h with ⟨rfl, rfl⟩ | ⟨m, k, a, rfl, magnitude, positive, rfl⟩
  · rcases h' with ⟨rfl, rfl⟩ | ⟨m', k', a', rfl, magnitude', positive', rfl⟩
    · exact .inl ⟨rfl, rfl⟩
    · exact .inl ⟨rfl, Int.zero_mul _⟩
  · rcases h' with ⟨rfl, rfl⟩ | ⟨m', k', a', rfl, magnitude', positive', rfl⟩
    · exact .inl ⟨rfl, Int.mul_zero _⟩
    · refine .inr ⟨m * m', k + k', a * a', rfl, ⟨Nat.mul_pos magnitude.num magnitude'.num, Nat.one_pos, unitOne_pos, ?_⟩,
        Nat.mul_pos positive positive', ?_⟩
      · have one := magnitude.ratio
        have two := magnitude'.ratio
        rw [zpow_add₀ (by norm_num), ← unit_ratio] at one two
        rw [zpow_add₀ (by norm_num), ← unit_ratio, zpow_add₀ (by norm_num)]
        have unit : (unitOne : ℚ) ≠ 0 := by exact_mod_cast unitOne_pos.ne'
        rw [eq_div_iff unit]
        push_cast at one two ⊢
        simp only [div_one] at one two ⊢
        rw [← one, ← two]
        ring
      · exact signedInt_mul_signedInt s t a a'

theorem signedInt_sign (t : Bool) {a : Nat} (positive : 0 < a) : (signedInt t a).sign = if t then -1 else 1 := by
  cases t
  · exact Int.sign_eq_one_of_pos (by show (0 : Int) < a; omega)
  · exact Int.sign_eq_neg_one_of_neg (by show -(a : Int) < 0; omega)

theorem Operand.div {v w : FpValue} {n m : Int} {s t : Bool} (h : Operand v n 1 s) (h' : Operand w m 1 t) (nonzero : m ≠ 0) :
    Stands (fpDiv v w) (n * unitOne * m.sign) m.natAbs (s != t) := by
  rcases h' with ⟨_, rfl⟩ | ⟨m', k', a', rfl, magnitude', positive', rfl⟩
  · exact absurd rfl nonzero
  rcases h with ⟨rfl, rfl⟩ | ⟨m, k, a, rfl, magnitude, positive, rfl⟩
  · exact .inl ⟨rfl, by rw [Int.zero_mul, Int.zero_mul]⟩
  · rw [natAbs_signedInt, signedInt_sign t positive']
    refine .inr ⟨s != t, m * 1, 1 * m', k - k', a * unitOne, rfl,
      ⟨by simpa using magnitude.num, by simpa using magnitude'.num, positive', ?_⟩, Nat.mul_pos positive unitOne_pos, ?_⟩
    · have one := magnitude.ratio
      have two := magnitude'.ratio
      have unit : (unitOne : ℚ) ≠ 0 := by exact_mod_cast unitOne_pos.ne'
      have den : (m' : ℚ) ≠ 0 := by exact_mod_cast magnitude'.num.ne'
      have power : (2 : ℚ) ^ k' ≠ 0 := by positivity
      rw [zpow_add₀ (by norm_num), ← unit_ratio] at one two
      rw [zpow_add₀ (by norm_num), ← unit_ratio, zpow_sub₀ (by norm_num)]
      push_cast at one two ⊢
      simp only [div_one, mul_one, one_mul] at one two ⊢
      rw [← one, ← two]
      field_simp
    · rw [signedInt_mul]
      generalize (unitOne : Int) = u
      cases s <;> cases t <;> simp [signedInt]

/-- A sum of signed magnitudes at one place. -/
theorem sum_ratio {m m' a a' d : Nat} {low : Int} {s t : Bool} (one : (m : ℚ) * 2 ^ (low + 1074) = a / d)
    (two : (m' : ℚ) * 2 ^ (low + 1074) = a' / d) :
    ((signedInt s m + signedInt t m' : Int) : ℚ) * 2 ^ (low + 1074) = (signedInt s a + signedInt t a' : Int) / d := by
  have turn (s : Bool) (x : Nat) : ((signedInt s x : Int) : ℚ) = (if s then -1 else 1) * (x : ℚ) := by
    cases s <;> simp [signedInt]
  push_cast [turn]
  rw [add_mul, mul_assoc, mul_assoc, one, two]
  ring

/-- A number and its place, at a lower place. -/
theorem shift_ratio {m a d : Nat} {k low : Int} (h : Magnitude m 1 k a d) (le : low ≤ k) :
    ((m <<< (k - low).natAbs : Nat) : ℚ) * 2 ^ (low + 1074) = a / d := by
  rw [← h.ratio, Nat.shiftLeft_eq]
  push_cast
  rw [div_one, mul_assoc, ← zpow_natCast, ← zpow_add₀ (by norm_num)]
  congr 2
  omega

theorem signedInt_natAbs (n : Int) : n = signedInt (decide (n < 0)) n.natAbs := by
  by_cases negative : n < 0
  · rw [decide_eq_true negative]
    show n = -(n.natAbs : Int)
    omega
  · rw [decide_eq_false negative]
    show n = (n.natAbs : Int)
    omega

/-- A number in another unit has its sign and its magnitude in that unit. -/
theorem ratio_parts {x v : Int} {d : Nat} {k : Int} (hd : 0 < d) (ratio : (x : ℚ) * 2 ^ k = (v : ℚ) / d) :
    (x = 0 ↔ v = 0) ∧ (x < 0 ↔ v < 0) ∧ (x.natAbs : ℚ) * 2 ^ k = (v.natAbs : ℚ) / d := by
  have den : (0 : ℚ) < d := by exact_mod_cast hd
  have power : (0 : ℚ) < 2 ^ k := by positivity
  refine ⟨?_, ?_, ?_⟩
  · have left : (x : ℚ) * 2 ^ k = 0 ↔ (x : ℚ) = 0 := mul_eq_zero_iff_right power.ne'
    have right : (v : ℚ) / d = 0 ↔ (v : ℚ) = 0 := div_eq_zero_iff.trans (or_iff_left den.ne')
    rw [ratio, right] at left
    exact_mod_cast left.symm
  · have left : (x : ℚ) * 2 ^ k < 0 ↔ (x : ℚ) < 0 := by
      constructor
      · intro h
        by_contra positive
        have := mul_nonneg (not_lt.mp positive) power.le
        linarith
      · exact fun h => mul_neg_of_neg_of_pos h power
    have right : (v : ℚ) / d < 0 ↔ (v : ℚ) < 0 := by rw [div_lt_iff₀ den, zero_mul]
    rw [ratio, right] at left
    exact_mod_cast left.symm
  · have both := congrArg abs ratio
    rw [abs_mul, abs_div, abs_of_pos power, abs_of_pos den] at both
    rwa [Nat.cast_natAbs, Nat.cast_natAbs, Int.cast_abs, Int.cast_abs]

/-- The sum of two numbers with a common denominator (R609). -/
theorem Operand.add {v w : FpValue} {n m : Int} {d : Nat} {s t : Bool} (f : Word) (h : Operand v n d s) (h' : Operand w m d t) :
    Stands (fpAdd f v w) (n + m) d (zeroSum (fpRn f) s t) := by
  have signs : zeroSumSign f = decide (fpRn f = 3) := by
    unfold zeroSumSign
    rfl
  rcases h with ⟨rfl, rfl⟩ | ⟨p, k, a, rfl, magnitude, positive, rfl⟩
  · rcases h' with ⟨rfl, rfl⟩ | ⟨p', k', a', rfl, magnitude', positive', rfl⟩
    · refine .inl ⟨?_, rfl⟩
      show (if s = t then FpValue.zero s else .zero (zeroSumSign f)) = .zero (if s = t then s else decide (fpRn f = 3))
      rw [signs]
      split <;> rfl
    · exact .inr ⟨t, p', 1, k', a', rfl, magnitude', positive', Int.zero_add _⟩
  · rcases h' with ⟨rfl, rfl⟩ | ⟨p', k', a', rfl, magnitude', positive', rfl⟩
    · exact .inr ⟨s, p, 1, k, a, rfl, magnitude, positive, Int.add_zero _⟩
    · have one := shift_ratio magnitude (Int.min_le_left k k')
      have two := shift_ratio magnitude' (Int.min_le_right k k')
      have total := sum_ratio (s := s) (t := t) one two
      have value : fpAdd f (.fin s p 1 k) (.fin t p' 1 k') =
          if signedInt s (p <<< (k - min k k').natAbs) + signedInt t (p' <<< (k' - min k k').natAbs) = 0 then .zero (zeroSumSign f)
          else .fin (decide (signedInt s (p <<< (k - min k k').natAbs) + signedInt t (p' <<< (k' - min k k').natAbs) < 0))
            (signedInt s (p <<< (k - min k k').natAbs) + signedInt t (p' <<< (k' - min k k').natAbs)).natAbs 1 (min k k') := rfl
      rw [value]
      generalize min k k' = low at total
      generalize signedInt s (p <<< (k - low).natAbs) + signedInt t (p' <<< (k' - low).natAbs) = sum at total
      obtain ⟨zero, below, size⟩ := ratio_parts magnitude.pos total
      by_cases none : sum = 0
      · rw [if_pos none]
        refine .inl ⟨?_, zero.mp none⟩
        have differ : s ≠ t := by
          rintro rfl
          have := zero.mp none
          cases s <;> simp [signedInt] at this <;> omega
        rw [zeroSum, if_neg differ, signs]
      · rw [if_neg none]
        have some := mt zero.mpr none
        refine .inr ⟨_, _, 1, low, (signedInt s a + signedInt t a').natAbs, rfl,
          ⟨by omega, Nat.one_pos, magnitude.pos, ?_⟩, ?_, ?_⟩
        · rw [Nat.cast_one, div_one]
          exact size
        · omega
        · rw [decide_eq_decide.mpr below]
          exact signedInt_natAbs _

/-! ## Finite operands -/

theorem fpValue_operand {x : DWord} (finite : isFinite x) : Operand (fpValue x) (scaledValue x) 1 (fpSign x) := by
  have exp := (isFinite_iff x).mp finite
  have notInf : ¬ fpIsInf x = true := by simp [fpIsInf, exp]
  unfold fpValue
  rw [if_neg notInf]
  by_cases zero : fpIsZero x = true
  · rw [if_pos zero]
    exact .inl ⟨rfl, (fpIsZero_iff x).mp zero⟩
  · rw [if_neg zero]
    have some : 0 < magnitude 52 (fpBits x) := by
      have := mt (fpIsZero_iff x).mpr zero
      rw [← natAbs_scaledValue]
      omega
    have ratio := magnitude_ratio x
    have unit : (unitOne : ℚ) ≠ 0 := by exact_mod_cast unitOne_pos.ne'
    refine .inr ⟨_, _, magnitude 52 (fpBits x), rfl, ⟨?_, Nat.one_pos, Nat.one_pos, ?_⟩, some, scaledValue_signed x⟩
    · by_contra none
      have zeroMant : fpMant x = 0 := by omega
      rw [zeroMant, Nat.cast_zero, zero_mul, eq_comm, div_eq_zero_iff] at ratio
      rcases ratio with h | h
      · have : magnitude 52 (fpBits x) = 0 := by exact_mod_cast h
        omega
      · exact unit h
    · rw [zpow_add₀ (by norm_num), ← unit_ratio, Nat.cast_one, div_one, div_one, ← mul_assoc, ratio]
      field_simp

/-- The number an operand counts as (R606). -/
def operandValue (f : Word) (x : DWord) : Int :=
  if bitAt f 29 && !bitAt f 26 && decide ((scaledValue x).natAbs < 2 ^ 52) then 0 else scaledValue x

theorem fpZero_holds (s : Bool) : Holds s 0 (fpZero s) := by
  have bits : fpBits (fpZero s) = 0 := fpBits_signed s (n := 0) (by decide)
  exact ⟨fpSign_signed s 0, (isFinite_iff_bits _).mpr (by rw [bits]; decide), by rw [bits, magnitude_eq_zero]⟩

theorem scaledValue_fpZero (s : Bool) : scaledValue (fpZero s) = 0 := by
  rw [(fpZero_holds s).scaled]
  cases s <;> rfl

theorem flushOperand_finite (f : Word) {x : DWord} (finite : isFinite x) :
    isFinite (flushOperand f x) ∧ fpSign (flushOperand f x) = fpSign x ∧ scaledValue (flushOperand f x) = operandValue f x := by
  have small : fpExp x = 0 ↔ (scaledValue x).natAbs < 2 ^ 52 := by
    rw [natAbs_scaledValue]
    have := fpExp_lt_iff x (e := 1) (by decide)
    omega
  have mode : fpNonIeee f = (bitAt f 29 && !bitAt f 26) := rfl
  unfold flushOperand operandValue
  rw [mode]
  cases bitAt f 29 && !bitAt f 26
  · simp only [Bool.false_and, Bool.false_eq_true, if_false]
    exact ⟨finite, trivial, trivial⟩
  · simp only [Bool.true_and, decide_eq_true_eq]
    by_cases denormal : fpIsDenormal x = true
    · have both : fpExp x = 0 ∧ fpFrac x ≠ 0 := by simpa [fpIsDenormal] using denormal
      rw [if_pos denormal, if_pos (small.mp both.1)]
      exact ⟨(fpZero_holds _).finite, (fpZero_holds _).sign, scaledValue_fpZero _⟩
    · rw [if_neg denormal]
      refine ⟨finite, rfl, ?_⟩
      split
      · next less =>
        have exp := small.mpr less
        have frac : fpFrac x = 0 := by simpa [fpIsDenormal, exp] using denormal
        exact (fpIsZero_iff x).mp (by simp [fpIsZero, exp, frac])
      · rfl

theorem operandValue_operand (f : Word) {x : DWord} (finite : isFinite x) :
    Operand (fpValue (flushOperand f x)) (operandValue f x) 1 (fpSign x) := by
  obtain ⟨finite', sign, value⟩ := flushOperand_finite f finite
  rw [← sign, ← value]
  exact fpValue_operand finite'

/-! ## The procedure on finite operands -/

/-- What of a divisor: it is no zero, as counted. -/
def divides (kind : FpKind) (f : Word) (b : DWord) : Prop := kind = .div → operandValue f b ≠ 0

theorem finite_class {x : DWord} (finite : isFinite x) : fpIsNan x = false ∧ fpIsInf x = false := by
  have exp := (isFinite_iff x).mp finite
  simp [fpIsNan, fpIsInf, exp]

/-- On finite operands the procedure rounds the exact result (R609 steps 7 to 9). -/
theorem fpArith_finite (single : Bool) (kind : FpKind) (f : Word) {a b c : DWord} (ha : isFinite a) (hb : isFinite b) (hc : isFinite c)
    (divisor : divides kind f b) :
    fpArith single kind f a b c = negateResult single (fpNegates kind)
      (fpRoundValue single f (fpExactValue kind f (flushOperand f a) (flushOperand f b) (flushOperand f c))) := by
  obtain ⟨fa, _, _⟩ := flushOperand_finite f ha
  obtain ⟨fb, _, vb⟩ := flushOperand_finite f hb
  obtain ⟨fc, _, _⟩ := flushOperand_finite f hc
  obtain ⟨na, ia⟩ := finite_class fa
  obtain ⟨nb, ib⟩ := finite_class fb
  obtain ⟨nc, ic⟩ := finite_class fc
  have nonzero : kind = .div → fpIsZero (flushOperand f b) = false := by
    intro h
    have := divisor h
    rw [← vb] at this
    exact eq_false_of_ne_true (mt (fpIsZero_iff _).mp this)
  rw [fpArith_eq]
  generalize flushOperand f a = a at *
  generalize flushOperand f b = b at *
  generalize flushOperand f c = c at *
  have numbers : (fpOperands kind a b c).any fpIsNan = false := by cases kind <;> simp [fpOperands, na, nb, nc]
  have quietly : (fpOperands kind a b c).any fpIsSnan = false := by cases kind <;> simp [fpOperands, fpIsSnan, na, nb, nc]
  have valid : fpInvalid kind a b c = 0 := by
    cases kind with
    | div => simp [fpInvalid, ia, nonzero rfl]
    | _ => simp [fpInvalid, invalidSum, infTimesZero, productInf, ia, ib, ic]
  have none : ¬ (arithExc kind a b c != 0) = true := by
    rw [arithExc, quietly, valid]
    decide
  rw [arithFlushed, if_neg none, if_neg (by rw [numbers]; decide), if_neg]
  intro h
  simp only [Bool.and_eq_true, beq_iff_eq] at h
  rw [nonzero h.1.1] at h
  exact absurd h.1.2 (by decide)

/-! ## From the exact number to the written one -/

/-- Zero does not overflow. -/
theorem not_over_zero {F : FpFormat} {single : Bool} {w c S J cp Jp lowest highest : Nat}
    (format : FormatIs F single w c S J cp Jp lowest highest) (rn : BitVec 2) {d : Nat} (hd : 0 < d) : F.over rn 0 d = false := by
  have den : (0 : Int) < d := by exact_mod_cast hd
  have bound : F.step < 2 * F.bound := by
    have one : 0 < 2 ^ (w + 1) := by positivity
    rw [format.step, format.bound, ← Nat.mul_assoc]
    exact lt_mul_of_one_lt_left (by positivity) (by omega)
  have less : (d : Int) * F.step < 2 * d * F.bound := by
    have := mul_lt_mul_of_pos_left (show (F.step : Int) < 2 * F.bound by exact_mod_cast bound) den
    linarith
  have some : (0 : Int) < d * F.bound := mul_pos den (by
    rw [format.bound]
    positivity)
  have away : awayFromZero rn 0 = false := by simp [awayFromZero]
  unfold FpFormat.over
  rw [away]
  split
  · exact decide_eq_false (by simp; linarith)
  · exact decide_eq_false (by simp; linarith)

/-- A zero result. -/
theorem rounds_zero {F : FpFormat} {single : Bool} {w c S J cp Jp lowest highest : Nat}
    (format : FormatIs F single w c S J cp Jp lowest highest) (p : Word) {d : Nat} (hd : 0 < d) (z : Bool) :
    Rounds F p 0 d z (fpZero z) (fpExact single (fpZero z) 0) := by
  have zero := scaledValue_fpZero z
  have hz := fpZero_holds z
  have den : (0 : Int) < d := by exact_mod_cast hd
  have tiny : F.tiny 0 d = false := decide_eq_false (by simp)
  have overs := not_over_zero format (fpRn p) hd
  have under : F.underflows p 0 d = false := by
    show (bitAt p 26 && F.tiny 0 d) = false
    rw [tiny, Bool.and_false]
  obtain ⟨over', lost, num, den'⟩ := not_adjusted overs under
  have rounded : IsRounded F.among F.even (fpRn p) 0 d (fpZero z) := by
    refine isRounded_zero _ den hz.finite ?_ zero
    have codes : 0 < J := by
      by_contra none
      have := format.codes
      have some : 0 < 2 ^ (w + 1) * 2 ^ S := by positivity
      rw [show J = 0 by omega, magnitude_eq_zero.mpr rfl, Nat.zero_mul] at this
      omega
    exact (format.grid.member (fpZero z) 0 hz.finite codes (by rw [hz.value, magnitude_eq_zero.mpr rfl, Nat.zero_mul])).1
  refine ⟨rfl, congrArg some (format.classes _ hz.not_nan), hz.not_nan, hz.sign, ?_, ?_, ?_, ?_, ?_, ?_⟩
  · rintro (h | h)
    · rw [under] at h
      exact absurd h (by decide)
    · rw [over'] at h
      exact absurd h (by decide)
  · intro h
    rw [lost] at h
    exact absurd h (by decide)
  · refine fun _ _ => ⟨hz.finite, _, rounded, ?_⟩
    rw [tiny, Bool.and_false, Bool.false_and, if_neg (by decide)]
  · rw [lost, num, den', if_neg (by decide), zero, mul_zero]
    exact iff_of_true rfl rfl
  · rw [num, den', zero]
    exact fun _ => ⟨rfl, iff_of_false (by simp [fpExact]) (by simp)⟩
  · intro k hk
    rw [overs, tiny]
    show bitAt (0 : Word) k = _
    rw [bitAt_zero]
    simp

/-- The number is in the range that the exponent adjustment covers. -/
def InRange (n : Int) (d lowest highest : Nat) : Prop := n ≠ 0 → d ≤ n.natAbs * 2 ^ lowest ∧ n.natAbs < d * 2 ^ highest

/-- Rounding an exact result. -/
theorem rounds_stands {F : FpFormat} {single : Bool} {w c S J cp Jp lowest highest : Nat}
    (format : FormatIs F single w c S J cp Jp lowest highest) (p : Word) {v : FpValue} {n : Int} {d : Nat} {z : Bool} (hd : 0 < d)
    (h : Stands v n d z) (range : InRange n d lowest highest) :
    ∃ x s, Rounds F p n d s x (fpRoundValue single p v) ∧ s = if n = 0 then z else decide (n < 0) := by
  rcases h with ⟨rfl, rfl⟩ | ⟨s, m, e, k, a, rfl, magnitude, positive, rfl⟩
  · exact ⟨_, z, rounds_zero format p hd z, (if_pos rfl).symm⟩
  · have nonzero : signedInt s a ≠ 0 := by cases s <;> simp [signedInt] <;> omega
    obtain ⟨low, high⟩ := range nonzero
    rw [natAbs_signedInt] at low high
    obtain ⟨x, rounds⟩ := rounds_magnitude format p s magnitude positive low high
    refine ⟨x, s, rounds, ?_⟩
    rw [if_neg nonzero]
    cases s
    · exact (decide_eq_false (by show ¬ (a : Int) < 0; omega)).symm
    · exact (decide_eq_true (by show -(a : Int) < 0; omega)).symm

theorem fpIsNan_fpNegate (x : DWord) : fpIsNan (fpNegate x) = fpIsNan x := by
  have bits := fpBits_fpNegate x
  rw [fpBits_eq, fpBits_eq] at bits
  have := fpFrac_lt x
  have := fpFrac_lt (fpNegate x)
  have parts : fpExp (fpNegate x) = fpExp x ∧ fpFrac (fpNegate x) = fpFrac x := by omega
  rw [fpIsNan, fpIsNan, parts.1, parts.2]

/-- What `fnmadd` and `fnmsub` turn of a result. -/
theorem negateResult_value {F : FpFormat} {single : Bool} (classes : ∀ x, fpIsNan x = false → fprfOf single x = classOf F.least x)
    (negate : Bool) {r : FpResult} {x : DWord} (value : r.value = some x) (fprf : r.fprf = some (classOf F.least x))
    (number : fpIsNan x = false) :
    (negateResult single negate r).value = some (if negate then fpNegate x else x) ∧
      (negateResult single negate r).fprf = some (classOf F.least (if negate then fpNegate x else x)) ∧
      (negateResult single negate r).fi = r.fi ∧ (negateResult single negate r).fr = r.fr ∧
      (negateResult single negate r).frAny = r.frAny ∧ (negateResult single negate r).exc = r.exc := by
  cases negate
  · exact ⟨value, fprf, rfl, rfl, rfl, rfl⟩
  · have result : negateResult single true r =
        { r with value := some (fpNegate x), fprf := some (fprfOf single (fpNegate x)) } := by
      unfold negateResult
      rw [if_pos rfl, value]
    rw [result]
    refine ⟨rfl, congrArg some (classes _ ?_), rfl, rfl, rfl, rfl⟩
    rw [fpIsNan_fpNegate]
    exact number

/-- What the instruction leaves, from what was decided. -/
theorem rounded_of_committed {F : FpFormat} {single : Bool} {w c S J cp Jp lowest highest : Nat}
    (format : FormatIs F single w c S J cp Jp lowest highest) {s t : State} {frD : Reg} {rc negate : Bool} {n : Int} {d : Nat} {z : Bool}
    {x : DWord} {sx : Bool} {r : FpResult} {fr : Bool} (hd : 0 < d) (h : Rounds F s.fpscr n d sx x r) (sign : sx = if n = 0 then z else decide (n < 0))
    (isFr : FrIs (negateResult single negate r) fr)
    (committed : FpCommitted s t frD rc (negateResult single negate r).value (fpscrAfter s.fpscr (negateResult single negate r).exc fr
      (negateResult single negate r).fi (negateResult single negate r).fprf)) :
    FpRounded F s t n d z (if negate then fprGet t frD ^^^ 0x8000000000000000 else fprGet t frD) (fprGet t frD) := by
  obtain ⟨value, fprf, hfi, hfr, hany, hexc⟩ := negateResult_value format.classes negate h.value h.fprf h.number
  rw [FrIs, hfr, hany] at isFr
  rw [value, fprf, hfi, hexc] at committed
  have written := (committed.written _ rfl).1
  have own : (if negate then fprGet t frD ^^^ 0x8000000000000000 else fprGet t frD) = x := by
    rw [written]
    cases negate
    · rfl
    · exact fpNegate_fpNegate x
  rw [own]
  have fi : bitAt t.fpscr 14 = r.fi := by rw [committed.fpscr, bitAt_fpscrAfter_fi]
  have bit {k : Nat} (hk : k < 32) (status : k < 13 ∨ 19 < k) (summary : k ≠ 0 ∧ k ≠ 1 ∧ k ≠ 2 ∧ k ≠ 20) :
      bitAt t.fpscr k = (bitAt s.fpscr k || ((k == 3 && F.over (fpRn s.fpscr) n d) ||
        (k == 4 && (F.tiny n d && (bitAt s.fpscr 26 || r.fi)))) || (k == 6 && r.fi)) := by
    rw [committed.fpscr, bitAt_fpscrAfter_cause _ _ _ _ _ hk status summary, h.exc k hk]
  refine ⟨h.adjusted, fun lost => ⟨?_, h.lost lost⟩, h.rounded, fun zero => ?_, ?_, fun lost => ?_, ?_, ?_, ?_, ?_, fun k hk => ?_, ?_⟩
  · have nonzero : n ≠ 0 := by
      rintro rfl
      have : (!bitAt s.fpscr 25 && F.over (fpRn s.fpscr) 0 d) = true := lost
      rw [not_over_zero format _ hd, Bool.and_false] at this
      exact absurd this (by decide)
    rw [if_neg nonzero] at sign
    exact h.sign.trans sign
  · exact h.sign.trans sign
  · rw [fi]
    exact h.fi
  · obtain ⟨known, increased⟩ := h.fr lost
    rw [committed.fpscr, bitAt_fpscrAfter_fr, isFr known]
    exact increased
  · rw [committed.fpscr, field_fpscrAfter_fprf, written]
  · rw [bit (by decide) (by decide) (by decide)]
    simp
    rfl
  · rw [bit (by decide) (by decide) (by decide), fi]
    simp
  · rw [bit (by decide) (by decide) (by decide), fi]
    simp
  · have range : k < 32 ∧ (k < 13 ∨ 19 < k) ∧ (k ≠ 0 ∧ k ≠ 1 ∧ k ≠ 2 ∧ k ≠ 20) ∧ k ≠ 3 ∧ k ≠ 4 ∧ k ≠ 6 := by
      revert k
      decide
    obtain ⟨small, status, summary, ne3, ne4, ne6⟩ := range
    rw [bit small status summary, beq_false_of_ne ne3, beq_false_of_ne ne4, beq_false_of_ne ne6]
    simp
  · rw [Bool.eq_iff_iff, Bool.or_eq_true, Bool.or_eq_true, Bool.or_eq_true, newlySet, newlySet, newlySet,
      bit (k := 3) (by decide) (by decide) (by decide), bit (k := 4) (by decide) (by decide) (by decide),
      bit (k := 6) (by decide) (by decide) (by decide), committed.fpscr,
      bitAt_fpscrAfter _ _ _ _ _ (by decide) (by decide) (by decide), bitAt_raiseExc_fx, or_assoc, or_assoc]
    have raised {k : Nat} (hk : k < 32) : bitAt (withInexact r.fi r.exc) k =
        (((k == 3 && F.over (fpRn s.fpscr) n d) || (k == 4 && (F.tiny n d && (bitAt s.fpscr 26 || r.fi)))) || (k == 6 && r.fi)) := by
      have xx : bitAt xxBit k = decide (k = 6) := bitAt_maskBit 6 k hk
      have inexact : bitAt (withInexact r.fi r.exc) k = (bitAt r.exc k || (k == 6 && r.fi)) := by
        cases r.fi
        · rw [withInexact, if_neg (by decide), Bool.and_false, Bool.or_false]
        · rw [withInexact, if_pos rfl, bitAt_or, xx, Bool.and_true]
          rfl
      rw [inexact, h.exc k hk]
    refine or_congr_right ⟨?_, ?_⟩
    · rintro ⟨k, hk, set, clear⟩
      rw [raised hk] at set
      have which : k = 3 ∨ k = 4 ∨ k = 6 := by
        simp only [Bool.or_eq_true, Bool.and_eq_true, beq_iff_eq] at set
        tauto
      rcases which with rfl | rfl | rfl
      · exact .inl (by rw [Bool.or_assoc, set, clear]; rfl)
      · exact .inr (.inl (by rw [Bool.or_assoc, set, clear]; rfl))
      · exact .inr (.inr (by rw [Bool.or_assoc, set, clear]; rfl))
    · have new (k : Nat) (hk : k < 32) {q : Bool} (which : bitAt (withInexact r.fi r.exc) k = q)
          (set : ((bitAt s.fpscr k || q) && !bitAt s.fpscr k) = true) :
          ∃ k, k < 32 ∧ bitAt (withInexact r.fi r.exc) k = true ∧ bitAt s.fpscr k = false := by
        refine ⟨k, hk, ?_⟩
        rw [which]
        cases q <;> cases h : bitAt s.fpscr k <;> simp [h] at set ⊢
      rintro (set | set | set)
      · exact new 3 (by decide) (raised (by decide)) (by rwa [Bool.or_assoc] at set)
      · exact new 4 (by decide) (raised (by decide)) (by rwa [Bool.or_assoc] at set)
      · exact new 6 (by decide) (raised (by decide)) (by rwa [Bool.or_assoc] at set)

end Sys2Proof.Machine
end

section
/-! PROOF. O34: the arithmetic instructions on finite operands. -/

namespace Sys2Proof.Machine

/-! ## The sizes of operands and of exact results -/

/-- The numbers of a precision: multiples of a power of two, below another. -/
structure Sized (l h : Nat) (n : Int) : Prop where
  whole : 2 ^ l ∣ n.natAbs
  below : n.natAbs < 2 ^ h

/-- Room for the exact results of operands of a size. -/
structure Room (l h lowest highest : Nat) : Prop where
  unit : l ≤ 1074 ∧ 1074 ≤ h
  sum : h + 1 ≤ highest
  productLow : 1074 ≤ 2 * l + lowest
  productHigh : 2 * h + 1 ≤ 1074 + highest
  quotientLow : h ≤ l + 1074 + lowest
  quotientHigh : h + 1074 ≤ l + highest

theorem Sized.zero (l h : Nat) : Sized l h 0 := ⟨by simp, by simp⟩

theorem Sized.neg {l h : Nat} {n : Int} (s : Sized l h n) : Sized l h (-n) :=
  ⟨by rw [Int.natAbs_neg]; exact s.whole, by rw [Int.natAbs_neg]; exact s.below⟩

theorem Sized.add {l h : Nat} {n m : Int} (s : Sized l h n) (t : Sized l h m) : Sized l (h + 1) (n + m) := by
  refine ⟨?_, ?_⟩
  · have := dvd_add (Int.natCast_dvd.mpr s.whole) (Int.natCast_dvd.mpr t.whole)
    exact Int.natCast_dvd.mp this
  · have := s.below
    have := t.below
    rw [pow_succ]
    omega

theorem Sized.mul {l h : Nat} {n m : Int} (s : Sized l h n) (t : Sized l h m) : Sized (2 * l) (2 * h) (n * m) := by
  rw [Nat.two_mul, Nat.two_mul]
  refine ⟨?_, ?_⟩
  · rw [Int.natAbs_mul, pow_add]
    exact Nat.mul_dvd_mul s.whole t.whole
  · rw [Int.natAbs_mul, pow_add]
    exact Nat.mul_lt_mul'' s.below t.below

theorem unitOne_eq : unitOne = 2 ^ 1074 := rfl

theorem Sized.over_unit {l h : Nat} {n : Int} (s : Sized l h n) {k : Nat} (unit : l ≤ k) (big : k ≤ h) {u : Nat} (hu : u = 2 ^ k) :
    Sized (2 * l) (2 * h) (n * (u : Int)) := by
  subst hu
  refine ⟨?_, ?_⟩
  · rw [Int.natAbs_mul, Int.natAbs_natCast, Nat.two_mul, pow_add]
    exact Nat.mul_dvd_mul s.whole (pow_dvd_pow 2 unit)
  · rw [Int.natAbs_mul, Int.natAbs_natCast, Nat.two_mul, pow_add]
    exact Nat.mul_lt_mul_of_lt_of_le s.below (Nat.pow_le_pow_right (by decide) big) (by positivity)

theorem Sized.least {l h : Nat} {n : Int} (s : Sized l h n) (nonzero : n ≠ 0) : 2 ^ l ≤ n.natAbs :=
  Nat.le_of_dvd (by omega) s.whole

theorem sum_inRange {l h lowest highest : Nat} (room : Room l h lowest highest) {n : Int} (s : Sized l (h + 1) n) :
    InRange n 1 lowest highest := by
  intro nonzero
  refine ⟨Nat.mul_pos (by omega) (by positivity), ?_⟩
  rw [Nat.one_mul]
  exact s.below.trans_le (Nat.pow_le_pow_right (by decide) room.sum)

theorem product_inRange {l h lowest highest : Nat} (room : Room l h lowest highest) {n : Int} (s : Sized (2 * l) (2 * h + 1) n) :
    InRange n unitOne lowest highest := by
  intro nonzero
  have low := room.productLow
  have high := room.productHigh
  generalize hk : 1074 = k at low high
  have unit : unitOne = 2 ^ k := by rw [← hk, unitOne_eq]
  rw [unit]
  refine ⟨?_, ?_⟩
  · calc 2 ^ k ≤ 2 ^ (2 * l + lowest) := Nat.pow_le_pow_right (by decide) low
      _ = 2 ^ (2 * l) * 2 ^ lowest := pow_add _ _ _
      _ ≤ n.natAbs * 2 ^ lowest := Nat.mul_le_mul_right _ (s.least nonzero)
  · rw [← pow_add]
    exact s.below.trans_le (Nat.pow_le_pow_right (by decide) high)

theorem quotient_inRange {l h lowest highest : Nat} (room : Room l h lowest highest) {n m : Int} (s : Sized l h n) (t : Sized l h m)
    (divisor : m ≠ 0) : InRange (n * unitOne * m.sign) m.natAbs lowest highest := by
  intro nonzero
  have low := room.quotientLow
  have high := room.quotientHigh
  generalize hk : 1074 = k at low high
  have unit : unitOne = 2 ^ k := by rw [← hk, unitOne_eq]
  have some : n ≠ 0 := by
    rintro rfl
    exact nonzero (by rw [Int.zero_mul, Int.zero_mul])
  have size : (n * unitOne * m.sign).natAbs = n.natAbs * 2 ^ k := by
    rw [Int.natAbs_mul, Int.natAbs_mul, Int.natAbs_natCast, Int.natAbs_sign_of_ne_zero divisor, Nat.mul_one, unit]
  rw [size]
  refine ⟨?_, ?_⟩
  · calc m.natAbs ≤ 2 ^ h := t.below.le
      _ ≤ 2 ^ (l + k + lowest) := Nat.pow_le_pow_right (by decide) low
      _ = 2 ^ l * 2 ^ k * 2 ^ lowest := by rw [pow_add, pow_add]
      _ ≤ n.natAbs * 2 ^ k * 2 ^ lowest := Nat.mul_le_mul_right _ (Nat.mul_le_mul_right _ (s.least some))
  · calc n.natAbs * 2 ^ k < 2 ^ h * 2 ^ k := Nat.mul_lt_mul_of_pos_right s.below (by positivity)
      _ = 2 ^ (h + k) := (pow_add _ _ _).symm
      _ ≤ 2 ^ (l + highest) := Nat.pow_le_pow_right (by decide) high
      _ = 2 ^ l * 2 ^ highest := pow_add _ _ _
      _ ≤ m.natAbs * 2 ^ highest := Nat.mul_le_mul_right _ (t.least divisor)

/-- The greatest magnitudes. -/
theorem magnitude_top {w e : Nat} (he : e ≠ 0) : magnitude w (e * 2 ^ w) = 2 ^ w * 2 ^ (e - 1) := by
  rw [← Nat.add_zero (e * 2 ^ w), magnitude_of_exp he (by positivity), Nat.zero_add]

theorem double_sized (f : Word) {x : DWord} (finite : isFinite x) : Sized 0 2098 (operandValue f x) := by
  unfold operandValue
  split
  · exact .zero 0 2098
  · refine ⟨by simp, ?_⟩
    have below := (magnitude_strictMono 52) ((isFinite_iff_bits x).mp finite)
    rw [magnitude_top (by decide), ← pow_add] at below
    rw [natAbs_scaledValue]
    exact below

theorem single_sized (f : Word) {x : DWord} (finite : isFinite x) (single : isSingle x) : Sized 925 1202 (operandValue f x) := by
  unfold operandValue
  split
  · exact .zero 925 1202
  · obtain ⟨j, small, value⟩ := (isSingle_iff_magnitude finite).mp single
    rw [← natAbs_scaledValue] at value
    refine ⟨by rw [value]; exact Nat.dvd_mul_left _ _, ?_⟩
    have below := (magnitude_strictMono 23) small
    rw [magnitude_top (by decide)] at below
    rw [value]
    calc magnitude 23 j * 2 ^ 925 < 2 ^ 23 * 2 ^ (255 - 1) * 2 ^ 925 := Nat.mul_lt_mul_of_pos_right below (by positivity)
      _ = 2 ^ 1202 := by rw [← pow_add, ← pow_add]

theorem doubleRoom : Room 0 2098 1074 3200 := ⟨by decide, by decide, by decide, by decide, by decide, by decide⟩
theorem singleRoom : Room 925 1202 0 2100 := ⟨by decide, by decide, by decide, by decide, by decide, by decide⟩

/-! ## The exact results of the kinds -/

/-- The exact result of a kind, in units, as a fraction; and the sign of a zero (R609). -/
def exactNum (kind : FpKind) (a b c : Int) : Int :=
  match kind with
  | .add => a + b
  | .sub => a - b
  | .mul => a * c
  | .div => a * unitOne * b.sign
  | .madd minus _ => if minus then a * c - b * unitOne else a * c + b * unitOne

def exactDen (kind : FpKind) (b : Int) : Nat :=
  match kind with
  | .add => 1
  | .sub => 1
  | .mul => unitOne
  | .div => b.natAbs
  | .madd _ _ => unitOne

def zeroOf (kind : FpKind) (rn : BitVec 2) (sa sb sc : Bool) : Bool :=
  match kind with
  | .add => zeroSum rn sa sb
  | .sub => zeroSum rn sa !sb
  | .mul => sa != sc
  | .div => sa != sb
  | .madd minus _ => if minus then zeroSum rn (sa != sc) !sb else zeroSum rn (sa != sc) sb

/-- The exact result the procedure computes. -/
theorem exact_stands (kind : FpKind) (f : Word) {a b c : DWord} (ha : isFinite a) (hb : isFinite b) (hc : isFinite c)
    (divisor : divides kind f b) :
    Stands (fpExactValue kind f (flushOperand f a) (flushOperand f b) (flushOperand f c))
      (exactNum kind (operandValue f a) (operandValue f b) (operandValue f c)) (exactDen kind (operandValue f b))
      (zeroOf kind (fpRn f) (fpSign a) (fpSign b) (fpSign c)) := by
  have oa := operandValue_operand f ha
  have ob := operandValue_operand f hb
  have oc := operandValue_operand f hc
  cases kind with
  | add => exact oa.add f ob
  | sub => exact oa.add f ob.neg
  | mul => exact (oa.mul oc).stands
  | div => exact oa.div ob (divisor rfl)
  | madd minus negated =>
    cases minus
    · exact (oa.mul oc).add f ob.over_unit
    · have sum := (oa.mul oc).add f ob.neg.over_unit
      rw [Int.neg_mul, ← Int.sub_eq_add_neg] at sum
      exact sum

theorem exact_inRange (kind : FpKind) {l h lowest highest : Nat} (room : Room l h lowest highest) {a b c : Int} (sa : Sized l h a)
    (sb : Sized l h b) (sc : Sized l h c) (divisor : kind = .div → b ≠ 0) :
    InRange (exactNum kind a b c) (exactDen kind b) lowest highest := by
  have unit := room.unit
  have more {n : Int} (s : Sized (2 * l) (2 * h) n) : Sized (2 * l) (2 * h + 1) n :=
    ⟨s.whole, s.below.trans (Nat.pow_lt_pow_right (by decide) (Nat.lt_succ_self _))⟩
  have wide := sb.over_unit unit.1 unit.2 unitOne_eq
  cases kind with
  | add => exact sum_inRange room (sa.add sb)
  | sub => exact sum_inRange room (sa.add sb.neg)
  | mul => exact product_inRange room (more (sa.mul sc))
  | div => exact quotient_inRange room sa sb (divisor rfl)
  | madd minus negated =>
    cases minus
    · exact product_inRange room ((sa.mul sc).add wide)
    · have sum := (sa.mul sc).add wide.neg
      rw [← Int.sub_eq_add_neg] at sum
      exact product_inRange room sum

theorem exactDen_pos (kind : FpKind) {b : Int} (divisor : kind = .div → b ≠ 0) : 0 < exactDen kind b := by
  cases kind with
  | add => exact Nat.one_pos
  | sub => exact Nat.one_pos
  | mul => exact unitOne_pos
  | div => exact Int.natAbs_pos.mpr (divisor rfl)
  | madd _ _ => exact unitOne_pos

/-- An arithmetic instruction on finite operands of its precision. -/
theorem arith_rounds {F : FpFormat} {single : Bool} {w cc S J cp Jp lowest highest l h : Nat}
    (format : FormatIs F single w cc S J cp Jp lowest highest) (room : Room l h lowest highest) (s : State) (frD : Reg) (rc : Bool)
    (kind : FpKind) {a b c : DWord} (ha : isFinite a) (hb : isFinite b) (hc : isFinite c)
    (sa : Sized l h (operandValue s.fpscr a)) (sb : Sized l h (operandValue s.fpscr b)) (sc : Sized l h (operandValue s.fpscr c))
    (divisor : divides kind s.fpscr b) :
    FpEnds s (fpCommit frD rc (fpArith single kind s.fpscr a b c) s) fun t =>
      FpRounded F s t (exactNum kind (operandValue s.fpscr a) (operandValue s.fpscr b) (operandValue s.fpscr c))
        (exactDen kind (operandValue s.fpscr b)) (zeroOf kind (fpRn s.fpscr) (fpSign a) (fpSign b) (fpSign c))
        (if fpNegates kind then fprGet t frD ^^^ 0x8000000000000000 else fprGet t frD) (fprGet t frD) := by
  have hd := exactDen_pos kind divisor
  obtain ⟨x, sx, rounds, sign⟩ := rounds_stands format s.fpscr hd (exact_stands kind s.fpscr ha hb hc divisor)
    (exact_inRange kind room sa sb sc divisor)
  refine (fpCommit_ends s frD rc _).mono fun t ⟨fr, isFr, committed⟩ => ?_
  rw [fpArith_finite single kind s.fpscr ha hb hc divisor] at isFr committed
  exact rounded_of_committed format hd rounds sign isFr committed

/-- `frsp` of a finite number. -/
theorem frsp_rounds (s : State) (frD : Reg) (rc : Bool) {b : DWord} (hb : isFinite b) :
    FpEnds s (fpCommit frD rc (fpToSingle s.fpscr b) s) fun t =>
      FpRounded singleFormat s t (operandValue s.fpscr b) 1 (fpSign b) (fprGet t frD) (fprGet t frD) := by
  obtain ⟨finite, _, _⟩ := flushOperand_finite s.fpscr hb
  have number := (finite_class finite).1
  have range : InRange (operandValue s.fpscr b) 1 0 2100 := by
    intro nonzero
    refine ⟨Nat.mul_pos (by omega) (by positivity), ?_⟩
    rw [Nat.one_mul]
    exact (double_sized s.fpscr hb).below.trans_le (Nat.pow_le_pow_right (by decide) (by decide))
  obtain ⟨x, sx, rounds, sign⟩ := rounds_stands singleIs s.fpscr Nat.one_pos (operandValue_operand s.fpscr hb).stands range
  refine (fpCommit_ends s frD rc _).mono fun t ⟨fr, isFr, committed⟩ => ?_
  have result : fpToSingle s.fpscr b =
      negateResult true false (fpRoundValue true s.fpscr (fpValue (flushOperand s.fpscr b))) := by
    unfold fpToSingle
    dsimp only
    rw [if_neg (by rw [number]; decide)]
    rfl
  rw [result] at isFr committed
  exact rounded_of_committed singleIs Nat.one_pos rounds sign isFr committed

/-- Settles O34, by the exact result of each kind, rounded in its format. -/
theorem floatRounding : Obligations.FloatRounding := by
  unfold Obligations.FloatRounding
  intro s frD frA frB frC rc fp finA finB finC rn gives value a b c sa sb sc u wide narrow
  have unit : u = (unitOne : Int) := by
    show (2 : Int) ^ 1074 = ((2 ^ 1074 : Nat) : Int)
    rw [Nat.cast_pow]
    rfl
  have double (kind : FpKind) (frB' frC' : Reg) (fb : isFinite (fprGet s frB')) (fc : isFinite (fprGet s frC'))
      (divisor : divides kind s.fpscr (fprGet s frB')) {i : Instr} (run : exec i s = fpDouble kind frD frA frB' frC' rc s) :
      wide i (exactNum kind a (value (fprGet s frB')) (value (fprGet s frC'))) (exactDen kind (value (fprGet s frB')))
        (zeroOf kind rn sa (bitAt (fprGet s frB') 0) (bitAt (fprGet s frC') 0)) (fpNegates kind) := by
    show FpEnds s (exec i s) _
    rw [run, fpDouble, needsFp_of_fp fp]
    exact arith_rounds doubleIs doubleRoom s frD rc kind finA fb fc (double_sized _ finA) (double_sized _ fb) (double_sized _ fc) divisor
  have single (kind : FpKind) (frB' frC' : Reg) (singleA : isSingle (fprGet s frA)) (fb : isFinite (fprGet s frB'))
      (singleB : isSingle (fprGet s frB')) (fc : isFinite (fprGet s frC')) (singleC : isSingle (fprGet s frC'))
      (divisor : divides kind s.fpscr (fprGet s frB')) {i : Instr} (run : exec i s = fpSingle kind frD frA frB' frC' rc s) :
      narrow i (exactNum kind a (value (fprGet s frB')) (value (fprGet s frC'))) (exactDen kind (value (fprGet s frB')))
        (zeroOf kind rn sa (bitAt (fprGet s frB') 0) (bitAt (fprGet s frC') 0)) (fpNegates kind) := by
    have all : ∀ x ∈ fpOperands kind (fprGet s frA) (fprGet s frB') (fprGet s frC'), isSingle x := by
      cases kind <;> simp [fpOperands, singleA, singleB, singleC]
    have commits := arith_run fp kind frD frA frB' frC' rc true fun _ => all
    rw [if_pos rfl] at commits
    show FpEnds s (exec i s) _
    rw [run, commits]
    exact arith_rounds singleIs singleRoom s frD rc kind finA fb fc (single_sized _ finA singleA) (single_sized _ fb singleB)
      (single_sized _ fc singleC) divisor
  have other {kind : FpKind} (h : kind ≠ .div) (x : DWord) : divides kind s.fpscr x := fun e => absurd e h
  rw [unit]
  refine ⟨⟨?_, ?_, ?_, fun nonzero => ?_, ?_, ?_, ?_, ?_⟩, ?_, fun s1 s2 s3 => ⟨?_, ?_, ?_, fun nonzero => ?_, ?_, ?_, ?_, ?_⟩⟩
  · exact double .add frB frB finB finB (other (by decide) _) rfl
  · exact double .sub frB frB finB finB (other (by decide) _) rfl
  · exact double .mul frC frC finC finC (other (by decide) _) rfl
  · exact double .div frB frB finB finB (fun _ => nonzero) rfl
  · exact double (.madd false false) frB frC finB finC (other (by decide) _) rfl
  · exact double (.madd true false) frB frC finB finC (other (by decide) _) rfl
  · exact double (.madd false true) frB frC finB finC (other (by decide) _) rfl
  · exact double (.madd true true) frB frC finB finC (other (by decide) _) rfl
  · show FpEnds s (execFrsp frD frB rc s) _
    rw [execFrsp, needsFp_of_fp fp]
    exact frsp_rounds s frD rc finB
  · exact single .add frB frB s1 finB s2 finB s2 (other (by decide) _) rfl
  · exact single .sub frB frB s1 finB s2 finB s2 (other (by decide) _) rfl
  · exact single .mul frC frC s1 finC s3 finC s3 (other (by decide) _) rfl
  · exact single .div frB frB s1 finB s2 finB s2 (fun _ => nonzero) rfl
  · exact single (.madd false false) frB frC s1 finB s2 finC s3 (other (by decide) _) rfl
  · exact single (.madd true false) frB frC s1 finB s2 finC s3 (other (by decide) _) rfl
  · exact single (.madd false true) frB frC s1 finB s2 finC s3 (other (by decide) _) rfl
  · exact single (.madd true true) frB frC s1 finB s2 finC s3 (other (by decide) _) rfl

end Sys2Proof.Machine
end

section
/-! PROOF. O36: the estimates keep their bounds. -/

namespace Sys2Proof.Machine

/-! ## The comparisons of the estimates -/

/-- A comparison with a power of two, as the model makes it, told in rationals. -/
theorem lt_shifted (n m : Nat) (k : Int) :
    (if k < 0 then n <<< k.natAbs < m else n < m <<< k.natAbs) ↔ (n : ℚ) < m * 2 ^ k := by
  split
  · next h =>
    have unit := zpow_neg_toNat h
    have pos : (0 : ℚ) < ((2 ^ k.natAbs : Nat) : ℚ) := by positivity
    rw [Nat.shiftLeft_eq, ← mul_lt_mul_iff_of_pos_right pos, mul_assoc, unit, mul_one]
    exact_mod_cast Iff.rfl
  · next h =>
    rw [Nat.shiftLeft_eq, zpow_toNat (by omega)]
    exact_mod_cast Iff.rfl

theorem shifted_lt (n m : Nat) (k : Int) :
    (if k < 0 then m < n <<< k.natAbs else m <<< k.natAbs < n) ↔ (m : ℚ) * 2 ^ k < n := by
  split
  · next h =>
    have unit := zpow_neg_toNat h
    have pos : (0 : ℚ) < ((2 ^ k.natAbs : Nat) : ℚ) := by positivity
    rw [Nat.shiftLeft_eq, ← mul_lt_mul_iff_of_pos_right pos, mul_assoc, unit, mul_one]
    exact_mod_cast Iff.rfl
  · next h =>
    rw [Nat.shiftLeft_eq, zpow_toNat (by omega)]
    exact_mod_cast Iff.rfl

/-- The magnitude of a pattern, in units. -/
abbrev size (x : DWord) : Nat := magnitude 52 (fpBits x)

/-- `y` is a single of the sign of `x`, within 1/4000 of its reciprocal. -/
structure Reciprocal (x y : DWord) : Prop where
  finite : isFinite y
  single : isSingle y
  sign : fpSign y = fpSign x
  above : 3999 * (unitOne * unitOne) < 4000 * (size x * size y)
  below : 4000 * (size x * size y) < 4001 * (unitOne * unitOne)

theorem product_ratio (x y : DWord) :
    (fpMant y * fpMant x : Nat) * (2 : ℚ) ^ (fpPow y + fpPow x) =
      (size x * size y : Nat) / (unitOne * unitOne : Nat) := by
  have one := magnitude_ratio x
  have two := magnitude_ratio y
  push_cast
  rw [zpow_add₀ (by norm_num)]
  calc (fpMant y : ℚ) * fpMant x * (2 ^ fpPow y * 2 ^ fpPow x) = (fpMant x * 2 ^ fpPow x) * (fpMant y * 2 ^ fpPow y) := by ring
    _ = _ := by rw [one, two, div_mul_div_comm]

theorem recipAbove_iff (x y : DWord) : recipAbove x y = true ↔ 3999 * (unitOne * unitOne) < 4000 * (size x * size y) := by
  have unit : (0 : ℚ) < (unitOne * unitOne : Nat) := by exact_mod_cast Nat.mul_pos unitOne_pos unitOne_pos
  have shape : recipAbove x y = true ↔
      (if fpPow y + fpPow x < 0 then 3999 <<< (fpPow y + fpPow x).natAbs < 4000 * (fpMant y * fpMant x)
      else 3999 < (4000 * (fpMant y * fpMant x)) <<< (fpPow y + fpPow x).natAbs) := by
    unfold recipAbove
    dsimp only
    split <;> simp [Nat.shiftLeft_eq, Nat.mul_assoc]
  rw [shape, lt_shifted, Nat.cast_mul 4000, mul_assoc, product_ratio, mul_div_assoc', lt_div_iff₀ unit]
  exact_mod_cast Iff.rfl

theorem recipBelow_iff (x y : DWord) : recipBelow x y = true ↔ 4000 * (size x * size y) < 4001 * (unitOne * unitOne) := by
  have unit : (0 : ℚ) < (unitOne * unitOne : Nat) := by exact_mod_cast Nat.mul_pos unitOne_pos unitOne_pos
  have shape : recipBelow x y = true ↔
      (if fpPow y + fpPow x < 0 then 4000 * (fpMant y * fpMant x) < 4001 <<< (fpPow y + fpPow x).natAbs
      else (4000 * (fpMant y * fpMant x)) <<< (fpPow y + fpPow x).natAbs < 4001) := by
    unfold recipBelow
    dsimp only
    split <;> simp [Nat.shiftLeft_eq, Nat.mul_assoc]
  rw [shape, shifted_lt, Nat.cast_mul 4000, mul_assoc, product_ratio, mul_div_assoc', div_lt_iff₀ unit]
  exact_mod_cast Iff.rfl

/-! ## The reciprocal -/

/-- The exponent of the floor of a ratio. -/
theorem ratio_bounds {a b : Nat} (hb : 0 < b) (positive : b ≤ a) :
    b * 2 ^ (a / b).log2 ≤ a ∧ a < b * 2 ^ ((a / b).log2 + 1) := by
  have nonzero : a / b ≠ 0 := (Nat.div_pos positive hb).ne'
  constructor
  · calc b * 2 ^ (a / b).log2 ≤ b * (a / b) := Nat.mul_le_mul_left b (Nat.log2_self_le nonzero)
      _ ≤ a := Nat.mul_div_le a b
  · rw [Nat.mul_comm, ← Nat.div_lt_iff_lt_mul hb]
    exact Nat.lt_log2_self

/-- A number of the singles not far below a ratio, once its place is given. -/
theorem placed_below {a b T : Nat} (hb : 0 < b) (high : a < b * 2 ^ 1202) (base : 925 ≤ T) (small : a < b * 2 ^ T * 2 ^ 24)
    (normal : T = 925 ∨ 2 ^ 23 * (b * 2 ^ T) ≤ a) (room : b * 2 ^ T * 4000 ≤ a) (s : Bool) :
    ∃ y v, Holds s v y ∧ isSingle y ∧ b * v ≤ a ∧ 4000 * (a - b * v) < a := by
  have unit : 0 < b * 2 ^ T := by positivity
  have below : b * (a / (b * 2 ^ T) * 2 ^ T) ≤ a :=
    (by ring : b * (a / (b * 2 ^ T) * 2 ^ T) = b * 2 ^ T * (a / (b * 2 ^ T))) ▸ Nat.mul_div_le a _
  have above : a < b * (a / (b * 2 ^ T) * 2 ^ T) + b * 2 ^ T :=
    (by ring : b * 2 ^ T * (a / (b * 2 ^ T) + 1) = b * (a / (b * 2 ^ T) * 2 ^ T) + b * 2 ^ T) ▸ Nat.lt_mul_div_succ a unit
  have bits : a / (b * 2 ^ T) < 2 ^ 24 := Nat.div_lt_of_lt_mul small
  have whole : T = 925 ∨ (2 ^ 23 ≤ a / (b * 2 ^ T) ∧ 2 ^ 23 * (b * 2 ^ T) ≤ a) :=
    normal.imp_right fun large => ⟨(Nat.le_div_iff_mul_le unit).mpr large, large⟩
  generalize a / (b * 2 ^ T) = q at below above bits whole
  have inside : q * 2 ^ T < 2 ^ 1202 := Nat.lt_of_mul_lt_mul_left (below.trans_lt high)
  have placed : Placed 23 925 a b q T := ⟨hb, base, bits.le, whole⟩
  have holds := pack_holds s (m := q) (bits.trans (by norm_num)) (t := T - 1074) (T := T) (by omega)
    (inside.trans (Nat.pow_lt_pow_right (by decide) (by decide)))
  have single := (singleGrid.member _ _ holds.finite (code_inside singleIs placed inside) (holds.value.trans placed.code.symm)).1
  exact ⟨_, _, holds, single, below, by omega⟩

/-- A single not far below a ratio. -/
theorem exists_below {a b : Nat} (hb : 0 < b) (low : b * 2 ^ 945 ≤ a) (high : a < b * 2 ^ 1202) (s : Bool) :
    ∃ y v, Holds s v y ∧ isSingle y ∧ b * v ≤ a ∧ 4000 * (a - b * v) < a := by
  obtain ⟨below, above⟩ := ratio_bounds hb ((Nat.le_mul_of_pos_right b (by positivity)).trans low)
  generalize (a / b).log2 = E at below above
  rcases Nat.lt_or_ge E 948 with few | many
  · refine placed_below hb high (T := 925) le_rfl ?_ (.inl rfl) ?_ s
    · rw [Nat.mul_assoc, ← pow_add]
      exact above.trans_le (Nat.mul_le_mul_left b (Nat.pow_le_pow_right (by decide) (by omega)))
    · calc b * 2 ^ 925 * 4000 ≤ b * 2 ^ 925 * 2 ^ 20 := Nat.mul_le_mul_left _ (by norm_num)
        _ = b * 2 ^ 945 := by rw [Nat.mul_assoc, ← pow_add]
        _ ≤ a := low
  · have split : b * 2 ^ (E - 23) * 2 ^ 23 = b * 2 ^ E := by
      rw [Nat.mul_assoc, ← pow_add]
      congr 2
      omega
    have lower : b * 2 ^ (E - 23) * 2 ^ 23 ≤ a := split.trans_le below
    refine placed_below hb high (T := E - 23) (by omega) ?_ (.inr (Nat.mul_comm _ _ ▸ lower)) ?_ s
    · rw [pow_succ 2 23, ← Nat.mul_assoc, split]
      exact above.trans_eq (by rw [pow_succ, Nat.mul_assoc])
    · exact (Nat.mul_le_mul_left _ (by norm_num)).trans lower

theorem fpMant_pos {x : DWord} (positive : 0 < size x) : 0 < fpMant x := by
  have unit : (0 : ℚ) < unitOne := by exact_mod_cast unitOne_pos
  have ratio := magnitude_ratio x
  by_contra none
  have zero : fpMant x = 0 := by omega
  rw [zero, Nat.cast_zero, zero_mul, eq_comm, div_eq_zero_iff] at ratio
  rcases ratio with h | h
  · exact positive.ne' (by exact_mod_cast h)
  · exact unit.ne' h

theorem Reciprocal.bound {x y : DWord} (h : Reciprocal x y) :
    4000 * (scaledValue x * scaledValue y - (unitOne : Int) * unitOne).natAbs < ((unitOne : Int) * unitOne).natAbs := by
  have product : scaledValue x * scaledValue y = (size x * size y : Nat) := by
    rw [scaledValue_signed, scaledValue_signed, h.sign]
    cases fpSign x <;> simp [signedInt]
  have above := h.above
  have below := h.below
  rw [product, ← Nat.cast_mul, Int.natAbs_natCast]
  generalize size x * size y = p at above below
  generalize unitOne * unitOne = u at above below
  omega

/-- Rounding toward zero in a set: no number of the set between. -/
theorem RoundsTo.toward_zero {among even : DWord → Prop} {s : Bool} {n d v m : Nat} {w z : DWord}
    (h : RoundsTo among even 1 (signedInt s n) d z) (positive : 0 < n) (value : scaledValue z = signedInt s m)
    (holds : Holds s v w) (member : among w) (below : d * v ≤ n) : d * m ≤ n ∧ v ≤ m := by
  have own := holds.scaled
  cases s
  · have plus (k : Nat) : signedInt false k = k := rfl
    have down : RoundsDown among n d (scaledValue z) := by simpa [RoundsTo, plus] using h
    have best := down.2 w holds.finite member (by rw [own, plus]; exact_mod_cast below)
    have near := down.1
    rw [own, value, plus, plus] at best
    rw [value, plus] at near
    exact ⟨by exact_mod_cast near, by exact_mod_cast best⟩
  · have minus (k : Nat) : signedInt true k = -k := rfl
    have up : RoundsUp among (-(n : Int)) d (scaledValue z) := by simpa [RoundsTo, minus, positive.ne'] using h
    have best := up.2 w holds.finite member
      (by rw [own, minus, mul_neg, neg_le_neg_iff]; exact_mod_cast below)
    have near := up.1
    rw [own, value, minus, minus, neg_le_neg_iff] at best
    rw [value, minus, mul_neg, neg_le_neg_iff] at near
    exact ⟨by exact_mod_cast near, by exact_mod_cast best⟩

section
variable {x : DWord} (finite : isFinite x) (single : isSingle x) (enough : unitOne ≤ 2 ^ 127 * size x)

include single finite in
/-- A finite single lies below 2^128. -/
theorem size_lt_of_single : size x < 2 ^ 1202 := by
  obtain ⟨j, small, value⟩ := (isSingle_iff_magnitude finite).mp single
  have top : magnitude 23 (255 * 2 ^ 23 + 0) = 2 ^ 277 := by
    rw [magnitude_of_exp (by decide) (by positivity), Nat.zero_add, ← pow_add]
  have less : magnitude 23 j < 2 ^ 277 := top ▸ magnitude_strictMono 23 (by omega)
  calc size x = magnitude 23 j * 2 ^ 925 := value
    _ < 2 ^ 277 * 2 ^ 925 := (Nat.mul_lt_mul_right (by positivity)).mpr less
    _ = 2 ^ 1202 := by rw [← pow_add]

/-- The greatest single is no less than the reciprocal of a number from 2^-127 on. -/
theorem greatest_reciprocal {u k n : Nat} (unit : u = k * 2 ^ 23) (positive : 0 < u) (enough : u ≤ 2 ^ 127 * n) :
    3999 * (u * u) < 4000 * (n * ((2 ^ 24 - 1) * (2 ^ 127 * k))) := by
  have pos : 0 < u * k := Nat.mul_pos positive (by omega)
  calc 3999 * (u * u) = u * k * (3999 * 2 ^ 23) := by
        conv_lhs => rw [unit]
        conv_rhs => rw [unit]
        ring
    _ < u * k * (4000 * (2 ^ 24 - 1)) := (Nat.mul_lt_mul_left pos).mpr (by norm_num)
    _ ≤ 2 ^ 127 * n * k * (4000 * (2 ^ 24 - 1)) := Nat.mul_le_mul_right _ (Nat.mul_le_mul_right _ enough)
    _ = 4000 * (n * ((2 ^ 24 - 1) * (2 ^ 127 * k))) := by ring

include enough in
theorem recipInRange_of_enough : recipInRange x = true := by
  have greatest := (pack_holds false (m := 2 ^ 24 - 1) (by norm_num) (t := 104) (T := 1178) (by norm_num)
    (calc (2 ^ 24 - 1) * 2 ^ 1178 < 2 ^ 24 * 2 ^ 1178 := (Nat.mul_lt_mul_right (by positivity)).mpr (by norm_num)
      _ = 2 ^ 1202 := by rw [← pow_add]
      _ < 2 ^ 2098 := Nat.pow_lt_pow_right (by decide) (by decide))).value
  rw [recipInRange, recipAbove_iff, size.eq_def (fpPack false (2 ^ 24 - 1) 104), greatest]
  have wide : (2 : Nat) ^ 1178 = 2 ^ 127 * 2 ^ 1051 := by rw [← pow_add]
  rw [wide]
  exact greatest_reciprocal (by rw [unitOne, ← pow_add]) unitOne_pos enough

theorem finite_of_number {y : DWord} (notNan : fpIsNan y = false) (notInf : fpIsInf y = false) : isFinite y := by
  rw [isFinite_iff]
  intro top
  simp only [fpIsNan, fpIsInf, top, beq_self_eq_true, Bool.true_and] at notNan notInf
  simp_all

/-- The chip's estimate, where it keeps the bound. -/
theorem reciprocal_of_meets {y : DWord} (inRange : recipInRange x = true) (meets : fresMeets x y = true) : Reciprocal x y := by
  simp only [fresMeets, inRange, Bool.not_true, Bool.false_or, Bool.and_eq_true, Bool.not_eq_true', beq_iff_eq] at meets
  obtain ⟨⟨⟨rep, notNan⟩, sign⟩, ⟨notInf, above⟩, below⟩ := meets
  exact ⟨finite_of_number notNan notInf, (fpSingleRep_iff y).mp rep, sign,
    (recipAbove_iff x y).mp above, (recipBelow_iff x y).mp below⟩

/-- A magnitude rounded toward zero keeps the bound, as a single lies near enough below. -/
theorem reciprocal_of_rounds {x y : DWord} {r : FpResult} (positive : 0 < size x) (square : 0 < unitOne * unitOne)
    (high : unitOne * unitOne < size x * 2 ^ 1202) (low : size x * 2 ^ 945 ≤ unitOne * unitOne)
    (rounds : Rounds singleFormat 1 (signedInt (fpSign x) (unitOne * unitOne : Nat)) (size x) (fpSign x) y r) : Reciprocal x y := by
  have mode : fpRn 1 = 1 := by decide
  have rn : (1 : BitVec 2) ≠ 0 := by decide
  have overs : singleFormat.over (fpRn 1) (signedInt (fpSign x) (unitOne * unitOne : Nat)) (size x) = false := by
    rw [Bool.eq_false_iff, Ne, over_iff singleFormat _ _ square, mode, if_neg rn, if_neg (by cases fpSign x <;> decide)]
    exact not_le.mpr high
  have under : singleFormat.underflows 1 (signedInt (fpSign x) (unitOne * unitOne : Nat)) (size x) = false := by
    rw [FpFormat.underflows, (by decide : bitAt (1 : Word) 26 = false), Bool.false_and]
  obtain ⟨finite, z, rounded, value⟩ := rounds.rounded overs under
  rw [(by decide : bitAt (1 : Word) 29 = false), Bool.false_and, Bool.false_and, if_neg Bool.false_ne_true] at value
  obtain ⟨finiteZ, singleZ, towards⟩ := rounded
  have same : size y = size z := by rw [size, size, ← natAbs_scaledValue, ← natAbs_scaledValue, value]
  have single : isSingle y := by
    rw [isSingle_iff_magnitude finite, show magnitude 52 (fpBits y) = size z from same]
    exact (isSingle_iff_magnitude finiteZ).mp singleZ
  obtain ⟨w, v, holds, singleW, below, close⟩ := exists_below positive low high (fpSign x)
  have own : size x * size y ≤ unitOne * unitOne ∧ v ≤ size y := by
    have valueY := scaledValue_signed y
    rw [rounds.sign] at valueY
    rw [mode] at towards
    exact towards.toward_zero square (value.symm.trans valueY) holds singleW below
  have near : size x * v ≤ size x * size y := Nat.mul_le_mul_left _ own.2
  exact ⟨finite, single, rounds.sign, by omega, by omega⟩

include finite single enough in
/-- The rounded reciprocal keeps the bound. -/
theorem reciprocal_rounded (positive : 0 < size x) :
    ∃ y, (fpRound true 1 (fpSign x) 1 (fpMant x) (-(fpPow x))).value = some y ∧ Reciprocal x y := by
  have unit : (0 : ℚ) < unitOne := by exact_mod_cast unitOne_pos
  have mant := fpMant_pos positive
  have inverse : Magnitude 1 (fpMant x) (-(fpPow x)) (unitOne * unitOne) (size x) := by
    refine ⟨Nat.one_pos, mant, positive, ?_⟩
    have ratio := magnitude_ratio x
    have posMant : (0 : ℚ) < fpMant x := by exact_mod_cast mant
    have posSize : (0 : ℚ) < size x := by exact_mod_cast positive
    have one : (2 : ℚ) ^ (1074 : Int) = unitOne := by
      rw [unitOne, Nat.cast_pow, Nat.cast_ofNat]
      exact zpow_natCast 2 1074
    rw [zpow_add₀ (by norm_num), one, zpow_neg, Nat.cast_one, div_mul_eq_mul_div, one_mul,
      div_eq_div_iff posMant.ne' posSize.ne']
    rw [eq_div_iff unit.ne'] at ratio
    push_cast
    rw [← ratio]
    have : (0 : ℚ) < 2 ^ fpPow x := by positivity
    field_simp
  have wide : unitOne * unitOne = 2 ^ 2148 := by rw [unitOne, ← pow_add]
  have top := size_lt_of_single finite single
  have high : unitOne * unitOne < size x * 2 ^ 1202 := by
    calc unitOne * unitOne ≤ 2 ^ 127 * size x * unitOne := Nat.mul_le_mul_right _ enough
      _ = size x * 2 ^ 1201 := by rw [unitOne, Nat.mul_comm (2 ^ 127), Nat.mul_assoc, ← pow_add]
      _ < size x * 2 ^ 1202 := (Nat.mul_lt_mul_left positive).mpr (Nat.pow_lt_pow_right (by decide) (by decide))
  have low : size x * 2 ^ 945 ≤ unitOne * unitOne := by
    calc size x * 2 ^ 945 ≤ 2 ^ 1202 * 2 ^ 945 := Nat.mul_le_mul_right _ top.le
      _ = 2 ^ 2147 := by rw [← pow_add]
      _ ≤ 2 ^ 2148 := Nat.pow_le_pow_right (by decide) (by decide)
      _ = _ := wide.symm
  have least : size x ≤ unitOne * unitOne * 2 ^ 0 := by
    rw [pow_zero, Nat.mul_one]
    exact (Nat.le_mul_of_pos_right _ (Nat.two_pow_pos 945)).trans low
  have greatest : unitOne * unitOne < size x * 2 ^ 2100 :=
    high.trans_le (Nat.mul_le_mul_left _ (Nat.pow_le_pow_right (by decide) (by decide)))
  have square : 0 < unitOne * unitOne := Nat.mul_pos unitOne_pos unitOne_pos
  obtain ⟨y, rounds⟩ := rounds_magnitude singleIs 1 (fpSign x) inverse square least greatest
  exact ⟨y, rounds.value, reciprocal_of_rounds positive square high low rounds⟩

end

/-! ## The reciprocal square root -/

/-- `y` is positive, within 1/4000 of the reciprocal root of `x`, and its last forty bits are 0. -/
structure RootEstimate (x y : DWord) : Prop where
  finite : isFinite y
  sign : fpSign y = false
  low : field y 24 40 = (0 : BitVec 40)
  above : 3999 ^ 2 * unitOne ^ 3 < 4000 ^ 2 * (size y * size y * size x)
  below : 4000 ^ 2 * (size y * size y * size x) < 4001 ^ 2 * unitOne ^ 3

/-- The number a pattern stands for, without its sign. -/
def absValue (x : DWord) : ℚ := (size x : ℚ) / unitOne

theorem mant_pow (x : DWord) : (fpMant x : ℚ) * 2 ^ fpPow x = absValue x := magnitude_ratio x

/-- The number `c * 2^p`. -/
def scaled (c : Nat) (p : Int) : ℚ := c * 2 ^ p

theorem square_times (c : Nat) (p : Int) (x : DWord) (den : Nat) :
    ((c * c * fpMant x * den : Nat) : ℚ) * 2 ^ (2 * p + fpPow x) = scaled c p ^ 2 * absValue x * den := by
  rw [← mant_pow, scaled, zpow_add₀ (by norm_num), two_mul, zpow_add₀ (by norm_num)]
  push_cast
  ring

theorem sqTimesLt_iff (c : Nat) (p : Int) (x : DWord) (num den : Nat) :
    sqTimesLt c p x num den = true ↔ scaled c p ^ 2 * absValue x * den < num := by
  rw [← square_times, ← shifted_lt, sqTimesLt, sqTimes]
  dsimp only
  split <;> simp [Nat.shiftLeft_eq, Nat.mul_right_comm]

theorem sqTimesGt_iff (c : Nat) (p : Int) (x : DWord) (num den : Nat) :
    sqTimesGt c p x num den = true ↔ num < scaled c p ^ 2 * absValue x * den := by
  rw [← square_times, ← lt_shifted, sqTimesGt, sqTimes]
  dsimp only
  split <;> simp [Nat.shiftLeft_eq, Nat.mul_right_comm]

theorem sqTimesLeOne_iff (c : Nat) (p : Int) (x : DWord) : sqTimesLeOne c p x = true ↔ scaled c p ^ 2 * absValue x ≤ 1 := by
  have gt := sqTimesGt_iff c p x 1 1
  rw [Nat.cast_one, mul_one] at gt
  rw [← not_lt, ← gt, sqTimesGt, sqTimesLeOne]
  simp

/-- The bounds of the estimate, of the numbers themselves. -/
theorem square_size (x y : DWord) (n m : Nat) :
    ((n : ℚ) < absValue y ^ 2 * absValue x * m ↔ n * unitOne ^ 3 < m * (size y * size y * size x)) ∧
      (absValue y ^ 2 * absValue x * m < n ↔ m * (size y * size y * size x) < n * unitOne ^ 3) := by
  have unit : (0 : ℚ) < unitOne := by exact_mod_cast unitOne_pos
  have shape : absValue y ^ 2 * absValue x * m = (m * (size y * size y * size x) : Nat) / (unitOne : ℚ) ^ 3 := by
    rw [absValue, absValue]
    push_cast
    field_simp
  rw [shape, lt_div_iff₀ (by positivity), div_lt_iff₀ (by positivity)]
  exact ⟨by exact_mod_cast Iff.rfl, by exact_mod_cast Iff.rfl⟩

/-- The chip's estimate, where it keeps the bound. -/
theorem rootEstimate_of_meets {x y : DWord} (meets : frsqrteMeets x y = true) : RootEstimate x y := by
  simp only [frsqrteMeets, Bool.and_eq_true, Bool.not_eq_true', beq_iff_eq, sqTimesLt_iff, sqTimesGt_iff] at meets
  obtain ⟨⟨⟨⟨⟨sign, notNan⟩, notInf⟩, low⟩, below⟩, above⟩ := meets
  rw [scaled, mant_pow] at below above
  exact ⟨finite_of_number notNan notInf, sign, low, (square_size x y _ _).1.mp above, (square_size x y _ _).2.mp below⟩

/-- The powers of two below one, from the greatest down. -/
def halves : Nat → List Nat
  | 0 => []
  | n + 1 => 2 ^ n :: halves n

/-- The root is found bit by bit: it stays between `c` and `c` plus what the remaining bits can add. -/
theorem rsqrtBits_spec (p : Int) (x : DWord) (n c : Nat) (low : scaled c p ^ 2 * absValue x ≤ 1)
    (high : 1 < scaled (c + 2 ^ n) p ^ 2 * absValue x) :
    c ≤ rsqrtBits p x (halves n) c ∧ rsqrtBits p x (halves n) c < c + 2 ^ n ∧
      scaled (rsqrtBits p x (halves n) c) p ^ 2 * absValue x ≤ 1 ∧
      1 < scaled (rsqrtBits p x (halves n) c + 1) p ^ 2 * absValue x := by
  induction n generalizing c with
  | zero => exact ⟨le_rfl, Nat.lt_succ_self c, low, high⟩
  | succ n ih =>
    rw [halves, rsqrtBits]
    rw [pow_succ 2 n, Nat.mul_two, ← Nat.add_assoc] at high ⊢
    by_cases fits : sqTimesLeOne (c + 2 ^ n) p x = true
    · rw [if_pos fits]
      obtain ⟨above, below, lower, upper⟩ := ih (c + 2 ^ n) ((sqTimesLeOne_iff _ p x).mp fits) high
      exact ⟨by omega, below, lower, upper⟩
    · rw [if_neg fits]
      obtain ⟨above, below, lower, upper⟩ := ih c low (not_le.mp fun le => fits ((sqTimesLeOne_iff _ p x).mpr le))
      exact ⟨above, by omega, lower, upper⟩

/-- The exponent of a number that is not 0. -/
theorem absValue_bounds {x : DWord} (positive : 0 < fpMant x) :
    (2 : ℚ) ^ (fpPow x + ((fpMant x).log2 : Int)) ≤ absValue x ∧ absValue x < 2 ^ (fpPow x + ((fpMant x).log2 : Int) + 1) := by
  have unit : (0 : ℚ) < 2 ^ fpPow x := by positivity
  have low : (2 : ℚ) ^ (fpMant x).log2 ≤ fpMant x := by exact_mod_cast Nat.log2_self_le positive.ne'
  have high : (fpMant x : ℚ) < 2 ^ ((fpMant x).log2 + 1) := by exact_mod_cast Nat.lt_log2_self
  rw [← mant_pow, add_assoc, zpow_add₀ (by norm_num), zpow_add₀ (by norm_num : (2 : ℚ) ≠ 0) (fpPow x),
    mul_comm (fpMant x : ℚ)]
  exact ⟨mul_le_mul_of_nonneg_left (by rwa [zpow_natCast]) unit.le,
    mul_lt_mul_of_pos_left (by exact_mod_cast high) unit⟩

theorem scaled_one_sq (e : Int) : scaled 1 e ^ 2 = 2 ^ (2 * e) := by
  rw [scaled, Nat.cast_one, one_mul, two_mul, zpow_add₀ (by norm_num), sq]

theorem scaled_twice (c : Nat) (p : Int) : scaled (c * 2) p = scaled c (p + 1) := by
  rw [scaled, scaled, zpow_add_one₀ (by norm_num)]
  push_cast
  ring

/-- The exponent of the root. -/
def rootExp (x : DWord) : Int :=
  let e := -((fpPow x + (Nat.log2 (fpMant x) : Int)) / 2)
  if sqTimesLeOne 1 e x then e else e - 1

theorem rootExp_spec {x : DWord} (positive : 0 < fpMant x) :
    scaled 1 (rootExp x) ^ 2 * absValue x ≤ 1 ∧ 1 < scaled 1 (rootExp x + 1) ^ 2 * absValue x := by
  obtain ⟨low, high⟩ := absValue_bounds positive
  unfold rootExp
  dsimp only
  generalize fpPow x + ((fpMant x).log2 : Int) = n at low high
  have two : (1 : ℚ) < 2 := by norm_num
  have product (e k : Int) : (2 : ℚ) ^ e * 2 ^ k = 2 ^ (e + k) := (zpow_add₀ (by norm_num) _ _).symm
  split
  · next fits =>
    refine ⟨(sqTimesLeOne_iff _ _ _).mp fits, ?_⟩
    rw [scaled_one_sq]
    calc (1 : ℚ) < 2 ^ (2 * (-(n / 2) + 1) + n) := one_lt_zpow₀ two (by omega)
      _ = 2 ^ (2 * (-(n / 2) + 1)) * 2 ^ n := (product _ _).symm
      _ ≤ _ := mul_le_mul_of_nonneg_left low (by positivity)
  · next exceeds =>
    rw [sqTimesLeOne_iff, not_le] at exceeds
    rw [sub_add_cancel, scaled_one_sq]
    refine ⟨?_, exceeds⟩
    calc 2 ^ (2 * (-(n / 2) - 1)) * absValue x ≤ 2 ^ (2 * (-(n / 2) - 1)) * 2 ^ (n + 1) :=
          mul_le_mul_of_nonneg_left high.le (by positivity)
      _ = 2 ^ (2 * (-(n / 2) - 1) + (n + 1)) := product _ _
      _ ≤ 1 := zpow_le_one_of_nonpos₀ two.le (by omega)

/-- The significand of the truncated root. -/
theorem truncated_eq (x : DWord) : rsqrtTruncated x =
    fpPack false (rsqrtBits (rootExp x - 12) x (halves 12) 4096) (rootExp x - 12) := rfl

/-- A number of thirteen bits has its last forty bits 0. -/
theorem low_of_short {c T : Nat} (normal : 4096 ≤ c) (short : c < 8192) (place : 40 ≤ T) {y : DWord}
    (holds : Holds false (c * 2 ^ T) y) :
    field y 24 40 = (0 : BitVec 40) := by
  have code : fpBits y = (T - 40) * 2 ^ 52 + c * 2 ^ 40 := by
    apply (magnitude_strictMono 52).injective
    rw [holds.value, magnitude_place (by omega) (.inr (by omega)), Nat.mul_assoc, ← pow_add, Nat.add_sub_cancel' place]
  have whole : fpBits y % 2 ^ 40 = 0 := by omega
  rw [fpBits, field_toNat] at whole
  rw [← BitVec.toNat_inj, field_toNat]
  simpa using whole

theorem size_lt_of_finite {x : DWord} (finite : isFinite x) : size x < 2 ^ 2098 := by
  have bits := (isFinite_iff_bits x).mp finite
  calc size x < magnitude 52 (2047 * 2 ^ 52) := magnitude_strictMono 52 bits
    _ = 2 ^ 52 * 2 ^ (2047 - 1) := magnitude_top (by decide)
    _ = 2 ^ 2098 := by rw [← pow_add]

/-- The exponent of the root of a finite number. -/
theorem rootExp_range {x : DWord} (finite : isFinite x) (positive : 0 < size x) : -512 ≤ rootExp x ∧ rootExp x ≤ 537 := by
  obtain ⟨fits, exceeds⟩ := rootExp_spec (fpMant_pos positive)
  rw [scaled_one_sq] at fits exceeds
  have two : (1 : ℚ) < 2 := by norm_num
  have unit : (0 : ℚ) < 2 ^ (1074 : Int) := by positivity
  have product (e k : Int) : (2 : ℚ) ^ e * 2 ^ k = 2 ^ (e + k) := (zpow_add₀ (by norm_num) _ _).symm
  have least : (2 : ℚ) ^ (-1074 : Int) ≤ absValue x := by
    rw [absValue, unit_ratio, zpow_neg, ← one_div]
    exact div_le_div_of_nonneg_right (by exact_mod_cast positive) unit.le
  have greatest : absValue x ≤ (2 : ℚ) ^ (1024 : Int) := by
    have top : (size x : ℚ) < (2 ^ 2098 : Nat) := Nat.cast_lt.mpr (size_lt_of_finite finite)
    rw [Nat.cast_pow, Nat.cast_ofNat] at top
    rw [absValue, unit_ratio, div_le_iff₀ unit, product, show (1024 : Int) + 1074 = (2098 : Nat) from rfl, zpow_natCast]
    exact top.le
  constructor
  · have : (2 : ℚ) ^ (0 : Int) < 2 ^ (2 * (rootExp x + 1) + 1024) := by
      rw [zpow_zero, ← product]
      exact exceeds.trans_le (mul_le_mul_of_nonneg_left greatest (by positivity))
    have := (zpow_lt_zpow_iff_right₀ two).mp this
    omega
  · have : (2 : ℚ) ^ (2 * rootExp x + -1074) ≤ 2 ^ (0 : Int) := by
      rw [zpow_zero, ← product]
      exact (mul_le_mul_of_nonneg_left least (by positivity)).trans fits
    have := (zpow_le_zpow_iff_right₀ two).mp this
    omega

/-- From thirteen bits on, the next number is near. -/
theorem near_of_next {c : Nat} {p : Int} {v : ℚ} (many : 4096 ≤ c) (fits : scaled c p ^ 2 * v ≤ 1)
    (exceeds : 1 < scaled (c + 1) p ^ 2 * v) :
    ((3999 ^ 2 : Nat) : ℚ) < scaled c p ^ 2 * v * (4000 ^ 2 : Nat) ∧
      scaled c p ^ 2 * v * (4000 ^ 2 : Nat) < ((4001 ^ 2 : Nat) : ℚ) := by
  have wide : (4096 : ℚ) ≤ c := by exact_mod_cast many
  have power : (0 : ℚ) < 2 ^ p := by positivity
  have pos : 0 < v := by
    by_contra none
    exact absurd (exceeds.trans_le (mul_nonpos_of_nonneg_of_nonpos (sq_nonneg _) (not_lt.mp none))) (by norm_num)
  have step : 3999 * scaled (c + 1) p ≤ 4000 * scaled c p := by
    rw [scaled, scaled, ← mul_assoc, ← mul_assoc]
    refine mul_le_mul_of_nonneg_right ?_ power.le
    push_cast
    linarith
  have square : (3999 * scaled (c + 1) p) ^ 2 ≤ (4000 * scaled c p) ^ 2 :=
    pow_le_pow_left₀ (by rw [scaled]; positivity) step 2
  have product := mul_le_mul_of_nonneg_right square pos.le
  push_cast
  constructor <;> nlinarith

/-- The truncated root keeps the bound. -/
theorem rootEstimate_truncated {x : DWord} (finite : isFinite x) (positive : 0 < size x) : RootEstimate x (rsqrtTruncated x) := by
  obtain ⟨fits, exceeds⟩ := rootExp_spec (fpMant_pos positive)
  obtain ⟨least, greatest⟩ := rootExp_range finite positive
  rw [truncated_eq]
  generalize rootExp x = e at fits exceeds least greatest
  have first (k : Int) : scaled 4096 (k - 12) = scaled 1 k := by
    rw [scaled, scaled, zpow_sub₀ (by norm_num)]
    norm_num
    exact mul_div_cancel₀ _ (by norm_num)
  obtain ⟨many, few, lower, upper⟩ := rsqrtBits_spec (e - 12) x 12 4096 (by rwa [first])
    (by rwa [(by norm_num : 4096 + 2 ^ 12 = 4096 * 2), scaled_twice, (by ring : e - 12 + 1 = e + 1 - 12), first])
  generalize rsqrtBits (e - 12) x (halves 12) 4096 = c at many few lower upper
  obtain ⟨T, place⟩ : ∃ T : Nat, e - 12 + 1074 = T := ⟨(e - 12 + 1074).toNat, by omega⟩
  have high : c * 2 ^ T < 2 ^ 2098 := by
    calc c * 2 ^ T < 2 ^ 13 * 2 ^ T := (Nat.mul_lt_mul_right (by positivity)).mpr (by norm_num at few ⊢; omega)
      _ = 2 ^ (13 + T) := by rw [← pow_add]
      _ ≤ 2 ^ 2098 := Nat.pow_le_pow_right (by decide) (by omega)
  have holds := pack_holds false (m := c) (by omega) place high
  have own : absValue (fpPack false c (e - 12)) = scaled c (e - 12) := by
    rw [absValue, size, holds.value, unit_ratio, scaled, (by omega : e - 12 = (T : Int) - 1074), zpow_sub₀ (by norm_num)]
    push_cast
    rw [zpow_natCast]
    ring
  obtain ⟨above, below⟩ := near_of_next many lower upper
  rw [← own] at above below
  exact ⟨holds.finite, holds.sign, low_of_short many (by omega) (by omega) holds, (square_size x _ _ _).1.mp above,
    (square_size x _ _ _).2.mp below⟩

/-! ## The instructions -/

/-- What an estimate leaves in frD. -/
theorem estimate_ends (s : State) (frD : Reg) (rc ordinary : Bool) (r : FpResult) {y : DWord} (value : r.value = some y) :
    FpEnds s (fpCommitEstimate frD rc ordinary r s) fun t => fprGet t frD = y := by
  unfold fpCommitEstimate
  exact (fpEnd_committed s frD rc r.value _ (s.freeCtr + 1)).mono fun t committed => (committed.written y value).1

theorem fresValue_reciprocal {x : DWord} (finite : isFinite x) (single : isSingle x) (enough : unitOne ≤ 2 ^ 127 * size x) :
    Reciprocal x (fresValue x) := by
  have positive : 0 < size x := Nat.pos_of_ne_zero fun zero => by
    rw [zero, Nat.mul_zero] at enough
    exact absurd unitOne_pos (not_lt.mpr enough)
  unfold fresValue
  split
  · next meets => exact reciprocal_of_meets (recipInRange_of_enough enough) meets
  · obtain ⟨y, value, near⟩ := reciprocal_rounded finite single enough positive
    rw [value]
    exact near

theorem frsqrteValue_root {x : DWord} (finite : isFinite x) (positive : 0 < size x) : RootEstimate x (frsqrteValue x) := by
  unfold frsqrteValue
  split
  · next meets => exact rootEstimate_of_meets meets
  · exact rootEstimate_truncated finite positive

section
variable {s : State} {frD frB : Reg} {rc : Bool} (fp : msrFp s = true) (ieee : bitAt s.fpscr 29 = false)
  (finite : isFinite (fprGet s frB))
include fp ieee finite

theorem fres_ends (single : isSingle (fprGet s frB)) (enough : unitOne ≤ 2 ^ 127 * size (fprGet s frB)) :
    FpEnds s (exec (.fres frD frB rc) s) fun t => Reciprocal (fprGet s frB) (fprGet t frD) := by
  show FpEnds s (execFres frD frB rc s) _
  obtain ⟨notNan, notInf⟩ := finite_class finite
  have notZero : fpIsZero (fprGet s frB) = false := by
    rw [Bool.eq_false_iff, Ne, fpIsZero_iff, ← Int.natAbs_eq_zero, natAbs_scaledValue]
    intro zero
    rw [size, zero, Nat.mul_zero] at enough
    exact absurd unitOne_pos (not_lt.mpr enough)
  have ordinary : fresSpecial s.fpscr (fprGet s frB) = none := by
    simp [fresSpecial, fpIsSnan, notNan, notInf, notZero]
  have rep := (fpSingleRep_iff _).mpr single
  have kept : flushesSingle s.fpscr (fresValue (fprGet s frB)) = false := by
    simp [flushesSingle, fpNonIeee, fpNi, ieee]
  rw [execFres, needsFp_of_fp fp]
  simp only [flushOperand_ieee ieee, ordinary, rep, kept, Bool.not_true, Bool.false_eq_true, if_false]
  exact (estimate_ends s frD rc true (fresOrdinary s.fpscr (fprGet s frB)) rfl).mono fun t same =>
    same ▸ fresValue_reciprocal finite single enough

theorem frsqrte_ends (positive : 0 < scaledValue (fprGet s frB)) :
    FpEnds s (exec (.frsqrte frD frB rc) s) fun t => RootEstimate (fprGet s frB) (fprGet t frD) := by
  show FpEnds s (execFrsqrte frD frB rc s) _
  obtain ⟨notNan, notInf⟩ := finite_class finite
  have notZero : fpIsZero (fprGet s frB) = false := by
    rw [Bool.eq_false_iff, Ne, fpIsZero_iff]
    exact positive.ne'
  have signed := scaledValue_signed (fprGet s frB)
  have plus : fpSign (fprGet s frB) = false := by
    cases sign : fpSign (fprGet s frB)
    · rfl
    · rw [signed, sign, signedInt, if_pos rfl] at positive
      omega
  rw [signed, plus, signedInt, if_neg Bool.false_ne_true] at positive
  have ordinary : frsqrteSpecial s.fpscr (fprGet s frB) = none := by
    simp [frsqrteSpecial, fpIsSnan, notNan, notInf, notZero, plus]
  rw [execFrsqrte, needsFp_of_fp fp]
  simp only [flushOperand_ieee ieee, ordinary]
  exact (estimate_ends s frD rc true (fpExact false (frsqrteValue (fprGet s frB)) 0) rfl).mono fun t same =>
    same ▸ frsqrteValue_root finite (by exact_mod_cast positive)

end

/-- The bound of a positive estimate, in the units of the statement. -/
theorem RootEstimate.bound {x y : DWord} (h : RootEstimate x y) (positive : 0 < scaledValue x) :
    0 < scaledValue y ∧ (3999 ^ 2 : Int) * (unitOne : Int) ^ 3 < 4000 ^ 2 * (scaledValue y * scaledValue y * scaledValue x) ∧
      (4000 ^ 2 : Int) * (scaledValue y * scaledValue y * scaledValue x) < 4001 ^ 2 * (unitOne : Int) ^ 3 := by
  have above := h.above
  have below := h.below
  have own : scaledValue x = size x := by
    have : (scaledValue x).natAbs = size x := natAbs_scaledValue x
    omega
  have value : scaledValue y = size y := by rw [scaledValue_signed, h.sign, signedInt, if_neg Bool.false_ne_true]
  have pos : 0 < size y := Nat.pos_of_ne_zero fun zero => by simp [zero] at above
  rw [own, value]
  exact ⟨by exact_mod_cast pos, by exact_mod_cast above, by exact_mod_cast below⟩

/-- Settles O36: the chip's estimate is taken only where it keeps the bound; the rounded reciprocal and the truncated root keep
it. -/
theorem estimateBounds : Obligations.EstimateBounds := by
  unfold Obligations.EstimateBounds
  intro s frD frB rc fp ieee b x u
  have unit : u = (unitOne : Int) := by rw [unitOne, Nat.cast_pow, Nat.cast_ofNat]
  clear_value u
  subst unit
  refine ⟨fun finite single enough => ?_, fun finite positive => ?_⟩
  · have least : unitOne ≤ 2 ^ 127 * size b := by
      rw [natAbs_scaledValue] at enough
      exact_mod_cast enough
    exact (fres_ends fp ieee finite single least).mono fun t near => ⟨near.finite, near.single, near.bound⟩
  · exact (frsqrte_ends fp ieee finite positive).mono fun t near => by
      obtain ⟨pos, above, below⟩ := near.bound positive
      exact ⟨near.finite, pos, near.low, above, below⟩

end Sys2Proof.Machine
end

section
/-! PROOF. O32: the synchronising instructions, and a use inside an old-or-new window. -/

namespace Sys2Proof.Machine

/-! ## A use inside a window (R1140) -/

theorem merge_ones (v old : Word) : merge 0xFFFFFFFF v old = old := by
  rw [show (0xFFFFFFFF : Word) = BitVec.allOnes 32 from rfl, merge, BitVec.not_allOnes,
    BitVec.and_zero, BitVec.and_allOnes, BitVec.zero_or]

theorem merge_zero (v old : Word) : merge 0 v old = v := by
  rw [show (0 : Word) = 0#32 from rfl, merge, BitVec.and_zero, BitVec.or_zero, BitVec.not_zero, BitVec.and_allOnes]

/-- A value a use of a control may find: each bit as written or as overwritten, and for a control used as a whole all bits. -/
structure OldOrNew (s : State) (c : Control) (v : Word) : Prop where
  bits : ∀ k, k < 32 → bitAt v k = bitAt (held s c) k ∨ ∃ old, (c, old) ∈ s.ctx.stale ∧ bitAt v k = bitAt old k
  whole : bitwise c = false → v = held s c ∨ (c, v) ∈ s.ctx.stale

theorem OldOrNew.held (s : State) (c : Control) : OldOrNew s c (held s c) := ⟨fun _ _ => .inl rfl, fun _ => .inl rfl⟩

/-- A choice between a value in force and an overwritten one. -/
theorem OldOrNew.merge {s : State} {c : Control} {v old m : Word} (h : OldOrNew s c v) (stale : (c, old) ∈ s.ctx.stale)
    (all : bitwise c = false → m = 0xFFFFFFFF ∨ m = 0) : OldOrNew s c (merge m v old) := by
  constructor
  · intro k hk
    rw [bitAt_merge m v old hk]
    split
    · exact .inr ⟨old, stale, rfl⟩
    · exact h.bits k hk
  · intro as
    rcases all as with rfl | rfl
    · exact .inr ((merge_ones v old).symm ▸ stale)
    · rw [merge_zero]
      exact h.whole as

/-- A state as before but for the choices. -/
def SameRegisters (s t : State) : Prop := t = { s with ctx := ⟨s.ctx.stale, t.ctx.inForce⟩, freeCtr := t.freeCtr }

theorem SameRegisters.held {s t : State} (h : SameRegisters s t) (c : Control) : held t c = held s c := by
  rw [h]
  rfl

theorem SameRegisters.trans {s t u : State} (h : SameRegisters s t) (h' : SameRegisters t u) : SameRegisters s u := by
  rw [SameRegisters] at h h' ⊢
  rw [h', h]

/-- A control after another choice. -/
theorem control_choice (s : State) (c c' : Control) (v : Word) :
    control { s with ctx := { s.ctx with inForce := (c', v) :: s.ctx.inForce } } c = if c = c' then v else control s c := by
  show (List.lookup c ((c', v) :: s.ctx.inForce)).getD (held s c) = _
  rw [List.lookup_cons]
  by_cases eq : c = c'
  · rw [if_pos eq, beq_iff_eq.mpr eq]
    rfl
  · rw [if_neg eq, beq_false_of_ne eq]
    rfl

/-- A control where none is chosen. -/
theorem control_unchosen {s : State} {p : Control → Bool} {c : Control} (hc : p c = true) :
    control { s with ctx := { s.ctx with inForce := s.ctx.inForce.filter fun e => !p e.1 } } c = held s c := by
  have none : List.lookup c (s.ctx.inForce.filter fun e => !p e.1) = none := by
    rw [List.lookup_eq_none_iff]
    intro e he
    have := (List.mem_filter.mp he).2
    rw [bne_iff_ne]
    rintro rfl
    simp [hc] at this
  show (List.lookup c _).getD (held s c) = _
  rw [none]
  rfl

/-- Choosing among overwritten values leaves every control old or new. -/
theorem chooseAll_spec {s : State} {p : Control → Bool} (l : List (Control × Word)) (within : ∀ e ∈ l, e ∈ s.ctx.stale)
    {u : State}
    (same : SameRegisters s u) {c : Control} (h : OldOrNew s c (control u c)) :
    SameRegisters s (chooseAll p l u) ∧ OldOrNew s c (control (chooseAll p l u) c) := by
  induction l generalizing u with
  | nil => exact ⟨same, h⟩
  | cons e l ih =>
    obtain ⟨c', old⟩ := e
    have rest : ∀ e ∈ l, e ∈ s.ctx.stale := fun e he => within e (List.mem_cons_of_mem _ he)
    have here : (c', old) ∈ s.ctx.stale := within _ List.mem_cons_self
    unfold chooseAll
    split
    · refine ih rest (same.trans rfl) ?_
      rw [control_choice]
      split
      · next eq =>
        subst eq
        refine h.merge here fun as => ?_
        rw [if_neg (by rw [as]; decide)]
        exact (em (bitAt (fresh 32 u).1 0 = true)).imp (if_pos ·) (if_neg ·)
      · exact h
    · exact ih rest same h

/-- A use inside a window. -/
theorem rechoose_spec {s : State} {p : Control → Bool} {c : Control} (hc : p c = true) (window : s.ctx.stale ≠ []) :
    SameRegisters s (rechoose p s) ∧ OldOrNew s c (control (rechoose p s) c) := by
  unfold rechoose
  rw [if_neg (by simpa using window)]
  have start := control_unchosen (s := s) hc
  refine chooseAll_spec (u := { s with ctx := { s.ctx with inForce := s.ctx.inForce.filter fun e => !p e.1 } }) s.ctx.stale
    (fun _ he => he) rfl ?_
  rw [start]
  exact .held s c

/-! ## The instructions -/

theorem sync_goes (s : State) (rc : Bool) : Goes (exec (.sync rc) s) fun t =>
    (rc = false → t.cr = s.cr ∧ t.freeCtr = s.freeCtr) ∧ CrOutside s t 0 ∧
    t = { s with
      busLog := (if bitAt (hid0Now s) 28 then .sync :: s.busLog else s.busLog), storeQueue := []
      caches := { s.caches with leaving := [] }, cr := t.cr, freeCtr := t.freeCtr, pc := s.pc + 4 } := by
  have log : (if hidAbe s then logBus .sync s else s) =
      { s with busLog := if bitAt (hid0Now s) 28 then .sync :: s.busLog else s.busLog } := by
    show (if bitAt (hid0Now s) 28 = true then _ else _) = _
    split <;> rfl
  have drained : exec (.sync rc) s = nextInstr (recordAny rc (drainStores (if hidAbe s then logBus .sync s else s))) := rfl
  rw [drained, log]
  refine ⟨_, rfl, fun off => by subst off; exact ⟨rfl, rfl⟩, recordAny_outside rc (drainStores { s with busLog := _ }), ?_⟩
  cases rc <;> rfl

/-- Settles O32, by following the choices of a use through the window. -/
theorem synchronisationResults : Obligations.SynchronisationResults := by
  unfold Obligations.SynchronisationResults
  refine ⟨fun s rc => ⟨sync_goes s rc, ?_, rfl⟩, fun s c window notIabr => ?_⟩
  · show nextInstr (if bitAt (hid0Now s) 28 = true then _ else _) = _
    split <;> rfl
  · obtain ⟨same, choice⟩ := rechoose_spec (p := fun c => c != .iabr) (c := c) (by simpa using notIabr) window
    refine ⟨choice.bits, fun notMsr notHid0 => choice.whole ?_, same.held c⟩
    rw [bitwise, beq_false_of_ne notMsr, beq_false_of_ne notHid0]
    rfl

end Sys2Proof.Machine
end

section
/-! PROOF. O45: external control. -/

namespace Sys2Proof.Machine

/-! ## An access that nothing disturbs -/

/-- No window is open, no other master is at work, and no data address breakpoint is enabled. -/
structure Quiet (s : State) : Prop where
  settled : Settled s
  alone : Alone s
  dabr : (field s.sup.dabr 30 2 : BitVec 2) = 0

theorem PlainData.quiet {s : State} (h : PlainData s) : Quiet s := ⟨h.settled, h.alone, h.dabr⟩

section
variable {s : State} (h : Quiet s)
include h

theorem quiet_dabr (k : Access) (a : Word) : dabrMatches k a s = false := by
  have store : bitAt s.sup.dabr 30 = false := by
    rw [← bitAt_field s.sup.dabr (first := 30) (len := 2) (k := 0) (by decide) (by decide), h.dabr, bitAt_zero]
  have load : bitAt s.sup.dabr 31 = false := by
    rw [← bitAt_field s.sup.dabr (first := 30) (len := 2) (k := 1) (by decide) (by decide), h.dabr, bitAt_zero]
  have own : control s .dabr = s.sup.dabr := settled_control h.settled .dabr
  rw [dabrMatches, own, store, load, ite_self, Bool.and_false]

theorem quiet_dabrCheck (k : Access) (ea : Word) (n : Nat) : dabrCheck k ea n s = .ok () s := by
  simp only [dabrCheck, quiet_dabr h, Bool.false_eq_true, if_false]

end

/-- An access whose translation leaves a quiet state. -/
theorem dataAccess_of_translated {k : Access} {ea : Word} {n : Nat} {part : Bool} {data : List Byte} {s u : State} {t : Span}
    (translated : translateSpan k ea n part data s = .ok t u) (h : Quiet u) : dataAccess k ea n part data s = .ok t u := by
  simp only [dataAccess, translated, andThen, settled_furtherUse h.settled, quiet_dabrCheck h, gap_alone h.alone]

/-- An operand within one page. -/
theorem translateSpan_page {k : Access} {ea : Word} {n : Nat} {part : Bool} {data : List Byte} {s u : State} {pa : Word} {wimg : BitVec 4}
    (within : pageOf (lastEa ea n) = pageOf ea) (translated : translate k ea s = .ok pa wimg u) :
    translateSpan k ea n part data s = .ok ⟨pageOf pa, wimg, pageOf pa, wimg⟩ u := by
  rw [translateSpan, translated]
  dsimp only
  rw [if_pos within]

/-- An aligned word lies within a page. -/
theorem pageOf_lastEa_word {ea : Word} (aligned : ea.toNat % 4 = 0) : pageOf (lastEa ea 4) = pageOf ea := by
  have last : (lastEa ea 4).toNat = ea.toNat + 3 := by
    rw [lastEa, BitVec.toNat_add, (by decide : (BitVec.ofNat 32 (4 - 1)).toNat = 3)]
    omega
  rw [← BitVec.toNat_inj, pageOf_toNat, pageOf_toNat, last]
  omega

/-- Translation through one block. -/
theorem translate_block {s : State} {k : Access} {ea : Word} {b : BatPair} (virtual : realMode s k = false) (ready : tlbsReady s = true)
    (hits : batHits s k ea = [b]) : translate k ea s = batTranslate b k ea s := by
  simp only [translate, translateWith, virtual, ready, hits, Bool.not_true, Bool.false_eq_true, if_false]

/-- A data access through one block that allows it. -/
theorem batTranslate_allowed {s : State} {k : Access} {ea : Word} {b : BatPair} (data : k ≠ .fetch)
    (allowed : batAllows (field b.lower 30 2) k = true) : batTranslate b k ea s = .ok (batAddress b ea) (field b.lower 25 4) s := by
  simp [batTranslate, allowed, data]

/-- A block keeps the place within the page. -/
theorem batAddress_offset (b : BatPair) (ea : Word) : (field (batAddress b ea) 20 12 : BitVec 12) = field ea 20 12 := by
  rw [batAddress, field_append_right _ _ (by decide) (by decide), field_field _ (by decide) (by decide)]

/-- The address within a doubleword, put back into a physical address that keeps it. -/
theorem doubleword_join {pa ea : Word} (offset : (field pa 20 12 : BitVec 12) = field ea 20 12) : pa &&& 0xFFFFFFF8 ||| ea &&& 7 = pa := by
  have high : ∀ k < 32, bitAt (0xFFFFFFF8 : Word) k = decide (k < 29) := by decide
  have low : ∀ k < 32, bitAt (7 : Word) k = decide (29 ≤ k) := by decide
  apply eq_of_bitAt
  intro k hk
  rw [bitAt_or, bitAt_and, bitAt_and, high k hk, low k hk]
  rcases Nat.lt_or_ge k 29 with page | place
  · simp [page]
  · have same := congrArg (bitAt · (k - 20)) offset
    simp only [bitAt_field _ (show 20 + 12 ≤ 32 by decide) (show k - 20 < 12 by omega), (by omega : 20 + (k - 20) = k)] at same
    simp [place, same]

/-! ## External control (R905, R906) -/

section
variable {s : State} (h : Quiet s) (tea : s.tea = [])
include h

theorem extAddress_real (k : Access) (ea : Word) (real : msrDr s = false) : ∃ pa, extAddress k ea s = .ok pa { s with freeCtr := s.freeCtr + 1 } := by
  refine ⟨(fresh 32 s).1, ?_⟩
  simp only [extAddress, real, Bool.false_eq_true, if_false, quiet_dabrCheck h, andThen, gap_alone h.alone]
  rfl

theorem extAddress_block {k : Access} {ea : Word} {b : BatPair} (data : k = .load ∨ k = .store) (big : msrLe s = false)
    (virtual : msrDr s = true) (ready : tlbsReady s = true) (aligned : ea.toNat % 4 = 0) (hits : batHits s k ea = [b])
    (allowed : batAllows (field b.lower 30 2) k = true) : extAddress k ea s = .ok (batAddress b ea) s := by
  have notFetch : k ≠ .fetch := by rcases data with rfl | rfl <;> decide
  have mode : realMode s k = false := by rcases data with rfl | rfl <;> simp [realMode, virtual]
  have translated := (translate_block mode ready hits).trans (batTranslate_allowed (s := s) notFetch allowed)
  have access := dataAccess_of_translated (translateSpan_page (part := false) (data := []) (pageOf_lastEa_word aligned) translated) h
  rw [extAddress, if_pos virtual, access]
  have place : (spanByte ⟨pageOf (batAddress b ea), field b.lower 25 4, pageOf (batAddress b ea), field b.lower 25 4⟩ ea ea s).1 =
      batAddress b ea := by
    rw [spanByte, if_pos rfl, placed, big, if_neg Bool.false_ne_true, ← batAddress_offset b ea]
    exact page_join _
  simp only [andThen, big, Bool.false_eq_true, if_false, place, doubleword_join (batAddress_offset b ea)]

theorem externalControl_enabled {k : Access} {xo : BitVec 10} {r rA : Reg} {ea pa : Word} {f : Word → State → State} {u : State}
    (enabled : bitAt s.sup.ear 0 = true) (aligned : ea.toNat % 4 = 0) (address : extAddress k ea s = .ok pa u) (tea : u.tea = []) :
    externalControl k xo r rA ea f s = .next (advance (f pa u)) := by
  have on : earEnabled s = true := by
    rw [earEnabled, settled_control h.settled]
    exact enabled
  have good : isTea u pa = false := by simp [isTea, tea]
  simp only [externalControl, settled_newUse h.settled, on, Bool.not_true, Bool.false_eq_true, if_false,
    needsWordAligned_of_aligned aligned, address, finish, good]
  rfl

theorem externalControl_disabled {k : Access} {xo : BitVec 10} {r rA : Reg} {ea : Word} {f : Word → State → State}
    (disabled : bitAt s.sup.ear 0 = false) (real : msrDr s = false) :
    externalControl k xo r rA ea f s = .next (takeDsi ea (maskBit 11 ||| (if k = .store then maskBit 6 else 0)) s) := by
  have off : earEnabled s = false := by
    rw [earEnabled, settled_control h.settled]
    exact disabled
  have segment : inDirectStore ea s = false := by rw [inDirectStore, real, Bool.false_and, Bool.false_and]
  simp only [externalControl, settled_newUse h.settled, off, Bool.not_false, if_true, earDsisr, segment, Bool.false_eq_true, if_false]
  rw [show maskBit 11 ||| (0 : Word) = maskBit 11 from BitVec.or_zero]

end

theorem eciwx_eq (s : State) (rD rA rB : Reg) : exec (.eciwx rD rA rB) s = externalControl .load 310 rD rA (eaX s rA rB)
    (fun pa s => gprSet (logBus (.extRead (earRid s) pa) { s with freeCtr := s.freeCtr + 1 }) rD (Config.extIn (earRid s) pa s.freeCtr)) s :=
  rfl

theorem ecowx_eq (s : State) (rD rA rB : Reg) : exec (.ecowx rD rA rB) s = externalControl .store 438 rD rA (eaX s rA rB)
    (fun pa s => logBus (.extWrite (earRid s) pa (gprGet s rD)) s) s := rfl

section
variable {s : State} (h : Quiet s) {rD rA rB : Reg} (enabled : bitAt s.sup.ear 0 = true) (aligned : (eaX s rA rB).toNat % 4 = 0) {u : State}
  (left : u = { s with freeCtr := u.freeCtr }) (tea : s.tea = [])
include h enabled aligned left tea

theorem eciwx_goes {pa : Word} (address : extAddress .load (eaX s rA rB) s = .ok pa u) :
    Goes (exec (.eciwx rD rA rB) s) fun t =>
      t.busLog = .extRead (field s.sup.ear 28 4) pa :: s.busLog ∧ (∀ r, r ≠ rD → gprGet t r = gprGet s r) ∧
      t = { s with gpr := t.gpr, busLog := t.busLog, freeCtr := t.freeCtr, pc := s.pc + 4 } := by
  have run := externalControl_enabled (xo := 310) (r := rD) (rA := rA)
    (f := fun pa s => gprSet (logBus (.extRead (earRid s) pa) { s with freeCtr := s.freeCtr + 1 }) rD (Config.extIn (earRid s) pa s.freeCtr))
    h enabled aligned address (by rw [left]; exact tea)
  refine ⟨_, (eciwx_eq s rD rA rB).trans run, ?_, fun r hr => ?_, ?_⟩
  · rw [left]
    show BusOp.extRead (field (control s .ear) 28 4) pa :: s.busLog = _
    rw [settled_control h.settled]
    rfl
  · refine (gprGet_gprSet _ rD r _).trans ?_
    rw [if_neg hr, left]
    rfl
  · rw [left]
    rfl

theorem ecowx_goes {pa : Word} (address : extAddress .store (eaX s rA rB) s = .ok pa u) :
    Goes (exec (.ecowx rD rA rB) s) fun t =>
      t.busLog = .extWrite (field s.sup.ear 28 4) pa (gprGet s rD) :: s.busLog ∧
      t = { s with busLog := t.busLog, freeCtr := t.freeCtr, pc := s.pc + 4 } := by
  have run := externalControl_enabled (xo := 438) (r := rD) (rA := rA)
    (f := fun pa s => logBus (.extWrite (earRid s) pa (gprGet s rD)) s) h enabled aligned address (by rw [left]; exact tea)
  refine ⟨_, (ecowx_eq s rD rA rB).trans run, ?_, ?_⟩
  · rw [left]
    show BusOp.extWrite (field (control s .ear) 28 4) pa (gprGet s rD) :: s.busLog = _
    rw [settled_control h.settled]
    rfl
  · rw [left]
    rfl

end

/-- Settles O45, by the translation of the address and the transfer. -/
theorem externalControlResults : Obligations.ExternalControlResults := by
  unfold Obligations.ExternalControlResults
  intro s rD rA rB settled alone big dabr tea ea rid reads writes
  have h : Quiet s := ⟨settled, alone, dabr⟩
  refine ⟨fun disabled real => ⟨?_, ?_⟩, fun enabled aligned => ⟨fun real => ⟨?_, ?_⟩, fun virtual ready b hits => ⟨fun pp => ?_, fun pp => ?_⟩⟩⟩
  · exact goes_next (takeDsi_entered ea 0x00100000 s) ((eciwx_eq s rD rA rB).trans (externalControl_disabled h disabled real))
  · exact goes_next (takeDsi_entered ea 0x02100000 s) ((ecowx_eq s rD rA rB).trans (externalControl_disabled h disabled real))
  · obtain ⟨pa, address⟩ := extAddress_real h .load ea real
    exact (eciwx_goes h enabled aligned rfl tea address).mono fun t ⟨log, rest⟩ => ⟨⟨pa, trivial, log⟩, rest⟩
  · obtain ⟨pa, address⟩ := extAddress_real h .store ea real
    exact (ecowx_goes h enabled aligned rfl tea address).mono fun t ⟨log, rest⟩ => ⟨⟨pa, trivial, log⟩, rest⟩
  · have address := extAddress_block h (.inl rfl) big virtual ready aligned hits (by simpa [batAllows] using pp)
    exact (eciwx_goes h enabled aligned rfl tea address).mono fun t ⟨log, rest⟩ => ⟨⟨_, rfl, log⟩, rest⟩
  · have address := extAddress_block h (k := .store) (.inr rfl) big virtual ready aligned hits (by simpa [batAllows] using pp)
    exact (ecowx_goes h enabled aligned rfl tea address).mono fun t ⟨log, rest⟩ => ⟨⟨_, rfl, log⟩, rest⟩

end Sys2Proof.Machine
end

section
/-! PROOF. O46: block and page translation. -/

namespace Sys2Proof.Machine

/-! ## Blocks (R268 to R270) -/

/-- What a fetch, load or store of `s` finds in a TLB set: the entry answers from way `w`. -/
structure First (s : State) (k : Access) (vsid : BitVec 24) (ea : Word) (w : Fin 2) (e : TlbEntry) : Prop where
  holds : TlbHolds s k vsid ea w e
  before : w = 1 → ∀ e', ¬ TlbHolds s k vsid ea 0 e'

theorem batMatches_eq (user : Bool) (b : BatPair) (ea : Word) : batMatches user b ea = batMatch user b ea := by
  have block : (field ea 4 11 &&& ~~~ (field b.upper 19 11 : BitVec 11) : BitVec 11) =
      field b.upper 4 11 &&& ~~~ (field b.upper 19 11 : BitVec 11) ↔
      ∀ i < 11, bitAt b.upper (19 + i) = true ∨ bitAt b.upper (4 + i) = bitAt ea (4 + i) := by
    constructor
    · intro same i hi
      have bits := congrArg (bitAt · i) same
      simp only [bitAt_and, bitAt_not _ hi, bitAt_field _ (by decide : 4 + 11 ≤ 32) hi, bitAt_field _ (by decide : 19 + 11 ≤ 32) hi] at bits
      cases long : bitAt b.upper (19 + i)
      · exact .inr (by simpa [long] using bits.symm)
      · exact .inl rfl
    · intro all
      apply eq_of_bitAt
      intro i hi
      simp only [bitAt_and, bitAt_not _ hi, bitAt_field _ (by decide : 4 + 11 ≤ 32) hi, bitAt_field _ (by decide : 19 + 11 ≤ 32) hi]
      rcases all i hi with long | same
      · simp [long]
      · rw [same]
  rw [Bool.eq_iff_iff]
  simp only [batMatches, batMatch, Bool.and_eq_true, beq_iff_eq, block, decide_eq_true_eq, List.all_eq_true, List.mem_range,
    Bool.or_eq_true, eq_comm (a := (field ea 0 4 : BitVec 4))]
  cases user <;> rfl

theorem batHits_settled {s : State} (settled : Settled s) (k : Access) (ea : Word) :
    batHits s k ea = (if k = .fetch then s.mmu.ibat else s.mmu.dbat).toList.filter fun b => batMatch (msrPr s) b ea := by
  have array : batArray s k = if k = .fetch then s.mmu.ibat else s.mmu.dbat := by
    ext1 i hi
    simp only [batArray, settled_control settled, held, batGet, Vector.getElem_ofFn]
    cases k <;> rfl
  rw [batHits, array]
  congr 1
  funext b
  exact batMatches_eq (msrPr s) b ea

/-- Translation with the TLBs invalidated, where no block matches. -/
theorem translate_page {s : State} {k : Access} {ea : Word} (virtual : realMode s k = false) (ready : tlbsReady s = true)
    (hits : batHits s k ea = []) : translate k ea s = pageTranslate true k ea s := by
  simp only [translate, translateWith, virtual, ready, hits, Bool.not_true, Bool.false_eq_true, if_false]

theorem batAllows_iff (pp : BitVec 2) (k : Access) : batAllows pp k = true ↔ if k = .store then pp = 2 else pp ≠ 0 := by
  cases k <;> simp [batAllows]

theorem bitAt_batAddress (b : BatPair) (ea : Word) {i : Nat} (hi : i < 11) : bitAt (batAddress b ea) (4 + i) =
    ((bitAt ea (4 + i) && bitAt (field b.upper 19 11 : BitVec 11) i) || (bitAt b.lower (4 + i) && !bitAt (field b.upper 19 11 : BitVec 11) i)) := by
  rw [batAddress, bitAt_append_left _ _ (by omega), bitAt_append_right _ _ (by omega), (by omega : 4 + i - 4 = i), bitAt_or,
    bitAt_and, bitAt_and, bitAt_not _ hi, bitAt_field ea (by decide) hi, bitAt_field b.lower (by decide) hi]

theorem field_batAddress_first (b : BatPair) (ea : Word) : (field (batAddress b ea) 0 4 : BitVec 4) = field b.lower 0 4 := by
  rw [batAddress, field_append_left _ _ (by decide), field_append_left _ _ (by decide), field_full]

theorem field_batAddress_last (b : BatPair) (ea : Word) : (field (batAddress b ea) 15 17 : BitVec 17) = field ea 15 17 := by
  rw [batAddress, field_append_right _ _ (by decide) (by decide), field_full]

/-- Translation through one block, in its three outcomes. -/
theorem translate_block_cases {s : State} {k : Access} {ea : Word} {b : BatPair} (virtual : realMode s k = false)
    (ready : tlbsReady s = true) (hits : batHits s k ea = [b]) :
    translate k ea s =
      if batAllows (field b.lower 30 2) k = true then
        if k = .fetch ∧ bitAt (field b.lower 25 4 : BitVec 4) 3 = true then .viol .guarded s
        else .ok (batAddress b ea) (field b.lower 25 4) s
      else .viol .protection s := by
  rw [translate_block virtual ready hits, batTranslate]
  by_cases allows : batAllows (field b.lower 30 2) k = true <;> simp [allows, attrG]

theorem block_translations (s : State) (ea : Word) (k : Access) (virtual : realMode s k = false) (ready : tlbsReady s = true)
    {b : BatPair} (hits : batHits s k ea = [b]) :
    let bl : BitVec 11 := field b.upper 19 11
    let pp : BitVec 2 := field b.lower 30 2
    let wimg : BitVec 4 := field b.lower 25 4
    let allowed : Prop := if k = .store then pp = 2 else pp ≠ 0
    (¬ allowed → translate k ea s = .viol .protection s) ∧
    (allowed → k = .fetch → bitAt wimg 3 = true → translate k ea s = .viol .guarded s) ∧
    (allowed → ¬ (k = .fetch ∧ bitAt wimg 3 = true) → ∃ pa, translate k ea s = .ok pa wimg s ∧
      field pa 0 4 = field b.lower 0 4 ∧ field pa 15 17 = field ea 15 17 ∧
      ∀ i, i < 11 → bitAt pa (4 + i) = ((bitAt ea (4 + i) && bitAt bl i) || (bitAt b.lower (4 + i) && !bitAt bl i))) := by
  intro bl pp wimg allowed
  have iff : batAllows (field b.lower 30 2) k = true ↔ allowed := batAllows_iff _ k
  rw [translate_block_cases virtual ready hits]
  refine ⟨fun no => ?_, fun yes fetch guarded => ?_, fun yes free => ?_⟩
  · rw [if_neg fun h => no (iff.mp h)]
  · rw [if_pos (iff.mpr yes), if_pos ⟨fetch, guarded⟩]
  · rw [if_pos (iff.mpr yes), if_neg free]
    exact ⟨_, rfl, field_batAddress_first b ea, field_batAddress_last b ea, fun i hi => bitAt_batAddress b ea hi⟩

/-! ## The TLB (R290, R291) -/

theorem tlbSet_eq (s : State) (k : Access) (ea : Word) : tlbSet s k ea = (tlbOf s k)[(field ea 14 6 : BitVec 6).toFin] := by
  cases k <;> rfl

theorem tlbHolds_iff (s : State) (k : Access) (vsid : BitVec 24) (ea : Word) (w : Fin 2) (e : TlbEntry) :
    TlbHolds s k vsid ea w e ↔ (tlbSet s k ea).ways[w] = some e ∧ tlbEntryMatches (some e) vsid ea = true := by
  rw [TlbHolds, tlbSet_eq, tlbEntryMatches, Bool.and_eq_true, beq_iff_eq, beq_iff_eq]

theorem tlbEntryMatches_iff (s : State) (k : Access) (vsid : BitVec 24) (ea : Word) (w : Fin 2) :
    tlbEntryMatches (tlbSet s k ea).ways[w] vsid ea = true ↔ ∃ e, TlbHolds s k vsid ea w e := by
  cases way : (tlbSet s k ea).ways[w] with
  | none => simp [tlbHolds_iff, tlbEntryMatches, way]
  | some e =>
    simp only [tlbHolds_iff, way, Option.some.injEq]
    exact ⟨fun h => ⟨e, rfl, h⟩, fun ⟨e', same, h⟩ => same ▸ h⟩

theorem tlbFind_first {s : State} {k : Access} {vsid : BitVec 24} {ea : Word} {w : Fin 2} {e : TlbEntry} (h : First s k vsid ea w e) :
    tlbFind s k vsid ea = some w ∧ (tlbSet s k ea).ways[w] = some e := by
  refine ⟨?_, ((tlbHolds_iff s k vsid ea w e).mp h.holds).1⟩
  have matched := (tlbEntryMatches_iff s k vsid ea w).mpr ⟨e, h.holds⟩
  have cases : w = 0 ∨ w = 1 := by omega
  rcases cases with rfl | rfl
  · exact if_pos matched
  · have other : ¬ tlbEntryMatches (tlbSet s k ea).ways[(0 : Fin 2)] vsid ea = true := fun m => by
      obtain ⟨e', holds⟩ := (tlbEntryMatches_iff s k vsid ea 0).mp m
      exact h.before rfl e' holds
    exact (if_neg other).trans (if_pos matched)

theorem tlbFind_none {s : State} {k : Access} {vsid : BitVec 24} {ea : Word} (h : ∀ w e, ¬ TlbHolds s k vsid ea w e) :
    tlbFind s k vsid ea = none := by
  have miss (w : Fin 2) : ¬ tlbEntryMatches (tlbSet s k ea).ways[w] vsid ea = true := fun m => by
    obtain ⟨e, holds⟩ := (tlbEntryMatches_iff s k vsid ea w).mp m
    exact h w e holds
  exact (if_neg (miss 0)).trans (if_neg (miss 1))

/-- Two states with the same TLBs. -/
def SameTlbs (s u : State) : Prop := u.mmu.itlb = s.mmu.itlb ∧ u.mmu.dtlb = s.mmu.dtlb

theorem SameTlbs.refl (s : State) : SameTlbs s s := ⟨rfl, rfl⟩

theorem SameTlbs.tlbOf {s u : State} (h : SameTlbs s u) (k : Access) : tlbOf u k = tlbOf s k := by
  obtain ⟨fetch, data⟩ := h
  cases k
  · exact fetch
  · exact data
  · exact data

theorem tlbOf_put (u : State) (k : Access) (ea : Word) (w : Fin 2) (e : TlbEntry) : tlbOf (tlbPut u k ea w e) k =
    (tlbOf u k).set (tlbIndex ea).val ⟨(tlbOf u k)[tlbIndex ea].ways.set w.val (some e) w.isLt, if w = 0 then 1 else 0⟩
      (tlbIndex ea).isLt := by
  cases k <;> rfl

/-- An entry put into its way has been used. -/
theorem tlbUsed_put {s u : State} (same : SameTlbs s u) (k : Access) (ea : Word) (w : Fin 2) (e : TlbEntry) :
    TlbUsed s (tlbPut u k ea w e) k ea w e := by
  constructor
  · intro j
    rw [tlbOf_put, same.tlbOf k]
    show ((tlbOf s k).set (tlbIndex ea).val _ _)[j.val] = _
    rw [Vector.getElem_set]
    by_cases own : j = tlbIndex ea
    · subst own
      rw [if_pos rfl]
      exact (if_pos rfl).symm
    · rw [if_neg fun eq => own (Fin.ext eq.symm)]
      exact (if_neg own).symm
  · obtain ⟨fetch, data⟩ := same
    cases k
    · exact data
    · exact fetch
    · exact fetch

theorem tlbPut_frame (u : State) (k : Access) (ea : Word) (w : Fin 2) (e : TlbEntry) :
    tlbPut u k ea w e = { u with
      mmu := { u.mmu with itlb := (tlbPut u k ea w e).mmu.itlb, dtlb := (tlbPut u k ea w e).mmu.dtlb } } := by
  cases k <;> rfl

theorem pageAllows_eq (key : Bool) (pp : BitVec 2) (k : Access) : pageAllows key pp k = !pageDenies k key pp := by
  cases k <;> revert key pp <;> decide

/-- The checks on an entry: a violation, or the address. -/
theorem entryCheck_cases (e : TlbEntry) (key : Bool) (k : Access) (ea : Word) :
    (∃ v, entryCheck e key k = some v ∧ (k = .store → pageDenies k key e.pp = true) ∧ ∀ t, PageAnswer k ea key e (.viol v t) t) ∨
      (entryCheck e key k = none ∧ pageDenies k key e.pp = false ∧ ∀ t, PageAnswer k ea key e (.ok (entryAddress e ea) e.wimg t) t) := by
  unfold entryCheck PageAnswer
  rw [pageAllows_eq, Bool.not_not]
  by_cases denied : pageDenies k key e.pp = true
  · simp [denied]
  by_cases guarded : k = .fetch ∧ bitAt e.wimg 3 = true
  · obtain ⟨rfl, refused⟩ := guarded
    simp [denied, refused, attrG]
  · simp [denied, guarded, attrG, entryAddress]

/-- The entry that answers without a search. -/
theorem page_hit {s : State} {k : Access} {ea : Word} {sr : Word} {w : Fin 2} {e : TlbEntry} (segment' : segment s ea = sr)
    (open' : bitAt sr 0 = false) (execute : ¬ (k = .fetch ∧ bitAt sr 3 = true)) (h : First s k (field sr 8 24) ea w e)
    (kept : k = .store → pageDenies k (pageKey s sr) e.pp = true ∨ e.changed = true) :
    PageAnswer k ea (pageKey s sr) e (pageTranslate true k ea s) (tlbPut s k ea w e) := by
  obtain ⟨found, way⟩ := tlbFind_first h
  have go : ¬ (decide (k = .fetch) && bitAt sr 3) = true := by simpa using execute
  simp only [pageTranslate, segment', open', Bool.false_eq_true, if_false, if_neg go, found, way]
  rcases entryCheck_cases e (pageKey s sr) k ea with ⟨v, check, _, answer⟩ | ⟨check, allowed, answer⟩
  · rw [check]
    exact answer _
  · have stay : ¬ (decide (k = .store) && !e.changed && true) = true := by
      intro search
      simp only [Bool.and_true, Bool.and_eq_true, decide_eq_true_eq, Bool.not_eq_true'] at search
      rcases kept search.1 with denied | changed
      · rw [allowed] at denied
        exact Bool.false_ne_true denied
      · rw [search.2] at changed
        exact Bool.false_ne_true changed
    rw [check]
    exact (if_neg stay).symm ▸ answer _

/-! ## The table search (R286, R287) -/

theorem bytesAt_word (s : State) (pa : Word) :
    bytesAt s pa 4 = wordBytes (peek s pa ++ peek s (pa + 1) ++ peek s (pa + 2) ++ peek s (pa + 3)) := by
  rw [wordBytes_append]
  simp only [bytesAt, BitVec.add_assoc]
  rfl

theorem wordAt_append (s : State) (pa : Word) : wordAt s pa = peek s pa ++ peek s (pa + 1) ++ peek s (pa + 2) ++ peek s (pa + 3) := by
  rw [wordAt, bytesAt_word, valueBig_wordBytes, BitVec.ofNat_toNat, BitVec.setWidth_eq]

theorem wordAt_toNat (s : State) (pa : Word) : (wordAt s pa).toNat = valueBig (bytesAt s pa 4) := by
  rw [wordAt_append, bytesAt_word, valueBig_wordBytes]

section
variable {s : State} (h : PlainSearch s)
include h

theorem search_read (pa : Word) : tableReadWord pa s = (wordAt s pa, s) := by
  have read (a : Word) : dataReadByte a searchWimg s = (peek s a, s) := by
    have cached : attrI searchWimg = false := by decide
    simp [dataReadByte, cached, h.l1, singleRead, h.l2, busReadByte, isTea, h.tea, isDevice, h.devices]
  simp only [tableReadWord, gap_alone h.alone, read, wordAt_append]

/-- The first of `n` PTEs from an address on whose first word is the one wanted. -/
def groupFind (s : State) (want : Word) (n : Nat) (pa : Word) : Option Word :=
  ((List.range n).map fun i => pa + BitVec.ofNat 32 (8 * i)).find? fun a => wordAt s a == want

omit h in
theorem next_place (pa : Word) (i : Nat) : pa + BitVec.ofNat 32 (8 * (i + 1)) = pa + 8 + BitVec.ofNat 32 (8 * i) := by
  rw [Nat.mul_add, Nat.add_comm, BitVec.ofNat_add, (by decide : BitVec.ofNat 32 (8 * 1) = (8 : Word)), BitVec.add_assoc]

omit h in
theorem groupFind_succ (s : State) (want : Word) (n : Nat) (pa : Word) :
    groupFind s want (n + 1) pa = if wordAt s pa = want then some pa else groupFind s want n (pa + 8) := by
  have list : (List.range (n + 1)).map (fun i => pa + BitVec.ofNat 32 (8 * i)) =
      pa :: (List.range n).map fun i => pa + 8 + BitVec.ofNat 32 (8 * i) := by
    rw [List.range_succ_eq_map, List.map_cons, List.map_map]
    refine congrArg₂ List.cons (BitVec.add_zero pa) (List.map_congr_left fun i _ => next_place pa i)
  rw [groupFind, list]
  by_cases own : wordAt s pa = want
  · rw [if_pos own]
    exact List.find?_cons_of_pos (beq_iff_eq.mpr own)
  · rw [if_neg own]
    exact List.find?_cons_of_neg fun same => own (beq_iff_eq.mp same)

theorem searchGroup_eq (want : Word) (n : Nat) (pa : Word) :
    searchGroup want n pa s = ((groupFind s want n pa).map fun a => (a, wordAt s (a + 4)), s) := by
  induction n generalizing pa with
  | zero => rfl
  | succ n ih =>
    rw [groupFind_succ]
    simp only [searchGroup, search_read h]
    by_cases own : wordAt s pa = want
    · rw [if_pos own, if_pos own]
      rfl
    · rw [if_neg own, if_neg own]
      exact ih _

theorem search_sdr1 : control s .sdr1 = s.mmu.sdr1 := settled_control h.settled .sdr1

/-- Both groups, the primary one first. -/
def groupsFind (s : State) (vsid : BitVec 24) (ea : Word) : Option Word :=
  (groupFind s (pteWord0 vsid false ea) 8 (ptegAddr s.mmu.sdr1 (hashPrimary vsid ea))).or
    (groupFind s (pteWord0 vsid true ea) 8 (ptegAddr s.mmu.sdr1 (~~~ hashPrimary vsid ea)))

omit h in
/-- The second group is looked through where the first has none. -/
theorem choose_group {search : Word → Nat → Word → State → Option (Word × Word) × State} {s : State} {f : Word → Word × Word}
    {w w' p p' : Word} {first second : Option Word} (primary : search w 8 p s = (first.map f, s))
    (secondary : search w' 8 p' s = (second.map f, s)) :
    (match search w 8 p s with
      | (some r, s) => (some r, s)
      | (none, s) => search w' 8 p' s) = ((first.or second).map f, s) := by
  rw [primary]
  cases first with
  | none => exact secondary
  | some a => rfl

theorem tableSearch_eq (vsid : BitVec 24) (ea : Word) :
    tableSearch vsid ea s = ((groupsFind s vsid ea).map fun a => (a, wordAt s (a + 4)), s) := by
  have primary := searchGroup_eq h (pteWord0 vsid false ea) 8 (ptegAddr s.mmu.sdr1 (hashPrimary vsid ea))
  have secondary := searchGroup_eq h (pteWord0 vsid true ea) 8 (ptegAddr s.mmu.sdr1 (~~~ hashPrimary vsid ea))
  unfold tableSearch groupsFind
  rw [search_sdr1 h]
  exact choose_group primary secondary

omit h in
theorem append_toNat {m n : Nat} (x : BitVec m) (y : BitVec n) : (x ++ y).toNat = x.toNat * 2 ^ n + y.toNat := by
  rw [BitVec.toNat_append, ← Nat.shiftLeft_add_eq_or_of_lt y.isLt, Nat.shiftLeft_eq]

omit h in
theorem pteWord0_toNat (vsid : BitVec 24) (second : Bool) (ea : Word) : (pteWord0 vsid second ea).toNat =
    2 ^ 31 + vsid.toNat * 2 ^ 7 + second.toNat * 2 ^ 6 + ea.toNat / 2 ^ 22 % 2 ^ 6 := by
  have bit : (ofBit second).toNat = second.toNat := BitVec.toNat_ofBool second
  rw [pteWord0, append_toNat, append_toNat, append_toNat, bit, field_toNat, (by decide : (ofBit true).toNat = 1)]
  omega

omit h in
theorem ptegAddr_toNat (sdr1 : Word) (hash : BitVec 19) : (ptegAddr sdr1 hash).toNat = pteGroup sdr1 hash.toNat := by
  have table := sdr1.isLt
  have wide := hash.isLt
  have low : (field sdr1 7 9 ||| (field sdr1 23 9 &&& field hash 0 9) : BitVec 9).toNat =
      sdr1.toNat / 2 ^ 16 % 2 ^ 9 ||| (sdr1.toNat % 2 ^ 9 &&& hash.toNat / 2 ^ 10) := by
    rw [BitVec.toNat_or, BitVec.toNat_and, field_toNat, field_toNat, field_toNat]
    congr 2
    · exact congrArg (· % 2 ^ 9) (Nat.div_one _)
    · omega
  have split : sdr1.toNat / 2 ^ 16 = (sdr1.toNat / 2 ^ 25) <<< 9 ||| sdr1.toNat / 2 ^ 16 % 2 ^ 9 := by
    rw [← Nat.shiftLeft_add_eq_or_of_lt (by omega), Nat.shiftLeft_eq]
    omega
  have bound := (field sdr1 7 9 ||| (field sdr1 23 9 &&& field hash 0 9) : BitVec 9).isLt
  rw [ptegAddr, append_toNat, append_toNat, append_toNat, pteGroup, split, Nat.or_assoc, Nat.and_comm (hash.toNat / 2 ^ 10), ← low,
    ← Nat.shiftLeft_add_eq_or_of_lt bound, Nat.shiftLeft_eq, field_toNat, field_toNat]
  generalize (field sdr1 7 9 ||| (field sdr1 23 9 &&& field hash 0 9) : BitVec 9).toNat = x
  have zero : (0 : BitVec 6).toNat = 0 := rfl
  omega

omit h in
theorem hashPrimary_toNat (vsid : BitVec 24) (ea : Word) :
    (hashPrimary vsid ea).toNat = (vsid.toNat % 2 ^ 19) ^^^ (ea.toNat / 2 ^ 12 % 2 ^ 16) := by
  rw [hashPrimary, BitVec.toNat_xor, BitVec.toNat_setWidth, field_toNat, field_toNat]
  congr 1
  · exact congrArg (· % 2 ^ 19) (Nat.div_one _)
  · omega

omit h in
theorem find_tagged {l : List Nat} {f g : Nat → Word} (n : Nat) {p : Word × Nat → Bool} {q : Word → Bool} (same : ∀ i, f i = g i)
    (test : ∀ a, p (a, n) = q a) : ((l.map fun i => (f i, n)).find? p).map (·.1) = (l.map g).find? q := by
  rw [List.find?_map, List.find?_map, Option.map_map]
  simp only [Function.comp_def, same, test]

omit h in
/-- One group of the candidates. -/
theorem find_group (s : State) (sdr1 : Word) (vsid : BitVec 24) (ea : Word) (hash : BitVec 19) (second : Bool) :
    ((((List.range 8).map fun i => (BitVec.ofNat 32 (pteGroup sdr1 hash.toNat + 8 * i), second.toNat)).find? fun c =>
      valueBig (bytesAt s c.1 4) == 2 ^ 31 + vsid.toNat * 2 ^ 7 + c.2 * 2 ^ 6 + ea.toNat / 2 ^ 22 % 2 ^ 6).map (·.1)) =
    groupFind s (pteWord0 vsid second ea) 8 (ptegAddr sdr1 hash) := by
  have place (i : Nat) : BitVec.ofNat 32 (pteGroup sdr1 hash.toNat + 8 * i) = ptegAddr sdr1 hash + BitVec.ofNat 32 (8 * i) := by
    rw [BitVec.ofNat_add, ← ptegAddr_toNat, BitVec.ofNat_toNat, BitVec.setWidth_eq]
  have wanted (a : Word) : (valueBig (bytesAt s a 4) ==
      2 ^ 31 + vsid.toNat * 2 ^ 7 + second.toNat * 2 ^ 6 + ea.toNat / 2 ^ 22 % 2 ^ 6) = (wordAt s a == pteWord0 vsid second ea) := by
    rw [Bool.eq_iff_iff, beq_iff_eq, beq_iff_eq, ← BitVec.toNat_inj, wordAt_toNat, pteWord0_toNat]
  exact find_tagged _ (fun i => place i) fun a => wanted a

omit h in
theorem pteFound_eq (s : State) (vsid : BitVec 24) (ea : Word) : pteFound s vsid ea = groupsFind s vsid ea := by
  have secondary : (~~~ hashPrimary vsid ea).toNat = 2 ^ 19 - 1 - ((vsid.toNat % 2 ^ 19) ^^^ (ea.toNat / 2 ^ 12 % 2 ^ 16)) := by
    rw [BitVec.toNat_not, hashPrimary_toNat]
  rw [pteFound, pteCandidates, List.find?_append, Option.map_or]
  rw [← hashPrimary_toNat] at secondary ⊢
  rw [← secondary, groupsFind]
  exact congrArg₂ Option.or (find_group s _ vsid ea _ false) (find_group s _ vsid ea _ true)

/-! ## R and C in memory (R294) -/

omit h in
/-- The bits `m` of the byte at `a` have been set, and nothing else in memory has changed. -/
structure Marked (s t : State) (a : Word) (m : Byte) : Prop where
  frame : t = { s with mem := t.mem, storeQueue := t.storeQueue }
  canonical : MemoryCanonical t
  bytes : ∀ x, peek t x = if x = a then peek s x ||| m else peek s x

theorem search_write (pa : Word) (v : Byte) :
    dataWriteByte pa searchWimg v s = poke (queueOld false pa (peek s pa) s) pa v := by
  have cached : attrI searchWimg = false := by decide
  have back : attrW searchWimg = false := by decide
  simp [dataWriteByte, cached, back, h.l1, singleWrite, h.l2, h.test, busWriteByte, isTea, h.tea, isDevice, h.devices]

theorem PlainSearch.congr {u : State} (same : u = { s with mem := u.mem, storeQueue := u.storeQueue }) : PlainSearch u := by
  obtain ⟨settled, alone, l1, l2, test, tea, devices⟩ := h
  rw [same]
  exact ⟨⟨settled.stale, settled.inForce⟩, alone, l1, l2, test, tea, devices⟩

/-- Setting bits of a byte that is not already as it should be. -/
theorem marked_write (canonical : MemoryCanonical s) {a : Word} {m v : Byte} {on : Bool} (value : v = peek s a ||| m)
    (already : on = true → peek s a ||| m = peek s a) :
    Marked s (if on then s else dataWriteByte a searchWimg v (gap s)) a m := by
  cases on
  · rw [if_neg Bool.false_ne_true, gap_alone h.alone, search_write h]
    have queued : MemoryCanonical (queueOld false a (peek s a) s) := canonical
    refine ⟨rfl, poke_canonical queued a v, fun x => ?_⟩
    by_cases own : x = a
    · subst own
      rw [if_pos rfl, peek_poke_same queued, value]
    · rw [if_neg own, peek_poke_other queued v own]
      rfl
  · refine ⟨rfl, canonical, fun x => ?_⟩
    by_cases own : x = a
    · subst own
      exact (already rfl).symm.trans (if_pos rfl).symm
    · exact (if_neg own).symm

omit h in
/-- The bytes of a PTE that hold R and C. -/
theorem pte_bytes (s : State) (pte : Word) :
    (field (wordAt s (pte + 4)) 16 8 : Byte) = peek s (pte + 6) ∧ (field (wordAt s (pte + 4)) 24 8 : Byte) = peek s (pte + 7) ∧
      bitAt (wordAt s (pte + 4)) 23 = bitAt (peek s (pte + 6)) 7 ∧ bitAt (wordAt s (pte + 4)) 24 = bitAt (peek s (pte + 7)) 0 := by
  have place6 : pte + 4 + 2 = pte + 6 := by rw [BitVec.add_assoc]; rfl
  have place7 : pte + 4 + 3 = pte + 7 := by rw [BitVec.add_assoc]; rfl
  have byte6 : (field (wordAt s (pte + 4)) 16 8 : Byte) = peek s (pte + 6) := by
    rw [wordAt_append, field_append_left _ _ (by decide), field_append_right _ _ (by decide) (by decide), field_full, place6]
  have byte7 : (field (wordAt s (pte + 4)) 24 8 : Byte) = peek s (pte + 7) := by
    rw [wordAt_append, field_append_right _ _ (by decide) (by decide), field_full, place7]
  refine ⟨byte6, byte7, ?_, ?_⟩
  · rw [← byte6, bitAt_field _ (by decide) (by decide)]
  · rw [← byte7, bitAt_field _ (by decide) (by decide)]

theorem setReferenced_marked (canonical : MemoryCanonical s) (pte : Word) :
    Marked s (setReferenced pte (wordAt s (pte + 4)) s) (pte + 6) 0x01 := by
  obtain ⟨byte, _, bit, _⟩ := pte_bytes s pte
  have set : ∀ b : Byte, bitAt b 7 = true → b ||| 0x01 = b := by decide
  exact marked_write h canonical (by rw [byte]) fun on => set _ (bit ▸ on)

/-- C is set after R: the byte that holds it is still as the search read it. -/
theorem setChanged_marked {u : State} (canonical : MemoryCanonical u) (pte : Word)
    (byte' : peek u (pte + 7) = peek s (pte + 7)) (same : u = { s with mem := u.mem, storeQueue := u.storeQueue }) :
    Marked u (setChanged pte (wordAt s (pte + 4)) u) (pte + 7) 0x80 := by
  obtain ⟨_, byte, _, bit⟩ := pte_bytes s pte
  have set : ∀ b : Byte, bitAt b 0 = true → b ||| 0x80 = b := by decide
  exact marked_write (h.congr same) canonical (by rw [byte, byte']) fun on => set _ (byte'.symm ▸ bit ▸ on)

/-- What O46 says of a table search that found a PTE. -/
def Reloaded (s : State) (k : Access) (ea : Word) (key : Bool) (w : Fin 2) (pte : Word) (e : TlbEntry) (x : Xlat) : Prop :=
  let changes := decide (k = .store) && !pageDenies k key e.pp
  ∃ t, TlbUsed s t k ea w { e with changed := e.changed || changes } ∧ PteMarked s t pte changes ∧
    t = { s with
      mem := t.mem, storeQueue := t.storeQueue, mmu := { s.mmu with itlb := t.mmu.itlb, dtlb := t.mmu.dtlb } } ∧
    PageAnswer k ea key e x t

omit h in
/-- An entry put into the TLB after its PTE has been marked. -/
theorem used_after {u : State} (same : u = { s with mem := u.mem, storeQueue := u.storeQueue }) (k : Access) (ea : Word) (w : Fin 2)
    (e : TlbEntry) : TlbUsed s (tlbPut u k ea w e) k ea w e ∧ tlbPut u k ea w e = { s with
      mem := (tlbPut u k ea w e).mem, storeQueue := (tlbPut u k ea w e).storeQueue
      mmu := { s.mmu with itlb := (tlbPut u k ea w e).mmu.itlb, dtlb := (tlbPut u k ea w e).mmu.dtlb } } := by
  have tlbs : SameTlbs s u := by
    rw [same]
    exact .refl s
  have memory : (tlbPut u k ea w e).mem = u.mem ∧ (tlbPut u k ea w e).storeQueue = u.storeQueue := by cases k <;> exact ⟨rfl, rfl⟩
  refine ⟨tlbUsed_put tlbs k ea w e, (tlbPut_frame u k ea w e).trans ?_⟩
  rw [memory.1, memory.2]
  generalize (tlbPut u k ea w e).mmu.itlb = fetch
  generalize (tlbPut u k ea w e).mmu.dtlb = data
  rw [same]

omit h in
theorem frame_trans {u v : State} (first : u = { s with mem := u.mem, storeQueue := u.storeQueue })
    (second : v = { u with mem := v.mem, storeQueue := v.storeQueue }) : v = { s with mem := v.mem, storeQueue := v.storeQueue } := by
  rw [second, first]

omit h in
theorem pteMarked_referenced {u t : State} {pte : Word} (marked : Marked s u (pte + 6) 0x01) (same : t.mem = u.mem) :
    PteMarked s t pte false := by
  intro x
  have bytes := marked.bytes x
  rw [if_neg fun h : x = pte + 7 ∧ false = true => Bool.false_ne_true h.2, ← bytes, peek, same]
  rfl

omit h in
theorem places_differ (pte : Word) : pte + 7 ≠ pte + 6 := fun eq => by
  have := (BitVec.add_right_inj pte).mp eq
  exact absurd this (by decide)

omit h in
theorem pteMarked_changed {u v t : State} {pte : Word} (marked : Marked s u (pte + 6) 0x01) (again : Marked u v (pte + 7) 0x80)
    (same : t.mem = v.mem) : PteMarked s t pte true := by
  intro x
  have first := marked.bytes x
  have second := again.bytes x
  have own : peek t x = peek v x := by rw [peek, same]; rfl
  rw [own, second, first]
  by_cases change : x = pte + 7
  · subst change
    rw [if_pos rfl, if_neg (places_differ pte), if_neg (places_differ pte), if_pos ⟨rfl, rfl⟩]
  · rw [if_neg change, if_neg fun h : x = pte + 7 ∧ true = true => change h.1]

omit h in
/-- A reload whose search found a PTE, and whose writes set R and C. -/
theorem reload_marked {vsid : BitVec 24} {ea pte w1 : Word} (search : tableSearch vsid ea s = (some (pte, w1), s))
    (marked : Marked s (setReferenced pte w1 s) (pte + 6) 0x01)
    (again : Marked (setReferenced pte w1 s) (setChanged pte w1 (setReferenced pte w1 s)) (pte + 7) 0x80)
    (w : Fin 2) (key : Bool) (k : Access) : Reloaded s k ea key w pte (pteEntry vsid ea w1) (reload w vsid key k ea s) := by
  have entry : entryOf vsid ea w1 = pteEntry vsid ea w1 := rfl
  simp only [reload, search, entry]
  generalize pteEntry vsid ea w1 = e
  have both := frame_trans marked.frame again.frame
  generalize setChanged pte w1 (setReferenced pte w1 s) = v at again both
  generalize setReferenced pte w1 s = u at marked again
  have kept (e : TlbEntry) : (tlbPut u k ea w e).mem = u.mem := by cases k <;> rfl
  unfold Reloaded
  rcases entryCheck_cases e key k ea with ⟨x, check, denied, answer⟩ | ⟨check, allowed, answer⟩
  · have changes : (decide (k = .store) && !pageDenies k key e.pp) = false := by
      by_cases store : k = .store
      · rw [denied store, Bool.not_true, Bool.and_false]
      · rw [decide_eq_false store, Bool.false_and]
    obtain ⟨used, frame⟩ := used_after marked.frame k ea w e
    rw [check]
    dsimp only
    rw [changes, Bool.or_false]
    exact ⟨_, used, pteMarked_referenced marked (kept e), frame, answer _⟩
  · rw [check]
    dsimp only
    by_cases store : k = .store
    · obtain ⟨used, frame⟩ := used_after both k ea w { e with changed := true }
      have kept' : (tlbPut v k ea w { e with changed := true }).mem = v.mem := by cases k <;> rfl
      rw [if_pos store, decide_eq_true store, allowed, Bool.not_false, Bool.and_true, Bool.or_true]
      exact ⟨_, used, pteMarked_changed marked again kept', frame, answer _⟩
    · obtain ⟨used, frame⟩ := used_after marked.frame k ea w e
      rw [if_neg store, decide_eq_false store, Bool.false_and, Bool.or_false]
      exact ⟨_, used, pteMarked_referenced marked (kept e), frame, answer _⟩

theorem reload_found (canonical : MemoryCanonical s) {vsid : BitVec 24} {ea pte : Word} (found : pteFound s vsid ea = some pte)
    (w : Fin 2) (key : Bool) (k : Access) :
    Reloaded s k ea key w pte (pteEntry vsid ea (wordAt s (pte + 4))) (reload w vsid key k ea s) := by
  have search : tableSearch vsid ea s = (some (pte, wordAt s (pte + 4)), s) := by
    rw [tableSearch_eq h, ← pteFound_eq, found]
    rfl
  have marked := setReferenced_marked h canonical pte
  have other : peek (setReferenced pte (wordAt s (pte + 4)) s) (pte + 7) = peek s (pte + 7) :=
    (marked.bytes _).trans (if_neg (places_differ pte))
  exact reload_marked search marked (setChanged_marked h marked.canonical pte other marked.frame) w key k

theorem reload_none {vsid : BitVec 24} {ea : Word} (found : pteFound s vsid ea = none) (w : Fin 2) (key : Bool) (k : Access) :
    reload w vsid key k ea s = .viol .pageFault s := by
  have search : tableSearch vsid ea s = (none, s) := by
    rw [tableSearch_eq h, ← pteFound_eq, found]
    rfl
  simp only [reload, search]

end

/-! ## Translation -/

/-- What the page translation does once the segment allows it. -/
theorem pageTranslate_open {s : State} {k : Access} {ea sr : Word} (segment' : segment s ea = sr) (open' : bitAt sr 0 = false)
    (execute : ¬ (k = .fetch ∧ bitAt sr 3 = true)) :
    (∀ w e, First s k (field sr 8 24) ea w e → k = .store → pageDenies k (pageKey s sr) e.pp = false → e.changed = false →
      pageTranslate true k ea s = reload w (field sr 8 24) (pageKey s sr) k ea s) ∧
    ((∀ w e, ¬ TlbHolds s k (field sr 8 24) ea w e) →
      pageTranslate true k ea s = reload (tlbVictim s k ea) (field sr 8 24) (pageKey s sr) k ea s) := by
  have go : ¬ (decide (k = .fetch) && bitAt sr 3) = true := by simpa using execute
  constructor
  · intro w e h store allowed unchanged
    obtain ⟨found, way⟩ := tlbFind_first h
    have check : entryCheck e (pageKey s sr) k = none := by
      rcases entryCheck_cases e (pageKey s sr) k ea with ⟨v, _, denied, _⟩ | ⟨check, _, _⟩
      · rw [denied store] at allowed
        exact absurd allowed (by decide)
      · exact check
    simp only [pageTranslate, segment', open', Bool.false_eq_true, if_false, if_neg go, found, way, check]
    exact if_pos (by simp [store, unchanged])
  · intro miss
    simp only [pageTranslate, segment', open', Bool.false_eq_true, if_false, if_neg go, tlbFind_none miss, if_true]

theorem tlbVictim_eq (s : State) (k : Access) (ea : Word) : tlbVictim s k ea =
    if (tlbSet s k ea).ways[0] = none then 0 else if (tlbSet s k ea).ways[1] = none then 1 else (tlbSet s k ea).lru.toFin := by
  simp only [tlbVictim, Option.isNone_iff_eq_none]

theorem page_translations (s : State) (ea : Word) (k : Access) (settled : Settled s) (virtual : realMode s k = false)
    (ready : tlbsReady s = true) (hits : batHits s k ea = []) :
    let sr := srGet s (field ea 0 4)
    let vsid : BitVec 24 := field sr 8 24
    let key := bitAt sr (if msrPr s then 2 else 1)
    (bitAt sr 0 = true → translate k ea s = .viol .directStore s) ∧
    (bitAt sr 0 = false → k = .fetch → bitAt sr 3 = true → translate k ea s = .viol .noExecute s) ∧
    (bitAt sr 0 = false → ¬ (k = .fetch ∧ bitAt sr 3 = true) →
      (∀ w e, First s k vsid ea w e → (k = .store → pageDenies k key e.pp = true ∨ e.changed = true) →
        PageAnswer k ea key e (translate k ea s) (tlbPut s k ea w e)) ∧
      (∀ w e, First s k vsid ea w e → k = .store → pageDenies k key e.pp = false → e.changed = false →
        translate k ea s = reload w vsid key k ea s) ∧
      ((∀ w e, ¬ TlbHolds s k vsid ea w e) → translate k ea s = reload (tlbVictim s k ea) vsid key k ea s)) := by
  have segment' : segment s ea = srGet s (field ea 0 4) := settled_control settled _
  have key (sr : Word) : pageKey s sr = bitAt sr (if msrPr s then 2 else 1) := by
    rw [pageKey]
    split <;> rfl
  rw [translate_page virtual ready hits]
  intro sr vsid key'
  refine ⟨fun direct => ?_, fun open' fetch none => ?_, fun open' execute => ?_⟩
  · simp only [pageTranslate, segment', if_pos (show bitAt sr 0 = true from direct), sr]
  · subst fetch
    simp only [pageTranslate, segment']
    rw [if_neg (by rw [show bitAt (srGet s (field ea 0 4)) 0 = false from open']; decide)]
    exact if_pos none
  · obtain ⟨store, miss⟩ := pageTranslate_open segment' open' execute
    rw [key] at store miss
    refine ⟨fun w e first kept => ?_, store, miss⟩
    have answer := page_hit (sr := srGet s (field ea 0 4)) segment' open' execute first
    rw [key] at answer
    exact answer kept

/-- The entry that answers without a search, as O46 says it. -/
theorem hit_used {s : State} {k : Access} {ea : Word} {key : Bool} {w : Fin 2} {e : TlbEntry} {x : Xlat}
    (answer : PageAnswer k ea key e x (tlbPut s k ea w e)) : ∃ t, TlbUsed s t k ea w e ∧
      t = { s with mmu := { s.mmu with itlb := t.mmu.itlb, dtlb := t.mmu.dtlb } } ∧ PageAnswer k ea key e x t :=
  ⟨_, tlbUsed_put (.refl s) k ea w e, tlbPut_frame s k ea w e, answer⟩

/-- Settles O46: blocks by their bits, pages through the TLB, and the table search by memory. -/
theorem blockTranslationResults : Obligations.BlockTranslationResults := by
  unfold Obligations.BlockTranslationResults
  refine ⟨fun s ea k => ⟨fun real => ?_, fun virtual unready => ?_, fun settled => batHits_settled settled k ea,
    fun virtual ready b hits => block_translations s ea k virtual ready hits, fun virtual ready many => ?_⟩,
    fun s ea k settled virtual ready hits => ?_⟩
  · simp [translate, translateWith, real, realWimg]
  · simp [translate, translateWith, virtual, unready]
  · obtain ⟨b, b', l, hits⟩ : ∃ b b' l, batHits s k ea = b :: b' :: l := by
      cases h : batHits s k ea with
      | nil => simp [h] at many
      | cons b l =>
        cases l with
        | nil => simp [h] at many
        | cons b' l => exact ⟨b, b', l, rfl⟩
    simp [translate, translateWith, virtual, ready, hits]
  · obtain ⟨direct, noExecute, pages⟩ := page_translations s ea k settled virtual ready hits
    refine ⟨direct, noExecute, fun open' execute => ?_⟩
    obtain ⟨hit, store, miss⟩ := pages open' execute
    intro first
    refine ⟨fun w e h isStore kept => hit_used (hit w e ⟨h.1, h.2⟩ fun _ => kept),
      fun w e h noStore => hit_used (hit w e ⟨h.1, h.2⟩ fun isStore => absurd isStore noStore), fun plain canonical w why => ?_⟩
    have search : translate k ea s = reload w (field (srGet s (field ea 0 4)) 8 24)
        (bitAt (srGet s (field ea 0 4)) (if msrPr s then 2 else 1)) k ea s := by
      rcases why with ⟨e, h, isStore, allowed, unchanged⟩ | ⟨none, way⟩
      · exact store w e ⟨h.1, h.2⟩ isStore allowed unchanged
      · rw [way, ← tlbSet_eq, ← tlbVictim_eq]
        exact miss none
    rw [search]
    split
    · next none => exact reload_none plain none w _ k
    · next pte found => exact reload_found plain canonical found w _ k

end Sys2Proof.Machine
end

section
/-! PROOF. O43: a store, then a load of the same address. -/

namespace Sys2Proof.Machine

/-! ## What a change of the memory side keeps -/

/-- Data accesses in real mode and big-endian that end in the data cache or in memory: the L2 off, no device, no TEA, and nothing
that disturbs them. -/
structure Near (s : State) : Prop where
  quiet : Quiet s
  real : msrDr s = false
  big : msrLe s = false
  l2 : l2On s = false
  test : l2Ts s = false
  tea : s.tea = []
  devices : s.devices = []
  canonical : MemoryCanonical s

section
variable {s t : State} (m : MemSide s t)
include m

theorem MemSide.settled (h : Settled s) : Settled t := by
  have ctx := m.cpu.settled h.stale
  exact ⟨by rw [ctx, h.stale], by rw [ctx, h.inForce]⟩

theorem MemSide.held (c : Control) : held t c = held s c := by
  rw [m.cpu.frame]
  cases c <;> rfl

theorem MemSide.control (h : Settled s) (c : Control) : control t c = control s c := by
  rw [settled_control (m.settled h), settled_control h, m.held]

theorem MemSide.hidDce (h : Settled s) : hidDce t = hidDce s := by rw [Machine.hidDce, hid0Now, m.control h]; rfl
theorem MemSide.hidDlock (h : Settled s) : hidDlock t = hidDlock s := by rw [Machine.hidDlock, hid0Now, m.control h]; rfl

theorem MemSide.alone (h : Alone s) : Alone t := (m.cpu.alone h).1
theorem MemSide.l2On (h : Alone s) : l2On t = l2On s := by rw [Machine.l2On, (m.cpu.alone h).2.2]; rfl
theorem MemSide.l2Ts (h : Alone s) : l2Ts t = l2Ts s := by rw [Machine.l2Ts, (m.cpu.alone h).2.2]; rfl

theorem MemSide.quiet (h : Quiet s) : Quiet t := ⟨m.settled h.settled, m.alone h.alone, by rw [m.sup]; exact h.dabr⟩

theorem MemSide.near (h : Near s) : Near t where
  quiet := m.quiet h.quiet
  real := by rw [msrDr, m.control h.quiet.settled]; exact h.real
  big := by rw [msrLe, m.control h.quiet.settled]; exact h.big
  l2 := (m.l2On h.quiet.alone).trans h.l2
  test := (m.l2Ts h.quiet.alone).trans h.test
  tea := m.tea.trans h.tea
  devices := m.devices.trans h.devices
  canonical := m.mem h.canonical

end

/-! ## Blocks of the data cache (R342) -/

/-- A way holds a block of a tag. -/
def holdsTag (o : Option DBlock) (tag : BitVec 20) : Bool :=
  match o with
  | some b => b.tag == tag
  | none => false

theorem dFind_eq (s : State) (pa : Word) :
    dFind s pa = ways8.find? fun w => holdsTag (dset s (setOf pa)).ways[w] (tagOf pa) := rfl

theorem holdsTag_some {b : DBlock} {tag : BitVec 20} : holdsTag (some b) tag = true ↔ b.tag = tag := by simp [holdsTag]

/-- Two addresses of one block. -/
def SameBlock (x pa : Word) : Prop := setOf x = setOf pa ∧ tagOf x = tagOf pa

theorem dFind_some {s : State} {pa : Word} {w : Fin 8} (h : dFind s pa = some w) :
    ∃ b, (dset s (setOf pa)).ways[w] = some b ∧ b.tag = tagOf pa := by
  rw [dFind_eq] at h
  have holds := List.find?_some h
  cases way : (dset s (setOf pa)).ways[w] with
  | none =>
    rw [way] at holds
    exact absurd holds Bool.false_ne_true
  | some b => exact ⟨b, rfl, holdsTag_some.mp (way ▸ holds)⟩

theorem dFind_none {s : State} {pa : Word} (h : dFind s pa = none) (w : Fin 8) :
    holdsTag (dset s (setOf pa)).ways[w] (tagOf pa) = false := by
  have all : ∀ w : Fin 8, w ∈ ways8 := by decide
  rw [dFind_eq, List.find?_eq_none] at h
  exact Bool.eq_false_iff.mpr (h w (all w))

theorem dBlock_of_found {s : State} {pa : Word} {w : Fin 8} (h : dFind s pa = some w) :
    dBlock s pa = (dset s (setOf pa)).ways[w] := by rw [dBlock, h]

theorem dBlock_of_missing {s : State} {pa : Word} (h : dFind s pa = none) : dBlock s pa = none := by rw [dBlock, h]

/-- What a way holds is looked for by set and tag. -/
theorem dFind_congr {s t : State} {x pa : Word} (same : SameBlock x pa)
    (h : ∀ w : Fin 8, holdsTag (dset t (setOf pa)).ways[w] (tagOf pa) = holdsTag (dset s (setOf pa)).ways[w] (tagOf pa)) :
    dFind t x = dFind s pa := by
  rw [dFind_eq, dFind_eq, same.1, same.2]
  simp only [h]

section
variable {s : State} {x pa : Word} {w : Fin 8} {b : DBlock}

/-- A block put into a way holds its own tag; the other ways are as they were. -/
theorem holdsTag_dWayPut (o : Option DBlock) (v : Fin 8) (tag : BitVec 20) :
    holdsTag (dset (dWayPut s pa w o) (setOf pa)).ways[v] tag =
      if v = w then holdsTag o tag else holdsTag (dset s (setOf pa)).ways[v] tag := by
  rw [dset_dWayPut, apply_ite (holdsTag · tag)]
  exact if_congr (and_iff_right rfl) rfl rfl

/-- The block of an address put where it is, or into a way while no way holds it. -/
theorem dFind_put (here : dFind s pa = some w ∨ dFind s pa = none) (tag : b.tag = tagOf pa) (same : SameBlock x pa) :
    dFind (dWayPut s pa w (some b)) x = some w ∧ dBlock (dWayPut s pa w (some b)) x = some b := by
  have holds : holdsTag (some b) (tagOf pa) = true := holdsTag_some.mpr tag
  have found : dFind (dWayPut s pa w (some b)) x = some w := by
    rcases here with found | missing
    · rw [← found]
      refine dFind_congr same fun v => ?_
      rw [holdsTag_dWayPut]
      split
      · next own =>
        subst own
        obtain ⟨b', way, tag'⟩ := dFind_some found
        rw [holds, way, holdsTag_some.mpr tag']
      · rfl
    · have only : ∀ w : Fin 8, ways8.find? (fun v => decide (v = w)) = some w := by decide
      rw [dFind_eq, same.1, same.2, ← only w]
      congr 1
      funext v
      rw [holdsTag_dWayPut, holds, dFind_none missing]
      by_cases own : v = w <;> simp [own]
  refine ⟨found, ?_⟩
  rw [dBlock_of_found found, dset_dWayPut, if_pos ⟨same.1, rfl⟩]

/-- A way emptied while no way holds the block. -/
theorem dFind_drop (missing : dFind s pa = none) (same : SameBlock x pa) : dFind (dWayPut s pa w none) x = none := by
  rw [← missing]
  refine dFind_congr same fun v => ?_
  rw [holdsTag_dWayPut]
  split
  · exact (dFind_none missing v).symm
  · rfl

/-- Another set is as it was. -/
theorem dBlock_put_other (o : Option DBlock) (other : setOf x ≠ setOf pa) :
    dFind (dWayPut s pa w o) x = dFind s x ∧ dBlock (dWayPut s pa w o) x = dBlock s x := by
  have ways (v : Fin 8) : (dset (dWayPut s pa w o) (setOf x)).ways[v] = (dset s (setOf x)).ways[v] := by
    rw [dset_dWayPut, if_neg fun h => other h.1]
  have found : dFind (dWayPut s pa w o) x = dFind s x := by simp only [dFind_eq, ways]
  refine ⟨found, ?_⟩
  unfold dBlock
  rw [found]
  cases dFind s x with
  | none => rfl
  | some v => exact ways v

theorem dset_dTouch_ways (n : Fin 128) : (dset (dTouch s pa w) n).ways = (dset s n).ways := by
  rw [dTouch, dset_dsetPut]
  split
  · next own => rw [own]
  · rfl

/-- A touch moves no block. -/
theorem dBlock_dTouch : dFind (dTouch s pa w) x = dFind s x ∧ dBlock (dTouch s pa w) x = dBlock s x := by
  have found : dFind (dTouch s pa w) x = dFind s x := by simp only [dFind_eq, dset_dTouch_ways]
  refine ⟨found, ?_⟩
  unfold dBlock
  rw [found]
  cases dFind s x with
  | none => rfl
  | some v =>
    show (dset (dTouch s pa w) (setOf x)).ways[v] = _
    rw [dset_dTouch_ways]

end

/-! ## Castouts and fills with the L2 off (R361, R366) -/

/-- A way that holds no modified block needs no castout. -/
theorem castoutWay_clean {s : State} {pa : Word} {w : Fin 8} (h : ∀ b, (dset s (setOf pa)).ways[w] = some b → b.modified = false) :
    castoutWay pa w s = s := by
  unfold castoutWay
  cases way : (dset s (setOf pa)).ways[w] with
  | none => simp only [way]
  | some b => simp only [way, h b way, Bool.false_eq_true, if_false]

/-- A block written to memory, and the way it was in empty. -/
def castOut (pa : Word) (w : Fin 8) (b : DBlock) (s : State) : State :=
  dWayPut (pokeBytes b.data.toList (blockBase (dBlockAddr pa b)) (beginPush (dBlockAddr pa b) s)) pa w none

theorem castoutWay_modified {s : State} (alone : Alone s) (l2 : l2On s = false) (tea : s.tea = []) (devices : s.devices = [])
    {pa : Word} {w : Fin 8} {b : DBlock} (way : (dset s (setOf pa)).ways[w] = some b) (modified : b.modified = true) :
    castoutWay pa w s = castOut pa w b s := by
  have room (x : Word) : l2Room x s = (none, s) := by rw [l2Room, l2]; rfl
  have bus : busWriteBlock (dBlockAddr pa b) b.data (beginPush (dBlockAddr pa b) s) =
      pokeBytes b.data.toList (blockBase (dBlockAddr pa b)) (beginPush (dBlockAddr pa b) s) :=
    busWriteBlock_memory (s := beginPush (dBlockAddr pa b) s) tea devices _ _
  unfold castoutWay
  simp only [way, modified, if_true, gap_alone alone, room, castout, bus]
  rfl

section
variable {s : State} (h : Near s)
include h

/-- A castout moves no block of another set, and finds no block where there was none. -/
theorem castoutWay_keeps {pa : Word} {w : Fin 8} (x : Word) :
    (setOf x ≠ setOf pa → dFind (castoutWay pa w s) x = dFind s x ∧ dBlock (castoutWay pa w s) x = dBlock s x) ∧
      (dFind s pa = none → dFind (castoutWay pa w s) pa = none) := by
  have poked (a : Word) (b : DBlock) : dFind (pokeBytes b.data.toList (blockBase (dBlockAddr pa b)) (beginPush (dBlockAddr pa b) s)) a =
      dFind s a ∧ dBlock (pokeBytes b.data.toList (blockBase (dBlockAddr pa b)) (beginPush (dBlockAddr pa b) s)) a = dBlock s a := by
    rw [pokeBytes_eq]
    exact ⟨rfl, rfl⟩
  by_cases dirty : ∃ b, (dset s (setOf pa)).ways[w] = some b ∧ b.modified = true
  · obtain ⟨b, way, modified⟩ := dirty
    rw [castoutWay_modified h.quiet.alone h.l2 h.tea h.devices way modified]
    refine ⟨fun other => ?_, fun missing => ?_⟩
    · obtain ⟨found, block⟩ := dBlock_put_other
        (s := pokeBytes b.data.toList (blockBase (dBlockAddr pa b)) (beginPush (dBlockAddr pa b) s)) (w := w) none other
      exact ⟨found.trans (poked x b).1, block.trans (poked x b).2⟩
    · exact dFind_drop ((poked pa b).1.trans missing) ⟨rfl, rfl⟩
  · rw [castoutWay_clean fun b way => Bool.eq_false_iff.mpr fun modified => dirty ⟨b, way, modified⟩]
    exact ⟨fun _ => ⟨rfl, rfl⟩, id⟩

/-- The way that a fill takes. -/
def victim (s : State) (pa : Word) : Fin 8 := victimWay (dset s (setOf pa)).ways (dset s (setOf pa)).plru (hidDcfa s)

theorem dFill_eq (pa : Word) : dFill pa s = (victim s pa, dTouch (dWayPut (castoutWay pa (victim s pa) s) pa (victim s pa)
    (some ⟨tagOf pa, false, peekBlock (castoutWay pa (victim s pa) s) (blockOf pa)⟩)) pa (victim s pa)) := by
  have side := castoutWay_side pa (victim s pa) s
  have near := side.near h
  have read : busReadBlock (blockOf pa) (castoutWay pa (victim s pa) s) =
      (peekBlock (castoutWay pa (victim s pa) s) (blockOf pa), castoutWay pa (victim s pa) s) := by
    simp [busReadBlock, near.tea, near.devices]
  have fetched : fetchBlock (l2On s) pa (castoutWay pa (victim s pa) s) =
      (peekBlock (castoutWay pa (victim s pa) s) (blockOf pa), castoutWay pa (victim s pa) s) := by
    rw [fetchBlock, h.l2, if_neg Bool.false_ne_true, gap_alone near.quiet.alone, read]
  unfold dFill
  dsimp only
  rw [show victimWay (dset s (setOf pa)).ways (dset s (setOf pa)).plru (hidDcfa s) = victim s pa from rfl, fetched]

/-- A fill puts the block into its way, and moves no block of another set. -/
theorem dFill_spec {pa : Word} (missing : dFind s pa = none) :
    (∀ x, SameBlock x pa → dFind (dFill pa s).2 x = some (dFill pa s).1 ∧ ∃ b, dBlock (dFill pa s).2 x = some b ∧ b.tag = tagOf pa) ∧
      ∀ x, setOf x ≠ setOf pa → dFind (dFill pa s).2 x = dFind s x ∧ dBlock (dFill pa s).2 x = dBlock s x := by
  rw [dFill_eq h]
  have keeps := castoutWay_keeps h (pa := pa) (w := victim s pa)
  generalize castoutWay pa (victim s pa) s = u at keeps
  constructor
  · intro x same
    obtain ⟨found, block⟩ := dFind_put (s := u) (w := victim s pa) (b := ⟨tagOf pa, false, peekBlock u (blockOf pa)⟩)
      (.inr ((keeps pa).2 missing)) rfl same
    exact ⟨dBlock_dTouch.1.trans found, _, dBlock_dTouch.2.trans block, rfl⟩
  · intro x other
    obtain ⟨found, block⟩ := dBlock_put_other (s := u) (w := victim s pa) (some ⟨tagOf pa, false, peekBlock u (blockOf pa)⟩) other
    exact ⟨dBlock_dTouch.1.trans (found.trans ((keeps x).1 other).1), dBlock_dTouch.2.trans (block.trans ((keeps x).1 other).2)⟩

end

/-! ## What a byte reads as (R360 to R368) -/

/-- The byte at `x` reads as `v`: from its block in the data cache, or from memory where a read does not fill the cache. -/
def ReadsAs (s : State) (x : Word) (v : Byte) : Prop :=
  (hidDce s = true ∧ ∃ b, dBlock s x = some b ∧ b.data[offOf x] = v) ∨
    ((hidDce s = true → hidDlock s = true ∧ dFind s x = none) ∧ peek s x = v)

/-- Nothing a byte is read from has changed. -/
theorem ReadsAs.congr {s t : State} {x : Word} {v : Byte} (h : ReadsAs s x v) (dce : hidDce t = hidDce s) (dlock : hidDlock t = hidDlock s)
    (found : dFind t x = dFind s x) (block : dBlock t x = dBlock s x) (byte : peek t x = peek s x) : ReadsAs t x v := by
  rwa [ReadsAs, dce, dlock, found, block, byte]

/-- A block of the cache is found in a way. -/
theorem dFind_of_block {s : State} {pa : Word} {b : DBlock} (h : dBlock s pa = some b) :
    ∃ w, dFind s pa = some w ∧ (dset s (setOf pa)).ways[w] = some b ∧ b.tag = tagOf pa := by
  cases found : dFind s pa with
  | none =>
    rw [dBlock_of_missing found] at h
    exact absurd h (by simp)
  | some w =>
    rw [dBlock_of_found found] at h
    obtain ⟨b', way, tag⟩ := dFind_some found
    obtain rfl : b = b' := Option.some.inj (h.symm.trans way)
    exact ⟨w, rfl, h, tag⟩

section
variable {s : State} (h : Near s)
include h

/-- Reading a byte answers it, and leaves every byte reading as before. -/
theorem read_readsAs {pa : Word} {v : Byte} (stored : ReadsAs s pa v) :
    (dataReadByte pa realWimg s).1 = v ∧ ∀ x u, ReadsAs s x u → ReadsAs (dataReadByte pa realWimg s).2 x u := by
  have cached : attrI realWimg = false := by decide
  rcases stored with ⟨on, b, block, byte⟩ | ⟨off, byte⟩
  · obtain ⟨w, found, way, tag⟩ := dFind_of_block block
    have run : dataReadByte pa realWimg s = (b.data[offOf pa], dTouch s pa w) := by
      simp only [dataReadByte, cached, Bool.false_eq_true, if_false, on, if_true, found, block]
    rw [run]
    exact ⟨byte, fun x u other => other.congr rfl rfl dBlock_dTouch.1 dBlock_dTouch.2 rfl⟩
  · have single : singleRead pa s = (peek s pa, s) := by
      simp [singleRead, h.l2, busReadByte, isTea, h.tea, isDevice, h.devices]
    have run : dataReadByte pa realWimg s = (peek s pa, s) := by
      by_cases on : hidDce s = true
      · obtain ⟨locked, missing⟩ := off on
        simp only [dataReadByte, cached, Bool.false_eq_true, if_false, on, if_true, missing, locked, single]
      · simp only [dataReadByte, cached, Bool.false_eq_true, if_false, on, single]
    rw [run]
    exact ⟨byte, fun x u other => other⟩

/-- Two bytes of an operand: another byte of the same block, or one in another set. -/
def Apart (x pa : Word) : Prop := setOf x ≠ setOf pa ∨ (SameBlock x pa ∧ offOf x ≠ offOf pa)

omit h in
theorem Apart.ne {x pa : Word} (h : Apart x pa) : x ≠ pa := by
  rintro rfl
  rcases h with other | ⟨_, other⟩
  · exact other rfl
  · exact other rfl

omit h in
theorem blockPut_same (d : BlockData) (pa : Word) (v : Byte) : (blockPut d pa v)[offOf pa] = v := by
  simp [blockPut]

omit h in
theorem blockPut_other (d : BlockData) {x pa : Word} (v : Byte) (other : offOf x ≠ offOf pa) : (blockPut d pa v)[offOf x] = d[offOf x] := by
  have : (offOf pa).val ≠ (offOf x).val := fun eq => other (Fin.ext eq.symm)
  simp [blockPut, this]

omit h in
/-- A byte written into the block that the cache holds. -/
theorem block_written {u : State} {pa : Word} {w : Fin 8} {b : DBlock} (v : Byte) (on : hidDce u = true) (found : dFind u pa = some w)
    (block : dBlock u pa = some b) (tag : b.tag = tagOf pa) {t : State}
    (put : t = dWayPut u pa w (some { b with modified := true, data := blockPut b.data pa v })) :
    ReadsAs t pa v ∧ ∀ x y, Apart x pa → ReadsAs u x y → ReadsAs t x y := by
  subst put
  have here {x : Word} (same : SameBlock x pa) := dFind_put (b := { b with modified := true, data := blockPut b.data pa v })
    (.inl found) tag same
  refine ⟨.inl ⟨on, _, (here ⟨rfl, rfl⟩).2, blockPut_same b.data pa v⟩, fun x y apart reads => ?_⟩
  rcases apart with other | ⟨same, place⟩
  · obtain ⟨found', block'⟩ := dBlock_put_other (s := u) (w := w) (some { b with modified := true, data := blockPut b.data pa v }) other
    exact reads.congr rfl rfl found' block' rfl
  · have own : dFind u x = dFind u pa := dFind_congr same fun _ => rfl
    have ownBlock : dBlock u x = some b := by
      rw [← block, dBlock_of_found (own.trans found), dBlock_of_found found, same.1]
    rcases reads with ⟨_, b', block', byte⟩ | ⟨off, _⟩
    · obtain rfl : b = b' := Option.some.inj (ownBlock.symm.trans block')
      exact .inl ⟨on, _, (here same).2, (blockPut_other b.data v place).trans byte⟩
    · have missing := (off on).2
      rw [own, found] at missing
      exact absurd missing (by simp)

/-- A byte written to memory. -/
theorem memory_written {pa : Word} (v : Byte) (off : hidDce s = true → hidDlock s = true ∧ dFind s pa = none) {t : State}
    (put : t = poke (queueOld false pa (peek s pa) s) pa v) :
    ReadsAs t pa v ∧ ∀ x y, Apart x pa → ReadsAs s x y → ReadsAs t x y := by
  subst put
  have queued : MemoryCanonical (queueOld false pa (peek s pa) s) := h.canonical
  exact ⟨.inr ⟨off, peek_poke_same queued pa v⟩,
    fun x y apart reads => reads.congr rfl rfl rfl rfl (peek_poke_other queued v apart.ne)⟩

/-- Writing a byte leaves it, and every byte apart from it reading as before. -/
theorem write_readsAs (pa : Word) (v : Byte) : ReadsAs (dataWriteByte pa realWimg v s) pa v ∧
    ∀ x y, Apart x pa → ReadsAs s x y → ReadsAs (dataWriteByte pa realWimg v s) x y := by
  have cached : attrI realWimg = false := by decide
  have back : attrW realWimg = false := by decide
  have single : singleWrite pa v s = poke (queueOld false pa (peek s pa) s) pa v := by
    simp [singleWrite, h.l2, h.test, busWriteByte, isTea, h.tea, isDevice, h.devices]
  cases on : hidDce s with
  | false =>
    have run : dataWriteByte pa realWimg v s = singleWrite pa v s := by
      simp only [dataWriteByte, cached, back, Bool.false_eq_true, if_false, on]
    exact memory_written h v (fun yes => absurd (on.symm.trans yes) Bool.false_ne_true) (run.trans single)
  | true =>
    cases found : dFind s pa with
    | some w =>
      obtain ⟨b, way, tag⟩ := dFind_some found
      have block : dBlock s pa = some b := (dBlock_of_found found).trans way
      have run : dataWriteByte pa realWimg v s =
          dTouch (dWayPut s pa w (some { b with modified := true, data := blockPut b.data pa v })) pa w := by
        simp only [dataWriteByte, cached, back, Bool.false_eq_true, if_false, on, if_true, found, block]
      obtain ⟨own, others⟩ := block_written v on found block tag rfl
      rw [run]
      exact ⟨own.congr rfl rfl dBlock_dTouch.1 dBlock_dTouch.2 rfl,
        fun x y apart reads => (others x y apart reads).congr rfl rfl dBlock_dTouch.1 dBlock_dTouch.2 rfl⟩
    | none =>
      cases locked : hidDlock s with
      | true =>
        have run : dataWriteByte pa realWimg v s = singleWrite pa v s := by
          simp only [dataWriteByte, cached, back, Bool.false_eq_true, if_false, on, if_true, found, locked]
        exact memory_written h v (fun _ => ⟨locked, found⟩) (run.trans single)
      | false =>
        obtain ⟨filled, kept⟩ := dFill_spec h found
        obtain ⟨found', b, block, tag⟩ := filled pa ⟨rfl, rfl⟩
        have run : dataWriteByte pa realWimg v s =
            dWayPut (dFill pa s).2 pa (dFill pa s).1 (some { b with modified := true, data := blockPut b.data pa v }) := by
          simp only [dataWriteByte, cached, back, Bool.false_eq_true, if_false, on, if_true, found, locked, block]
        have on' : hidDce (dFill pa s).2 = true := ((dFill_side pa s).hidDce h.quiet.settled).trans on
        obtain ⟨own, others⟩ := block_written v on' found' block tag run
        refine ⟨own, fun x y apart reads => others x y apart ?_⟩
        rcases reads with ⟨_, b', block', byte⟩ | ⟨off, _⟩
        · rcases apart with other | ⟨same, _⟩
          · exact .inl ⟨on', b', (kept x other).2.trans block', byte⟩
          · have missing : dFind s x = none := (dFind_congr same fun _ => rfl).trans found
            rw [dBlock_of_missing missing] at block'
            exact absurd block' (by simp)
        · rw [locked] at off
          exact absurd (off on).1 Bool.false_ne_true

end

/-! ## Operands -/

theorem setOf_toNat (x : Word) : (setOf x).val = x.toNat / 32 % 128 := field_toNat x 20 7
theorem tagOf_toNat (x : Word) : (tagOf x).toNat = x.toNat / 4096 % 2 ^ 20 := field_toNat x 0 20
theorem offOf_toNat (x : Word) : (offOf x).val = x.toNat % 32 := (field_toNat x 27 5).trans (congrArg (· % 32) (Nat.div_one _))

/-- Two places of an operand shorter than a block are apart. -/
theorem apart_offsets (a : Word) {i j : Nat} (ne : i ≠ j) (hi : i < 32) (hj : j < 32) :
    Apart (a + BitVec.ofNat 32 i) (a + BitVec.ofNat 32 j) := by
  have place (k : Nat) (hk : k < 32) : (a + BitVec.ofNat 32 k).toNat = (a.toNat + k) % 2 ^ 32 := by
    rw [BitVec.toNat_add, BitVec.toNat_ofNat, Nat.mod_eq_of_lt (by omega : k < 2 ^ 32)]
  have wide := a.isLt
  rw [Apart, SameBlock, ne_eq, ne_eq, Fin.ext_iff, Fin.ext_iff, ← BitVec.toNat_inj, setOf_toNat, setOf_toNat, tagOf_toNat, tagOf_toNat,
    offOf_toNat, offOf_toNat, place i hi, place j hj]
  omega

/-- The bytes from an address on read as a list. -/
def ReadAt (s : State) : Word → List Byte → Prop
  | _, [] => True
  | a, b :: bs => ReadsAs s a b ∧ ReadAt s (a + 1) bs

theorem ReadAt.mono {s t : State} (keeps : ∀ x y, ReadsAs s x y → ReadsAs t x y) {a : Word} {bs : List Byte} (h : ReadAt s a bs) :
    ReadAt t a bs := by
  induction bs generalizing a with
  | nil => trivial
  | cons b bs ih => exact ⟨keeps _ _ h.1, ih h.2⟩

section
variable {s : State} (h : Near s)
include h

theorem near_dataAccess {k : Access} (hk : k ≠ .fetch) (ea : Word) (n : Nat) (part : Bool) (data : List Byte) :
    dataAccess k ea n part data s = .ok (plainSpan ea n) s := by
  have real (a : Word) : translate k a s = .ok a realWimg s := by
    have mode : realMode s k = true := by cases k <;> simp_all [realMode, h.real]
    simp [translate, translateWith, mode]
  have start : pageOf (pageOf (lastEa ea n) ++ (0 : BitVec 12)) = pageOf (lastEa ea n) := by
    rw [pageOf, field_append_left _ _ (by decide), field_full]
  refine dataAccess_of_translated ?_ h.quiet
  simp only [translateSpan, real, settled_furtherUse h.quiet.settled, start, plainSpan]
  split
  · next same => rw [same]
  · rfl

theorem near_spanByte {ea : Word} {n j : Nat} (hn : n ≤ 4096) (hj : j < n) :
    spanByte (plainSpan ea n) ea (ea + BitVec.ofNat 32 j) s = (ea + BitVec.ofNat 32 j, realWimg) := by
  have page := plainSpan_page (ea := ea) hn hj
  rw [spanByte, placed, h.big, if_neg Bool.false_ne_true]
  split at page
  · next same => rw [if_pos same, page, page_join]; rfl
  · next other => rw [if_neg other, page, page_join]; rfl

theorem near_pieceGap (bus : Bool) (ea a : Word) : pieceGap bus ea a s = s := by
  rw [pieceGap, gap_alone h.quiet.alone, ite_self]

theorem near_writePieceByte (pa ea a : Word) (b : Byte) : writePieceByte (pa, realWimg) ea a b s = dataWriteByte pa realWimg b s := by
  have kept : pushWritten pa realWimg s = s := by
    rw [pushWritten, (by decide : attrW realWimg = false), Bool.false_and, Bool.false_and, if_neg Bool.false_ne_true]
  simp only [writePieceByte, near_pieceGap h, kept, ite_self]

/-- Reading the bytes of an operand. -/
theorem readList_readAt {ea : Word} {n : Nat} (hn : n ≤ 4096) (bs : List Byte) {j : Nat} (hj : j + bs.length ≤ n)
    (reads : ReadAt s (ea + BitVec.ofNat 32 j) bs) :
    (readList (plainSpan ea n) ea (byteEas (ea + BitVec.ofNat 32 j) bs.length) s).1 = bs := by
  induction bs generalizing s j with
  | nil => rfl
  | cons b bs ih =>
    rw [List.length_cons] at hj
    obtain ⟨own, rest⟩ := reads
    obtain ⟨value, keeps⟩ := read_readsAs h own
    have near := (dataReadByte_side (ea + BitVec.ofNat 32 j) realWimg s).near h
    rw [succ_offset] at rest
    have tail := ih near (j := j + 1) (by omega) (rest.mono keeps)
    simp only [List.length_cons, byteEas, readList, near_spanByte h hn (show j < n by omega), near_pieceGap h, succ_offset]
    rw [value, tail]

/-- Writing the bytes of an operand. -/
theorem writeList_readAt {ea : Word} {n : Nat} (hn : n ≤ 32) (bs : List Byte) {j : Nat} (hj : j + bs.length ≤ n) :
    ReadAt (writeList (plainSpan ea n) ea (ea + BitVec.ofNat 32 j) bs s) (ea + BitVec.ofNat 32 j) bs ∧
      ∀ i < j, ∀ y, ReadsAs s (ea + BitVec.ofNat 32 i) y →
        ReadsAs (writeList (plainSpan ea n) ea (ea + BitVec.ofNat 32 j) bs s) (ea + BitVec.ofNat 32 i) y := by
  induction bs generalizing s j with
  | nil => exact ⟨trivial, fun _ _ _ reads => reads⟩
  | cons b bs ih =>
    rw [List.length_cons] at hj
    obtain ⟨own, keeps⟩ := write_readsAs h (ea + BitVec.ofNat 32 j) b
    have near := (dataWriteByte_side (ea + BitVec.ofNat 32 j) realWimg b s).near h
    obtain ⟨tail, before⟩ := ih near (j := j + 1) (by omega)
    simp only [writeList, near_spanByte h (show n ≤ 4096 by omega) (show j < n by omega), near_writePieceByte h, succ_offset]
    refine ⟨⟨before j (by omega) b own, by rwa [succ_offset]⟩, fun i hi y reads => ?_⟩
    exact before i (by omega) y (keeps _ _ (apart_offsets ea (by omega) (by omega) (by omega)) reads)

end

/-! ## The instructions -/

/-- What a store leaves: the processor as it was, and its bytes to be read. -/
structure StoredAt (s t : State) (ea : Word) (bs : List Byte) : Prop where
  near : Near t
  reads : ReadAt t ea bs
  gpr : t.gpr = s.gpr
  fpu : msrFp t = msrFp s

section
variable {s : State} (h : Near s)
include h

theorem storeOp_near (ea : Word) {bs : List Byte} (hn : bs.length ≤ 32) :
    Goes (storeOp ea bs false id s) fun t => StoredAt s t ea bs := by
  have begun := beginStore_side s
  have near := begun.near h
  have written := (writeList_readAt near hn bs (ea := ea) (j := 0) (by omega)).1
  rw [show ea + BitVec.ofNat 32 0 = ea from BitVec.add_zero ea] at written
  have side := begun.trans (writeList_side (plainSpan ea bs.length) ea ea bs (beginStore s))
  have run : storeOp ea bs false id s = .next (advance (writeList (plainSpan ea bs.length) ea ea bs (beginStore s))) := by
    simp only [storeOp, dataStore, settled_newUse h.quiet.settled, inOrder, h.big, Bool.false_eq_true, if_false,
      near_dataAccess h (show Access.store ≠ .fetch by decide), andThen, finish]
    rfl
  refine ⟨_, run, ?_⟩
  generalize writeList (plainSpan ea bs.length) ea ea bs (beginStore s) = t at written side
  have near' := side.near h
  exact ⟨⟨⟨⟨near'.quiet.settled.stale, near'.quiet.settled.inForce⟩, near'.quiet.alone, near'.quiet.dabr⟩, near'.real, near'.big, near'.l2,
    near'.test, near'.tea, near'.devices, near'.canonical⟩, written.mono (s := t) (t := advance t) fun x y reads => reads.congr rfl rfl rfl rfl rfl, side.gpr,
    congrArg (bitAt · 18) (side.control h.quiet.settled .msr)⟩

theorem loadOp_near {ea : Word} {bs : List Byte} (hn : bs.length ≤ 32) (reads : ReadAt s ea bs) (f : List Byte → State → State) :
    ∃ u, loadOp ea bs.length false f s = .next (advance (f bs u)) := by
  have read := readList_readAt h (show bs.length ≤ 4096 by omega) bs (ea := ea) (j := 0) (by omega)
    (by rwa [show ea + BitVec.ofNat 32 0 = ea from BitVec.add_zero ea])
  rw [show ea + BitVec.ofNat 32 0 = ea from BitVec.add_zero ea] at read
  have order (u : State) (m : MemSide s u) : inOrder u bs = bs := by rw [inOrder, (m.near h).big, if_neg Bool.false_ne_true]
  have side := readList_side (plainSpan ea bs.length) ea (byteEas ea bs.length) s
  have run : loadOp ea bs.length false f s = finish (.ok (inOrder (readList (plainSpan ea bs.length) ea (byteEas ea bs.length) s).2
      (readList (plainSpan ea bs.length) ea (byteEas ea bs.length) s).1) (readList (plainSpan ea bs.length) ea (byteEas ea bs.length) s).2)
      fun bs s => nextInstr (f bs s) := by
    simp only [loadOp, dataLoad, settled_newUse h.quiet.settled, near_dataAccess h (show Access.load ≠ .fetch by decide), andThen]
    rfl
  rw [read, order _ side] at run
  exact ⟨_, run⟩

end

theorem eaD_of_gpr {s t : State} (h : t.gpr = s.gpr) (rA : Reg) (d : BitVec 16) : eaD t rA d = eaD s rA d := by
  simp only [eaD, base, gprGet, h]

/-- An integer store, then the load of the same bytes. -/
theorem integer_thenLoads {s : State} (h : Near s) {store load : Instr} {ea : Word} {bs : List Byte} {q : Reg} {n : Nat} {v : Word}
    (hn : bs.length ≤ 32) (len : bs.length = n)
    (stores : exec store s = storeOp ea bs false id s)
    (loads : ∀ t : State, t.gpr = s.gpr → exec load t = loadOp ea n false (intoGpr q zeroed) t)
    (value : zeroed bs = v) : Goes (exec store s) fun t => Goes (exec load t) fun u => gprGet u q = v := by
  rw [stores]
  refine (storeOp_near h ea hn).mono fun t stored => ?_
  obtain ⟨u, run⟩ := loadOp_near stored.near hn stored.reads (intoGpr q zeroed)
  rw [loads t stored.gpr, ← len]
  refine ⟨_, run, ?_⟩
  exact (gprGet_gprSet u q q (zeroed bs)).trans ((if_pos rfl).trans value)

/-- Settles O43: the bytes written are those that read back, wherever the cache and memory hold them. -/
theorem storeThenLoad : Obligations.StoreThenLoad := by
  unfold Obligations.StoreThenLoad
  intro s r q rA d settled alone real big l2 test tea devices dabr canonical thenLoads x
  have h : Near s := ⟨⟨settled, alone, dabr⟩, real, big, l2, test, tea, devices, canonical⟩
  refine ⟨?_, ?_, ?_, fun fp ready aligned => ?_⟩
  · exact integer_thenLoads h (store := .stb r d rA) (bs := byteOf (gprGet s r)) (show 1 ≤ 32 by decide) rfl rfl
      (fun t same => by rw [← eaD_of_gpr same]; rfl) (by rw [zeroed_eq, valueBig_byteOf])
  · exact integer_thenLoads h (store := .sth r d rA) (bs := halfOf (gprGet s r)) (show 2 ≤ 32 by decide) rfl rfl
      (fun t same => by rw [← eaD_of_gpr same]; rfl) (by rw [zeroed_eq, valueBig_halfOf])
  · exact integer_thenLoads h (store := .stw r d rA) (bs := wordBytes (gprGet s r)) (show 4 ≤ 32 by decide) rfl rfl
      (fun t same => by rw [← eaD_of_gpr same]; rfl)
      (by rw [zeroed_eq, valueBig_wordBytes, BitVec.ofNat_toNat, BitVec.setWidth_eq])
  · have store : exec (.stfd r d rA) s = storeOp (eaD s rA d) (dwordBytes (fprGet s r)) false id s := by
      show execStfd r d rA s = _
      rw [execStfd, fpStoreOp, needsFp_of_fp fp, needsWordAligned_of_aligned aligned, if_pos ready]
    show Goes (exec (.stfd r d rA) s) _
    rw [store]
    refine (storeOp_near h (eaD s rA d) (bs := dwordBytes (fprGet s r)) (show 8 ≤ 32 by decide)).mono fun t stored => ?_
    obtain ⟨u, run⟩ := loadOp_near stored.near (bs := dwordBytes (fprGet s r)) (show 8 ≤ 32 by decide) stored.reads (intoFpr q asDouble)
    have same := eaD_of_gpr stored.gpr rA d
    have load : exec (.lfd q d rA) t = loadOp (eaD s rA d) 8 false (intoFpr q asDouble) t := by
      show execLfd q d rA t = _
      rw [execLfd, fpLoadOp, needsFp_of_fp (stored.fpu.trans fp), same, needsWordAligned_of_aligned aligned]
    rw [load]
    refine ⟨_, run, ?_⟩
    refine (fprGet_fprSet u q q _).trans ((if_pos rfl).trans ?_)
    rw [asDouble_eq, valueBig_dwordBytes, BitVec.ofNat_toNat, BitVec.setWidth_eq]

end Sys2Proof.Machine
end

section
/-! PROOF. O41: the cache instructions. -/

namespace Sys2Proof.Machine

/-- What O41 says of the block a cache instruction acted on: its way, every other way, memory. -/
structure Acted (s t : State) (pa : Word) (w : Fin 8) (o : Option DBlock) : Prop where
  ways : ∀ (n : Fin 128) (v : Fin 8), (dset t n).ways[v] = if n = setOf pa ∧ v = w then o else (dset s n).ways[v]

/-! ## What an instruction changes on the memory side only -/

theorem done_of_side {s u : State} (m : MemSide s u) : SameCpu { s with pc := s.pc + 4 } (advance u) := by
  have frame := m.cpu.frame
  refine ⟨?_, fun alone => m.cpu.alone alone, m.cpu.settled⟩
  show { u with pc := npc u } = _
  rw [show npc u = s.pc + 4 by rw [npc, m.pc]]
  exact congrArg (fun x : State => { x with pc := s.pc + 4 }) frame

theorem broadcast_side (op : BusOp) (s : State) : MemSide s (broadcast op s) := by
  unfold broadcast
  split
  · exact logBus_side op s
  · exact .refl s

/-- What a cache instruction leaves to the L2 and the bus. -/
theorem below_side {s : State} {r : Bool × State} (h : MemSide s r.2) (op : BusOp) :
    MemSide s (if r.1 then r.2 else broadcast op r.2) := by
  split
  · exact h
  · exact h.trans (broadcast_side op _)

theorem cleanBlock_side (pa : Word) (w : BitVec 4) (s : State) : MemSide s (cleanBlock pa w s) := by
  have room := pushRoom_side pa s
  unfold cleanBlock
  dsimp only
  generalize pushRoom pa s = r at room ⊢
  refine room.trans ?_
  split
  · split
    · exact ((pushByInstr_side _ _ _ _).trans (dWayPut_side _ _ _ _)).trans (dTouch_side _ _ _)
    · exact (dTouch_side _ _ _).trans (below_side (l2Clean_side pa _) _)
  · exact below_side (l2Clean_side pa _) _

theorem flushBlock_side (pa : Word) (w : BitVec 4) (s : State) : MemSide s (flushBlock pa w s) := by
  have room := pushRoom_side pa s
  unfold flushBlock
  dsimp only
  generalize pushRoom pa s = r at room ⊢
  refine room.trans ?_
  split
  · split
    · exact ((pushByInstr_side _ _ _ _).trans (dWayPut_side _ _ _ _)).trans (dTouch_side _ _ _)
    · exact ((dWayPut_side _ _ _ _).trans (dTouch_side _ _ _)).trans (below_side (l2Flush_side pa _) _)
  · exact below_side (l2Flush_side pa _) _

theorem killBlock_side (pa : Word) (w : BitVec 4) (s : State) : MemSide s (killBlock pa w s) := by
  unfold killBlock
  dsimp only
  refine MemSide.trans ?_ (broadcast_side _ _)
  split
  · exact ((dWayPut_side _ _ _ _).trans (dTouch_side _ _ _)).trans (l2Kill_side _ _)
  · exact l2Kill_side _ _

section
variable {s : State} (settled : Settled s) {k : Access} {ea : Word} {f : Word → BitVec 4 → State → State}
include settled

/-- A cache instruction on an address that translates. -/
theorem blockOp_translated {pa : Word} {wimg : BitVec 4} {u : State} (translated : translate k ea s = .ok pa wimg u) :
    blockOp k ea f s = .next (advance (f pa wimg (gap u))) := by
  simp only [blockOp, blockAccess, settled_newUse settled, translated, finish]
  rfl

theorem blockOp_done (side : ∀ pa w u, MemSide u (f pa w u)) {pa : Word} {wimg : BitVec 4} {u : State}
    (translated : translate k ea s = .ok pa wimg u) : Goes (blockOp k ea f s) (SameCpu { s with pc := s.pc + 4 }) := by
  have left := translate_side k ea s
  rw [translated] at left
  exact ⟨_, blockOp_translated settled translated, done_of_side ((MemSide.trans left (gap_side u)).trans (side pa wimg _))⟩

theorem blockOp_direct {u : State} (translated : translate k ea s = .viol .directStore u) : blockOp k ea f s = nextInstr u := by
  simp only [blockOp, blockAccess, settled_newUse settled, translated, finish]

theorem blockOp_dsi {v : Violation} {u : State} (hv : v ≠ .directStore) (translated : translate k ea s = .viol v u) :
    Goes (blockOp k ea f s) fun t => Entered (withDar u ea (dsisrOf v k)) t 0x300 s.pc 0 := by
  have left := translate_side k ea s
  rw [translated] at left
  have run : blockOp k ea f s = .next (takeDsi ea (dsisrOf v k) u) := by
    cases v
    case directStore => exact absurd rfl hv
    all_goals simp only [blockOp, blockAccess, settled_newUse settled, translated, finish]
  exact goes_next (MemSide.pc left ▸ takeDsi_entered ea (dsisrOf v k) u) run

end

theorem translate_real {s : State} {k : Access} (hk : k ≠ .fetch) (real : msrDr s = false) (ea : Word) :
    translate k ea s = .ok ea realWimg s := by
  have mode : realMode s k = true := by cases k <;> simp_all [realMode]
  simp [translate, translateWith, mode]

theorem batHits_data (s : State) (ea : Word) : batHits s .store ea = batHits s .load ea := rfl

/-- A direct-store segment that no block maps. -/
theorem translate_direct {s : State} {k : Access} (hk : k ≠ .fetch) (settled : Settled s) (virtual : msrDr s = true)
    (ready : tlbsReady s = true) {ea : Word} (hits : batHits s .load ea = []) (direct : bitAt (srGet s (field ea 0 4)) 0 = true)
    (search : Bool) : translateWith search k ea s = .viol .directStore s := by
  have mode : realMode s k = false := by cases k <;> simp_all [realMode]
  have none : batHits s k ea = [] := by
    cases k
    · exact absurd rfl hk
    · exact hits
    · exact hits
  have segment' : segment s ea = srGet s (field ea 0 4) := settled_control settled _
  simp only [translateWith, mode, ready, none, pageTranslate, segment', direct, Bool.not_true, Bool.false_eq_true, if_false, if_true]

/-! ## The touches (R880, R881) -/

theorem touch_real {s : State} (settled : Settled s) (real : msrDr s = false) (ea : Word) : touch ea s = .next (advance s) := by
  have translated : translateWith false .load ea s = .ok ea realWimg s := by simp [translateWith, realMode, real]
  have guarded : attrG realWimg = true := by decide
  simp only [touch, settled_newUse settled, translated, guarded, Bool.or_true, Bool.true_or, if_true]
  rfl

theorem touch_direct {s : State} (settled : Settled s) {ea : Word} {v : Violation} {u : State}
    (translated : translateWith false .load ea s = .viol v u) : touch ea s = .next (advance s) := by
  simp only [touch, settled_newUse settled, translated]
  rfl

/-- A page translation without a search stops for nothing. -/
theorem pageTranslate_goes (k : Access) (ea : Word) (s : State) (f : Fault) : pageTranslate false k ea s ≠ .fault f := by
  unfold pageTranslate
  dsimp only
  split
  · exact nofun
  · split
    · exact nofun
    · split
      · split
        · split
          · exact nofun
          · rw [Bool.and_false, if_neg Bool.false_ne_true]
            exact nofun
        · exact nofun
      · rw [if_neg Bool.false_ne_true]
        exact nofun

/-- Without a search and with one block at most, a translation stops for nothing but the TLBs. -/
theorem translateWith_goes {s : State} (ready : tlbsReady s = true) {k : Access} {ea : Word} (few : (batHits s k ea).length ≤ 1) (f : Fault) :
    translateWith false k ea s ≠ .fault f := by
  unfold translateWith
  rw [ready]
  split
  · exact nofun
  · split
    · next none => exact absurd none (by decide)
    · split
      · exact pageTranslate_goes k ea s f
      · unfold batTranslate
        dsimp only
        split
        · exact nofun
        · split <;> exact nofun
      · next none one =>
        cases hits : batHits s k ea with
        | nil => exact absurd hits none
        | cons b l =>
          cases l with
          | nil => exact absurd hits (one b)
          | cons b' l => simp [hits] at few

theorem touch_done {s : State} (settled : Settled s) (ready : tlbsReady s = true) {ea : Word}
    (few : (batHits s .load ea).length ≤ 1) : Goes (touch ea s) (SameCpu { s with pc := s.pc + 4 }) := by
  have left := translateWith_side false .load ea s
  have goes := translateWith_goes (k := .load) ready few
  have stays : Goes (nextInstr s) (SameCpu { s with pc := s.pc + 4 }) := ⟨_, rfl, done_of_side (.refl s)⟩
  unfold touch
  rw [settled_newUse settled]
  dsimp only
  split
  · next f e => exact absurd e (goes f)
  · exact stays
  · next pa w u e =>
    rw [e] at left
    split
    · exact stays
    · split
      · exact ⟨_, rfl, done_of_side (MemSide.trans left (dTouch_side _ _ _))⟩
      · exact ⟨_, rfl, done_of_side (MemSide.trans left (dFill_side _ _))⟩

/-! ## The block in the data cache (R883 to R885) -/

section
variable {s : State} (h : Alone s) (l2 : l2On s = false) (tea : s.tea = []) (devices : s.devices = []) (canonical : MemoryCanonical s)

section
include l2

theorem pushRoom_off (pa : Word) : pushRoom pa s = (none, s) := by
  have room : l2Room pa s = (none, s) := by rw [l2Room, l2]; rfl
  unfold pushRoom
  rw [room, l2]
  cases dBlock s pa with
  | none => rfl
  | some b =>
    dsimp only
    split
    · split
      · rfl
      · cases l2Find s pa <;> rfl
    · rfl

theorem l2Clean_off (pa : Word) : l2Clean pa s = (false, s) := by
  unfold l2Clean
  rw [l2]
  split
  · rfl
  · rfl

theorem l2Flush_off (pa : Word) : l2Flush pa s = (false, s) := by
  unfold l2Flush
  rw [l2]
  split
  · rfl
  · rfl

theorem l2Kill_off (pa : Word) : l2Kill pa s = s := by
  unfold l2Kill
  rw [l2]
  split <;> rfl

end

theorem broadcast_caches (op : BusOp) (s : State) : (broadcast op s).caches = s.caches ∧ (broadcast op s).mem = s.mem := by
  unfold broadcast
  split <;> exact ⟨rfl, rfl⟩

/-- What is written to memory depends on nothing else. -/
theorem pokeBytes_mem {s t : State} (h : t.mem = s.mem) (bs : List Byte) (a : Word) : (pokeBytes bs a t).mem = (pokeBytes bs a s).mem := by
  induction bs generalizing a s t with
  | nil => exact h
  | cons b bs ih => exact ih (by simp only [poke, h]) (a + 1)

/-- A block that this processor pushes goes to memory, and no block of the cache moves. -/
theorem ownPush_memory (l2 : l2On s = false) (tea : s.tea = []) (devices : s.devices = []) (b : BitVec 27) (d : BlockData) :
    (ownPush b d s).mem = (flushed (blockBase b) true d s).mem ∧ ∀ n, dset (ownPush b d s) n = dset s n := by
  rw [ownPush, push_memory (s := beginPush b s) l2 tea devices]
  refine ⟨pokeBytes_mem (s := s) (t := beginPush b s) rfl _ _, fun n => ?_⟩
  rw [pokeBytes_eq]
  rfl

theorem acted_put {u : State} {pa : Word} {w : Fin 8} {o : Option DBlock} (same : ∀ n, dset u n = dset s n) :
    Acted s (dTouch (dWayPut u pa w o) pa w) pa w o :=
  ⟨fun n v => by rw [dset_dTouch_ways, dset_dWayPut, same n]⟩

section
variable {pa : Word} {w : Fin 8} {b : DBlock} (found : dFind s pa = some w) (way : (dset s (setOf pa)).ways[w] = some b)
include l2 tea devices found way

theorem cleanBlock_hit (wimg : BitVec 4) : Acted s (cleanBlock pa wimg s) pa w (some { b with modified := false }) ∧
    (cleanBlock pa wimg s).mem = (flushed (blockBase (blockOf pa)) b.modified b.data s).mem := by
  have block : dBlock s pa = some b := (dBlock_of_found found).trans way
  obtain ⟨pushed, same⟩ := ownPush_memory l2 tea devices (blockOf pa) b.data
  cases modified : b.modified with
  | true =>
    have run : cleanBlock pa wimg s =
        dTouch (dWayPut (ownPush (blockOf pa) b.data s) pa w (some { b with modified := false })) pa w := by
      simp only [cleanBlock, pushRoom_off l2, found, block, modified, if_true, pushByInstr]
    rw [run]
    exact ⟨acted_put same, pushed⟩
  | false =>
    have run : cleanBlock pa wimg s = broadcast (.clean (blockBase (blockOf pa))) (dTouch s pa w) := by
      simp only [cleanBlock, pushRoom_off l2, found, block, modified, Bool.false_eq_true, if_false, l2Clean_off (s := dTouch s pa w) l2]
    obtain ⟨caches, mem⟩ := broadcast_caches (.clean (blockBase (blockOf pa))) (dTouch s pa w)
    rw [run]
    refine ⟨⟨fun n v => ?_⟩, mem⟩
    have clean : some { b with modified := false } = (dset s (setOf pa)).ways[w] := by rw [way, ← modified]
    rw [dset, caches]
    show (dset (dTouch s pa w) n).ways[v] = _
    rw [dset_dTouch_ways, clean]
    split
    · next own => rw [own.1, own.2]
    · rfl

theorem flushBlock_hit (wimg : BitVec 4) : Acted s (flushBlock pa wimg s) pa w none ∧
    (flushBlock pa wimg s).mem = (flushed (blockBase (blockOf pa)) b.modified b.data s).mem := by
  have block : dBlock s pa = some b := (dBlock_of_found found).trans way
  obtain ⟨pushed, same⟩ := ownPush_memory l2 tea devices (blockOf pa) b.data
  cases modified : b.modified with
  | true =>
    have run : flushBlock pa wimg s = dTouch (dWayPut (ownPush (blockOf pa) b.data s) pa w none) pa w := by
      simp only [flushBlock, pushRoom_off l2, found, block, modified, if_true, pushByInstr]
    rw [run]
    exact ⟨acted_put same, pushed⟩
  | false =>
    have run : flushBlock pa wimg s = broadcast (.flush (blockBase (blockOf pa))) (dTouch (dWayPut s pa w none) pa w) := by
      simp only [flushBlock, pushRoom_off l2, found, block, modified, Bool.false_eq_true, if_false,
        l2Flush_off (s := dTouch (dWayPut s pa w none) pa w) l2]
    obtain ⟨caches, mem⟩ := broadcast_caches (.flush (blockBase (blockOf pa))) (dTouch (dWayPut s pa w none) pa w)
    rw [run]
    refine ⟨⟨fun n v => ?_⟩, mem⟩
    rw [dset, caches]
    exact (acted_put (u := s) fun _ => rfl).ways n v

omit tea devices way in
theorem killBlock_hit (wimg : BitVec 4) : Acted s (killBlock pa wimg s) pa w none ∧ (killBlock pa wimg s).mem = s.mem := by
  have run : killBlock pa wimg s = broadcast (.kill (blockBase (blockOf pa))) (dTouch (dWayPut s pa w none) pa w) := by
    simp only [killBlock, found, l2Kill_off (s := dTouch (dWayPut s pa w none) pa w) l2]
  obtain ⟨caches, mem⟩ := broadcast_caches (.kill (blockBase (blockOf pa))) (dTouch (dWayPut s pa w none) pa w)
  rw [run]
  refine ⟨⟨fun n v => ?_⟩, mem⟩
  rw [dset, caches]
  exact (acted_put (u := s) fun _ => rfl).ways n v

end

/-- Where the cache does not hold the block nothing changes but on the bus. -/
theorem blocks_missing (l2 : l2On s = false) {pa : Word} (missing : dFind s pa = none) (wimg : BitVec 4) :
    ∀ f ∈ [cleanBlock, flushBlock, killBlock], (f pa wimg s).caches = s.caches ∧ (f pa wimg s).mem = s.mem := by
  have clean : cleanBlock pa wimg s = broadcast (.clean (blockBase (blockOf pa))) s := by
    simp only [cleanBlock, pushRoom_off l2, missing, l2Clean_off l2, Bool.false_eq_true, if_false]
  have flush : flushBlock pa wimg s = broadcast (.flush (blockBase (blockOf pa))) s := by
    simp only [flushBlock, pushRoom_off l2, missing, l2Flush_off l2, Bool.false_eq_true, if_false]
  have kill : killBlock pa wimg s = broadcast (.kill (blockBase (blockOf pa))) s := by
    simp only [killBlock, missing, l2Kill_off l2]
  intro f hf
  simp only [List.mem_cons, List.not_mem_nil, or_false] at hf
  rcases hf with rfl | rfl | rfl
  · rw [clean]
    exact broadcast_caches _ s
  · rw [flush]
    exact broadcast_caches _ s
  · rw [kill]
    exact broadcast_caches _ s

end

/-- What O41 says of a block that was in the cache: its way, and its bytes in memory. -/
theorem acted_written {s t : State} {pa : Word} {w : Fin 8} {o : Option DBlock} {b : DBlock} (canonical : MemoryCanonical s)
    (acted : Acted s t pa w o) (mem : t.mem = (flushed (blockBase (blockOf pa)) b.modified b.data s).mem) :
    (∀ (n : Fin 128) (v : Fin 8), (dset (advance t) n).ways[v] = if n = setOf pa ∧ v = w then o else (dset s n).ways[v]) ∧
      (if b.modified then ∀ k : Fin 32, peek (advance t) (blockBase (blockOf pa) + BitVec.ofNat 32 k) = b.data[k]
       else (advance t).mem = s.mem) ∧ MemoryOutside s (advance t) (blockBase (blockOf pa)) 32 := by
  have written := (flushed_written canonical (blockBase (blockOf pa)) b.modified b.data).congr (s' := s) (t' := advance t) rfl mem
  exact ⟨acted.ways, written.bytes, written.outside⟩

theorem acted_kept {s t : State} {pa : Word} {w : Fin 8} {o : Option DBlock} (acted : Acted s t pa w o) (mem : t.mem = s.mem) :
    (∀ (n : Fin 128) (v : Fin 8), (dset (advance t) n).ways[v] = if n = setOf pa ∧ v = w then o else (dset s n).ways[v]) ∧
      (advance t).mem = s.mem := ⟨acted.ways, mem⟩

theorem kept_advance {s t : State} (h : t.caches = s.caches ∧ t.mem = s.mem) :
    (advance t).caches = s.caches ∧ (advance t).mem = s.mem := h

/-! ## `icbi` (R886) -/

theorem iset_isetPut (s : State) (i n : Fin 128) (x : ISet) : iset (isetPut s i x) n = if n = i then x else iset s n := by
  simp only [iset, isetPut, Fin.getElem_fin, Vector.getElem_set, Fin.ext_iff, eq_comm]

theorem iset_invalidateISet (ea : Word) (s : State) (n : Fin 128) : iset (invalidateISet ea s) n =
    if n = setOf ea then { iset s (setOf ea) with ways := Vector.replicate 8 none } else iset s n :=
  iset_isetPut s (setOf ea) n _

theorem mem_iBlocks (x : ISet) (set : BitVec 7) (y : Leaving) : y ∈ iBlocks x set ↔
    ∃ (w : Fin 8) (b : IBlock), x.ways[w] = some b ∧ y = ⟨b.tag ++ set, b.data⟩ := by
  simp only [iBlocks, List.mem_filterMap, Vector.mem_toList_iff, Option.map_eq_some_iff]
  constructor
  · rintro ⟨o, member, b, rfl, rfl⟩
    obtain ⟨i, hi, own⟩ := Vector.getElem_of_mem member
    exact ⟨⟨i, hi⟩, b, own, rfl⟩
  · rintro ⟨w, b, own, rfl⟩
    exact ⟨some b, own ▸ Vector.getElem_mem w.isLt, b, rfl, rfl⟩

theorem icbi_goes (s : State) (rA rB : Reg) : Goes (exec (.icbi rA rB) s) fun t =>
    (∀ n : Fin 128, ∀ w : Fin 8, (iset t n).ways[w] = if n = setOf (eaX s rA rB) then none else (iset s n).ways[w]) ∧
    (∀ n : Fin 128, (iset t n).plru = (iset s n).plru) ∧
    (∀ x, x ∈ t.caches.leaving ↔ x ∈ s.caches.leaving ∨
      ∃ (w : Fin 8) (b : IBlock), (iset s (setOf (eaX s rA rB))).ways[w] = some b ∧
        x = ⟨b.tag ++ (field (eaX s rA rB) 20 7 : BitVec 7), b.data⟩) ∧
    t = { s with caches := { s.caches with icache := t.caches.icache, leaving := t.caches.leaving }, pc := s.pc + 4 } := by
  refine ⟨_, rfl, fun n w => ?_, fun n => ?_, fun x => ?_, rfl⟩
  · show (iset (invalidateISet (eaX s rA rB) s) n).ways[w] = _
    rw [iset_invalidateISet]
    split
    · exact Vector.getElem_replicate w.isLt
    · rfl
  · show (iset (invalidateISet (eaX s rA rB) s) n).plru = _
    rw [iset_invalidateISet]
    split
    · next own => rw [own]
    · rfl
  · show x ∈ iBlocks (iset s (setOf (eaX s rA rB))) (field (eaX s rA rB) 20 7) ++ s.caches.leaving ↔ _
    rw [List.mem_append, mem_iBlocks, or_comm]

/-! ## The instructions -/

theorem dcbi_supervisor {s : State} (h : msrPr s = false) (rA rB : Reg) :
    exec (.dcbi rA rB) s = blockOp .store (eaX s rA rB) killBlock s := privileged_supervisor h _

section
variable {s : State} {ea : Word} (settled : Settled s) {k : Access} (hk : k = .load ∨ k = .store)
include settled hk

/-- A cache instruction with translation off acts on the block of its address. -/
theorem blockOp_real (alone : Alone s) (real : msrDr s = false) (f : Word → BitVec 4 → State → State) :
    blockOp k ea f s = .next (advance (f ea realWimg s)) := by
  have notFetch : k ≠ .fetch := by rcases hk with rfl | rfl <;> decide
  rw [blockOp_translated settled (translate_real notFetch real ea), gap_alone alone]

omit hk in
/-- What a translation makes of a cache instruction. -/
theorem blockOp_cases {f : Word → BitVec 4 → State → State} (side : ∀ pa w u, MemSide u (f pa w u)) {store : Word}
    (bit : (if k = .store then maskBit 6 else 0) = store) :
    (∀ pa wimg u, translate k ea s = .ok pa wimg u → Goes (blockOp k ea f s) (SameCpu { s with pc := s.pc + 4 })) ∧
    (∀ u, (translate k ea s = .viol .pageFault u →
        Goes (blockOp k ea f s) fun t => Entered (withDar u ea (0x40000000 ||| store)) t 0x300 s.pc 0) ∧
      (translate k ea s = .viol .protection u →
        Goes (blockOp k ea f s) fun t => Entered (withDar u ea (0x08000000 ||| store)) t 0x300 s.pc 0)) := by
  subst bit
  exact ⟨fun pa wimg u translated => blockOp_done settled side translated, fun u =>
    ⟨fun translated => blockOp_dsi settled (by decide) translated, fun translated => blockOp_dsi settled (by decide) translated⟩⟩

end

/-- Settles O41: the translation of the address, then what each instruction does to the block. -/
theorem cacheInstructionResults : Obligations.CacheInstructionResults := by
  unfold Obligations.CacheInstructionResults
  intro s rA rB ea done
  have notFetch : Access.load ≠ .fetch ∧ Access.store ≠ .fetch := by decide
  refine ⟨fun settled real => ⟨?_, ?_, fun supervisor => ?_⟩, fun settled ready few => ?_, fun settled virtual ready hits direct =>
    ⟨?_, fun supervisor => ?_⟩, fun settled virtual => ⟨?_, ?_, fun supervisor => ?_⟩, fun settled alone real l2 tea devices canonical =>
    ⟨fun w b found way => ⟨?_, ?_, fun supervisor => ?_⟩, fun missing => ⟨?_, fun supervisor => ?_⟩⟩, icbi_goes s rA rB⟩
  · intro i hi
    simp only [List.mem_cons, List.not_mem_nil, or_false] at hi
    rcases hi with rfl | rfl
    · exact touch_real settled real ea
    · exact touch_real settled real ea
  · intro i hi
    simp only [List.mem_cons, List.not_mem_nil, or_false] at hi
    rcases hi with rfl | rfl
    · exact blockOp_done settled cleanBlock_side (translate_real notFetch.1 real ea)
    · exact blockOp_done settled flushBlock_side (translate_real notFetch.1 real ea)
  · rw [dcbi_supervisor supervisor]
    exact blockOp_done settled killBlock_side (translate_real notFetch.2 real ea)
  · intro i hi
    simp only [List.mem_cons, List.not_mem_nil, or_false] at hi
    rcases hi with rfl | rfl
    · exact touch_done settled ready few
    · exact touch_done settled ready few
  · have load (search : Bool) := translate_direct notFetch.1 settled virtual ready hits direct search
    intro i hi
    simp only [List.mem_cons, List.not_mem_nil, or_false] at hi
    rcases hi with rfl | rfl | rfl | rfl
    · exact touch_direct settled (load false)
    · exact touch_direct settled (load false)
    · exact blockOp_direct settled (load true)
    · exact blockOp_direct settled (load true)
  · rw [dcbi_supervisor supervisor]
    exact blockOp_direct settled (translate_direct notFetch.2 settled virtual ready hits direct true)
  · exact blockOp_cases settled cleanBlock_side rfl
  · exact blockOp_cases settled flushBlock_side rfl
  · dsimp only
    rw [dcbi_supervisor supervisor]
    exact blockOp_cases settled killBlock_side rfl
  · obtain ⟨acted, mem⟩ := cleanBlock_hit l2 tea devices found way realWimg
    exact ⟨_, blockOp_real settled (.inl rfl) alone real cleanBlock, acted_written canonical acted mem⟩
  · obtain ⟨acted, mem⟩ := flushBlock_hit l2 tea devices found way realWimg
    exact ⟨_, blockOp_real settled (.inl rfl) alone real flushBlock, acted_written canonical acted mem⟩
  · obtain ⟨acted, mem⟩ := killBlock_hit l2 found realWimg
    rw [dcbi_supervisor supervisor]
    exact ⟨_, blockOp_real settled (.inr rfl) alone real killBlock, acted_kept acted mem⟩
  · have kept := blocks_missing l2 missing realWimg
    intro i hi
    simp only [List.mem_cons, List.not_mem_nil, or_false] at hi
    rcases hi with rfl | rfl
    · exact ⟨_, blockOp_real settled (.inl rfl) alone real cleanBlock, kept_advance (kept cleanBlock (by simp))⟩
    · exact ⟨_, blockOp_real settled (.inl rfl) alone real flushBlock, kept_advance (kept flushBlock (by simp))⟩
  · rw [dcbi_supervisor supervisor]
    exact ⟨_, blockOp_real settled (.inr rfl) alone real killBlock,
      kept_advance (blocks_missing l2 missing realWimg killBlock (by simp))⟩

end Sys2Proof.Machine
end

section
/-! PROOF. O42: `dcbz`. -/

namespace Sys2Proof.Machine

/-- The block of `pa` is 32 zero bytes, modified, in way `w`; every other way is as it was; memory is as it was, but for the
bytes of a modified block that was there. -/
structure Zeroed (s t : State) (pa : Word) (w : Fin 8) : Prop where
  found : dFind t pa = some w
  block : (dset t (setOf pa)).ways[w] = some ⟨tagOf pa, true, Vector.replicate 32 0⟩
  others : ∀ (n : Fin 128) (v : Fin 8), ¬ (n = setOf pa ∧ v = w) → (dset t n).ways[v] = (dset s n).ways[v]
  own : ∀ w', dFind s pa = some w' → w' = w
  kept : (dFind s pa ≠ none ∨ ∀ old, (dset s (setOf pa)).ways[w] = some old → old.modified = false) → t.mem = s.mem
  written : l2On s = false → s.tea = [] → s.devices = [] → MemoryCanonical s → dFind s pa = none →
    ∀ old, (dset s (setOf pa)).ways[w] = some old → old.modified = true →
      BlockWritten s t (blockBase (dBlockAddr pa old)) true old.data

/-! ## A castout, with the L2 on or off -/

theorem raise_dset (s : State) (n : Fin 128) : dset (raiseTea s) n = dset s n := rfl

theorem deviceWrites_dset (vs : List Byte) (pa : Word) (s : State) (n : Fin 128) : dset (deviceWrites vs pa s) n = dset s n := by
  induction vs generalizing pa s with
  | nil => rfl
  | cons v vs ih => exact ih _ _

theorem busWriteBlock_dset (b : BitVec 27) (d : BlockData) (s : State) (n : Fin 128) : dset (busWriteBlock b d s) n = dset s n := by
  unfold busWriteBlock
  split
  · rfl
  · split
    · exact deviceWrites_dset _ _ s n
    · rw [pokeBytes_eq]
      rfl

theorem castout_dset (room : Option (Fin 2)) (b : BitVec 27) (d : BlockData) (s : State) (n : Fin 128) :
    dset (castout room b d s) n = dset s n := by
  unfold castout
  dsimp only
  split
  · split
    · exact busWriteBlock_dset b d _ n
    · rfl
  · exact busWriteBlock_dset b d _ n

theorem l2CastoutSector_dset {s : State} (alone : Alone s) (pa : Word) (w k : Fin 2) (n : Fin 128) :
    dset (l2CastoutSector pa w k s) n = dset s n := by
  unfold l2CastoutSector
  dsimp only
  rw [gap_alone alone]
  split
  · rfl
  · split
    · exact busWriteBlock_dset _ _ _ n
    · rfl

theorem l2LinePut_dset (s : State) (pa : Word) (w : Fin 2) (l : L2Line) (n : Fin 128) : dset (l2LinePut s pa w l) n = dset s n := rfl

theorem l2Evict_dset {s : State} (alone : Alone s) (pa : Word) (w : Fin 2) (n : Fin 128) : dset (l2Evict pa w s) n = dset s n := by
  unfold l2Evict
  dsimp only
  split
  · rfl
  · have first := l2CastoutSector_dset alone pa w 0 n
    have second := l2CastoutSector_dset ((l2CastoutSector_side pa w 0 s).alone alone) pa w 1 n
    exact (l2LinePut_dset _ pa w _ n).trans (second.trans first)

theorem l2Room_dset {s : State} (alone : Alone s) (pa : Word) (n : Fin 128) : dset (l2Room pa s).2 n = dset s n := by
  unfold l2Room
  split
  · split
    · rfl
    · split
      · exact l2Evict_dset alone pa _ n
      · rfl
  · rfl

/-- A castout empties its way, or leaves it as it was; every other way is as it was. -/
theorem castoutWay_ways {s : State} (alone : Alone s) (pa : Word) (w : Fin 8) :
    ∃ o, (o = none ∨ o = (dset s (setOf pa)).ways[w]) ∧ ∀ (n : Fin 128) (v : Fin 8),
      (dset (castoutWay pa w s) n).ways[v] = if n = setOf pa ∧ v = w then o else (dset s n).ways[v] := by
  by_cases dirty : ∃ b, (dset s (setOf pa)).ways[w] = some b ∧ b.modified = true
  · obtain ⟨b, way, modified⟩ := dirty
    have room := l2Room_dset alone (blockBase (dBlockAddr pa b))
    have run : castoutWay pa w s = dWayPut (castout (l2Room (blockBase (dBlockAddr pa b)) s).1 (dBlockAddr pa b) b.data
        (l2Room (blockBase (dBlockAddr pa b)) s).2) pa w none := by
      unfold castoutWay
      simp only [way, modified, if_true, gap_alone alone, room]
    refine ⟨none, .inl rfl, fun n v => ?_⟩
    rw [run, dset_dWayPut, castout_dset, room]
  · refine ⟨_, .inr rfl, fun n v => ?_⟩
    rw [castoutWay_clean fun b way => Bool.eq_false_iff.mpr fun modified => dirty ⟨b, way, modified⟩]
    split
    · next own => rw [own.1, own.2]
    · rfl

/-- A block that no way holds is not there after a castout of its set. -/
theorem castoutWay_missing {s : State} (alone : Alone s) {pa : Word} (w : Fin 8) (missing : dFind s pa = none) :
    dFind (castoutWay pa w s) pa = none := by
  obtain ⟨o, from', ways⟩ := castoutWay_ways alone pa w
  rw [← missing]
  refine dFind_congr ⟨rfl, rfl⟩ fun v => ?_
  rw [ways]
  split
  · next own =>
    rw [own.2]
    rcases from' with rfl | rfl
    · exact (dFind_none missing w).symm
    · rfl
  · rfl

/-! ## The zeros (R882) -/

/-- The block of zeros. -/
def zeroes (pa : Word) : DBlock := ⟨tagOf pa, true, Vector.replicate 32 0⟩

/-- `dcbz` of a block that the cache holds. -/
theorem zeroBlock_hit {s : State} {pa : Word} {w : Fin 8} (found : dFind s pa = some w) (wimg : BitVec 4) :
    Zeroed s (zeroBlock pa wimg s) pa w := by
  have run : zeroBlock pa wimg s = dTouch (dWayPut s pa w (some (zeroes pa))) pa w := by
    simp only [zeroBlock, found]
    rfl
  rw [run]
  obtain ⟨found', block⟩ := dFind_put (b := zeroes pa) (.inl found) rfl ⟨rfl, rfl⟩
  refine ⟨dBlock_dTouch.1.trans found', ?_, fun n v other => ?_, fun w' h => (Option.some.inj (found.symm.trans h)).symm, fun _ => rfl, ?_⟩
  · rw [dset_dTouch_ways, dset_dWayPut, if_pos ⟨rfl, rfl⟩]
    rfl
  · rw [dset_dTouch_ways, dset_dWayPut, if_neg other]
  · intro _ _ _ _ missing
    rw [found] at missing
    exact absurd missing (by simp)

/-- `dcbz` of a block that the cache does not hold: the castout, the kill on the bus, the zeros. -/
theorem zeroBlock_miss {s : State} (alone : Alone s) {pa : Word} (missing : dFind s pa = none) (wimg : BitVec 4) :
    ∃ u, u.caches = (castoutWay pa (victim s pa) s).caches ∧ u.mem = (castoutWay pa (victim s pa) s).mem ∧
      zeroBlock pa wimg s = dTouch (dWayPut u pa (victim s pa) (some (zeroes pa))) pa (victim s pa) := by
  have still := (castoutWay_side pa (victim s pa) s).alone alone
  have run : zeroBlock pa wimg s = dTouch (dWayPut
      (if attrM wimg && !l2Ts (castoutWay pa (victim s pa) s) then
        logBus (.kill (pa &&& 0xFFFFFFF8)) (castoutWay pa (victim s pa) s) else castoutWay pa (victim s pa) s)
      pa (victim s pa) (some (zeroes pa))) pa (victim s pa) := by
    have gap' : gap (castoutWay pa (victim s pa) s) = castoutWay pa (victim s pa) s := gap_alone still
    rw [victim] at gap' ⊢
    simp only [zeroBlock, missing, gap']
    rfl
  refine ⟨_, ?_, ?_, run⟩
  · split <;> rfl
  · split <;> rfl

/-- Memory after the castout. -/
theorem castoutWay_mem {s : State} (alone : Alone s) (l2 : l2On s = false) (tea : s.tea = []) (devices : s.devices = []) {pa : Word}
    {w : Fin 8} {b : DBlock} (way : (dset s (setOf pa)).ways[w] = some b) (modified : b.modified = true) :
    (castoutWay pa w s).mem = (flushed (blockBase (dBlockAddr pa b)) true b.data s).mem := by
  rw [castoutWay_modified alone l2 tea devices way modified]
  exact pokeBytes_mem (s := s) (t := beginPush (dBlockAddr pa b) s) rfl _ _

theorem zeroBlock_zeroed {s : State} (alone : Alone s) (pa : Word) (wimg : BitVec 4) : ∃ w, Zeroed s (zeroBlock pa wimg s) pa w := by
  cases found : dFind s pa with
  | some w => exact ⟨w, zeroBlock_hit found wimg⟩
  | none =>
    obtain ⟨u, caches, mem, run⟩ := zeroBlock_miss alone found wimg
    obtain ⟨o, _, ways⟩ := castoutWay_ways alone pa (victim s pa)
    have sets (n : Fin 128) : dset u n = dset (castoutWay pa (victim s pa) s) n := by rw [dset, caches]; rfl
    have missing : dFind u pa = none := by
      rw [← castoutWay_missing alone (victim s pa) found]
      exact dFind_congr ⟨rfl, rfl⟩ fun v => by rw [sets]
    obtain ⟨found', block⟩ := dFind_put (w := victim s pa) (b := zeroes pa) (.inr missing) rfl ⟨rfl, rfl⟩
    refine ⟨victim s pa, ?_⟩
    rw [run]
    refine ⟨dBlock_dTouch.1.trans found', ?_, fun n v other => ?_, fun w' h => ?_, fun clean => ?_, ?_⟩
    · rw [dset_dTouch_ways, dset_dWayPut, if_pos ⟨rfl, rfl⟩]
      rfl
    · rw [dset_dTouch_ways, dset_dWayPut, if_neg other, sets, ways, if_neg other]
    · rw [found] at h
      exact absurd h (by simp)
    · rcases clean with here | clean
      · exact absurd found here
      · show u.mem = s.mem
        rw [mem, castoutWay_clean clean]
    · intro l2 tea devices canonical _ old way modified
      have written := castoutWay_mem alone l2 tea devices way modified
      exact (flushed_written canonical _ true old.data).congr rfl (mem.trans written)

/-! ## The alignment exception's DSISR (R944) -/

/-- The DSISR of an X form is told by its word. -/
theorem alignmentDsisr_encX (a b c : BitVec 5) (xo : BitVec 10) (rc : Bool) :
    alignmentDsisr (encX 31 a b c xo rc) = dsisrX xo a b := by
  have low : (field (encX 31 a b c xo rc) 29 2 : BitVec 2) = field xo 8 2 := by
    rw [← encX_extended 31 a b c xo rc, field_field _ (by decide) (by decide), encX_extended]
  have mid : (field (encX 31 a b c xo rc) 25 1 : BitVec 1) = field xo 4 1 := by
    rw [← encX_extended 31 a b c xo rc, field_field _ (by decide) (by decide), encX_extended]
  have high : (field (encX 31 a b c xo rc) 21 4 : BitVec 4) = field xo 0 4 := by
    rw [← encX_extended 31 a b c xo rc, field_field _ (by decide) (by decide), encX_extended]
  have registers : (field (encX 31 a b c xo rc) 6 10 : BitVec 10) = a ++ b := by
    have parts := field_append_field (encX 31 a b c xo rc) (f := 6) (l := 5) (m := 5) (by decide)
    rw [encX_first] at parts
    exact parts.symm.trans (congrArg (a ++ ·) (encX_second 31 a b c xo rc))
  rw [alignmentDsisr, encX_opcode, if_pos rfl, low, mid, high, registers, dsisrX, ← BitVec.toNat_inj]
  simp only [append_toNat]
  omega

/-- The five bits of rD do not count for `dcbz` (U14). -/
theorem dcbz_dsisr (r rA rB : Reg) : dsisrX 1014 r rA &&& 0xFFFFFC1F = alignmentDsisr (encode (.dcbz rA rB)) := by
  have word : encode (.dcbz rA rB) = encX 31 0 rA rB 1014 false := rfl
  have mask : (0xFFFFFC1F : Word) = BitVec.allOnes 22 ++ (0 : BitVec 5) ++ BitVec.allOnes 5 := by decide
  rw [word, alignmentDsisr_encX, mask, dsisrX, dsisrX, BitVec.and_append, BitVec.and_append, BitVec.and_allOnes,
    BitVec.and_allOnes]
  exact congrArg (_ ++ · ++ rA) BitVec.and_zero

/-! ## The instruction -/

section
variable {s u : State} {ea : Word} {rA : Reg}

/-- `dcbz` past its first translation. -/
theorem dcbz_loads (settled : Settled s) {rB : Reg} {pa : Word} {wimg : BitVec 4} (translated : translate .load (eaX s rA rB) s = .ok pa wimg u) :
    exec (.dcbz rA rB) s = dcbzStore (eaX s rA rB) rA u := by
  show execDcbz rA rB s = _
  simp only [execDcbz, settled_newUse settled, translated]

/-- `dcbz` in a direct-store segment. -/
theorem dcbz_direct (settled : Settled s) {rB : Reg} (translated : translate .load (eaX s rA rB) s = .viol .directStore u) :
    exec (.dcbz rA rB) s = .next (advance u) := by
  show execDcbz rA rB s = _
  simp only [execDcbz, settled_newUse settled, translated]
  rfl

/-- A DSI of the first translation. -/
theorem dcbz_dsi (settled : Settled s) {rB : Reg} {v : Violation} (hv : v ≠ .directStore)
    (translated : translate .load (eaX s rA rB) s = .viol v u) :
    Goes (exec (.dcbz rA rB) s) fun t => Entered (withDar u (eaX s rA rB) (dsisrOf v .store)) t 0x300 s.pc 0 := by
  have left := translate_side .load (eaX s rA rB) s
  rw [translated] at left
  have run : exec (.dcbz rA rB) s = .next (takeDsi (eaX s rA rB) (dsisrOf v .store) u) := by
    show execDcbz rA rB s = _
    cases v
    case directStore => exact absurd rfl hv
    all_goals simp only [execDcbz, settled_newUse settled, translated]
  exact goes_next (MemSide.pc left ▸ takeDsi_entered (eaX s rA rB) _ u) run

/-- A DSI of the store's protection. -/
theorem dcbzStore_dsi {v : Violation} {t : State} (translated : translateWith false .store ea u = .viol v t) :
    Goes (dcbzStore ea rA u) fun x => Entered (withDar t ea (dsisrOf v .store)) x 0x300 u.pc 0 := by
  have left := translateWith_side false .store ea u
  rw [translated] at left
  have run : dcbzStore ea rA u = .next (takeDsi ea (dsisrOf v .store) t) := by simp only [dcbzStore, translated]
  exact goes_next (MemSide.pc left ▸ takeDsi_entered ea _ t) run

theorem dcbzAligns_iff (wimg : BitVec 4) (s : State) :
    dcbzAligns wimg s = true ↔ hidDce s = false ∨ bitAt wimg 0 = true ∨ bitAt wimg 1 = true := by
  simp [dcbzAligns, attrW, attrI, or_assoc]

/-- The alignment exception. -/
theorem dcbzStore_aligns {rB : Reg} {pa : Word} {wimg : BitVec 4} {t : State} (translated : translateWith false .store ea u = .ok pa wimg t)
    (quiet : Quiet t) (aligns : dcbzAligns wimg t = true) : Goes (dcbzStore ea rA u) fun x =>
      ∃ d n, d &&& 0xFFFFFC1F = alignmentDsisr (encode (.dcbz rA rB)) ∧ Entered { withDar t ea d with freeCtr := n } x 0x600 u.pc 0 := by
  have left := translateWith_side false .store ea u
  rw [translated] at left
  have run : dcbzStore ea rA u = .next (dcbzAlignment ea rA t) := by
    simp only [dcbzStore, translated, quiet_dabr quiet, aligns, Bool.false_eq_true, if_false, if_true]
  refine goes_next ?_ run
  refine ⟨dsisrX 1014 (fresh 5 t).1 rA, t.freeCtr + 1, dcbz_dsisr _ rA rB, ?_⟩
  exact MemSide.pc left ▸ takeAlignment_entered ea (dsisrX 1014 (fresh 5 t).1 rA) (fresh 5 t).2

/-- The zeros. -/
theorem dcbzStore_zeroes {pa pa' : Word} {wimg wimg' : BitVec 4} {t x : State} (translated : translateWith false .store ea u = .ok pa wimg t)
    (quiet : Quiet t) (aligns : dcbzAligns wimg t = false) (again : translate .store ea t = .ok pa' wimg' x) :
    dcbzStore ea rA u = .next (advance (zeroBlock pa' wimg' x)) := by
  simp only [dcbzStore, translated, quiet_dabr quiet, aligns, again, Bool.false_eq_true, if_false]
  rfl

end

/-- What O42 says of the zeros. -/
def ZeroedAt (s : State) (rA rB : Reg) (pa : Word) : Prop := Goes (exec (.dcbz rA rB) s) fun t => SameCpu { s with pc := s.pc + 4 } t ∧
  ∃ w b, dFind t pa = some w ∧ (dset t (setOf pa)).ways[w] = some b ∧ b.modified = true ∧
    b.data = Vector.replicate 32 0 ∧
    (∀ (n : Fin 128) (v : Fin 8), ¬ (n = setOf pa ∧ v = w) → (dset t n).ways[v] = (dset s n).ways[v]) ∧
    (∀ w', dFind s pa = some w' → w' = w) ∧
    (l2On s = false → s.tea = [] → s.devices = [] → MemoryCanonical s →
      match (dset s (setOf pa)).ways[w] with
      | some old =>
        if dFind s pa = none ∧ old.modified = true then
          (∀ k : Fin 32, peek t (blockBase (dBlockAddr pa old) + BitVec.ofNat 32 k) = old.data[k]) ∧
          MemoryOutside s t (blockBase (dBlockAddr pa old)) 32
        else t.mem = s.mem
      | none => t.mem = s.mem)

theorem zeroBlock_side (pa : Word) (w : BitVec 4) (s : State) : MemSide s (zeroBlock pa w s) := by
  unfold zeroBlock
  dsimp only
  split
  · exact (dWayPut_side _ _ _ _).trans (dTouch_side _ _ _)
  · have cast (v : Fin 8) := (castoutWay_side pa v s).trans (gap_side (castoutWay pa v s))
    refine MemSide.trans ?_ ((dWayPut_side _ _ _ _).trans (dTouch_side _ _ _))
    split
    · exact (cast _).trans (logBus_side _ _)
    · exact cast _

/-- Where the translations leave the state as it is. -/
theorem zeroedAt_of_translated {s : State} {rA rB : Reg} {pa pa' pa'' : Word} {wimg wimg' wimg'' : BitVec 4} (quiet : Quiet s)
    (load : translate .load (eaX s rA rB) s = .ok pa' wimg' s) (store : translateWith false .store (eaX s rA rB) s = .ok pa'' wimg'' s)
    (again : translate .store (eaX s rA rB) s = .ok pa wimg s) (aligns : dcbzAligns wimg'' s = false) : ZeroedAt s rA rB pa := by
  obtain ⟨w, zeroed⟩ := zeroBlock_zeroed quiet.alone pa wimg
  have run := (dcbz_loads quiet.settled load).trans (dcbzStore_zeroes (rA := rA) store quiet aligns again)
  refine ⟨_, run, done_of_side (zeroBlock_side pa wimg s), w, zeroes pa, zeroed.found, zeroed.block, rfl, rfl, zeroed.others, zeroed.own, ?_⟩
  intro l2 tea devices canonical
  generalize zeroBlock pa wimg s = t at zeroed
  split
  · next old way =>
    split
    · next cast =>
      have written := zeroed.written l2 tea devices canonical cast.1 old way cast.2
      have bytes := written.bytes
      rw [if_pos rfl] at bytes
      exact ⟨bytes, written.outside⟩
    · next kept =>
      refine zeroed.kept ?_
      by_cases missing : dFind s pa = none
      · refine .inr fun old' way' => ?_
        obtain rfl : old = old' := Option.some.inj (way.symm.trans way')
        exact Bool.eq_false_iff.mpr fun modified => kept ⟨missing, modified⟩
      · exact .inl missing
  · next way =>
    exact zeroed.kept (.inr fun old way' => absurd (way.symm.trans way') (by simp))

/-- Translation through one block, in its outcomes for data. -/
theorem translateWith_block {s : State} {k : Access} {ea : Word} {b : BatPair} (data : k = .load ∨ k = .store) (virtual : msrDr s = true)
    (ready : tlbsReady s = true) (hits : batHits s .load ea = [b]) (search : Bool) : translateWith search k ea s =
      if batAllows (field b.lower 30 2) k = true then .ok (batAddress b ea) (field b.lower 25 4) s else .viol .protection s := by
  have mode : realMode s k = false := by rcases data with rfl | rfl <;> simp [realMode, virtual]
  have own : batHits s k ea = [b] := by rcases data with rfl | rfl <;> exact hits
  have notFetch : k ≠ .fetch := by rcases data with rfl | rfl <;> decide
  simp only [translateWith, mode, ready, own, Bool.not_true, Bool.false_eq_true, if_false]
  by_cases allows : batAllows (field b.lower 30 2) k = true <;> simp [batTranslate, allows, notFetch]

/-- Settles O42: the translations in their order, the alignment exception, then the zeros. -/
theorem blockZeroResults : Obligations.BlockZeroResults := by
  unfold Obligations.BlockZeroResults
  intro s rA rB settled alone dabr ea zeroed aligns dsi direct uncached
  have quiet : Quiet s := ⟨settled, alone, dabr⟩
  have notFetch : Access.load ≠ .fetch ∧ Access.store ≠ .fetch := by decide
  have notLoad : Access.load ≠ .store := by decide
  refine ⟨fun ⟨virtual, ready, hits, segment'⟩ => ?_, fun real => ?_, fun virtual ready => ⟨fun b hits => ?_, fun u fault => ?_,
    fun u protect => ?_, fun pa wimg u translated => ⟨fun v protect => ?_, fun pa' wimg' v store cached => ?_⟩⟩⟩
  · exact dcbz_direct settled (translate_direct notFetch.1 settled virtual ready hits segment' true)
  · have load := translate_real notFetch.1 real ea
    have store := translate_real notFetch.2 real ea
    have early : translateWith false .store ea s = .ok ea realWimg s := by simp [translateWith, realMode, real]
    split
    · next on =>
      refine zeroedAt_of_translated quiet load early store (Bool.eq_false_iff.mpr fun aligned => ?_)
      rcases (dcbzAligns_iff _ s).mp aligned with off | bit | bit
      · exact Bool.false_ne_true (off.symm.trans on)
      · exact absurd bit (by decide)
      · exact absurd bit (by decide)
    · next off =>
      show Goes (exec (.dcbz rA rB) s) _
      rw [dcbz_loads settled load]
      exact dcbzStore_aligns early quiet ((dcbzAligns_iff _ s).mpr (.inl (Bool.eq_false_iff.mpr off)))
  · have load (search : Bool) := translateWith_block (k := .load) (.inl rfl) virtual ready hits search
    have store (search : Bool) := translateWith_block (k := .store) (.inr rfl) virtual ready hits search
    have loads := batAllows_iff (field b.lower 30 2) .load
    have stores := batAllows_iff (field b.lower 30 2) .store
    rw [if_neg notLoad] at loads
    rw [if_pos rfl] at stores
    split
    · next forbidden =>
      have denied := (store false).trans (if_neg fun h => forbidden (stores.mp h))
      by_cases readable : batAllows (field b.lower 30 2) .load = true
      · show Goes (exec (.dcbz rA rB) s) _
        rw [dcbz_loads settled ((load true).trans (if_pos readable))]
        exact dcbzStore_dsi denied
      · exact dcbz_dsi settled (by decide) ((load true).trans (if_neg readable))
    · next allowed =>
      have writable : (field b.lower 30 2 : BitVec 2) = 2 := not_not.mp allowed
      have readable : batAllows (field b.lower 30 2) .load = true := loads.mpr (by rw [writable]; decide)
      have reads := (load true).trans (if_pos readable)
      have early := (store false).trans (if_pos (stores.mpr writable))
      have again := (store true).trans (if_pos (stores.mpr writable))
      split
      · next cached =>
        show Goes (exec (.dcbz rA rB) s) _
        rw [dcbz_loads settled reads]
        exact dcbzStore_aligns early quiet ((dcbzAligns_iff _ s).mpr cached)
      · next plain =>
        exact zeroedAt_of_translated quiet reads early again
          (Bool.eq_false_iff.mpr fun aligned => plain ((dcbzAligns_iff _ s).mp aligned))
  · exact dcbz_dsi settled (by decide) fault
  · exact dcbz_dsi settled (by decide) protect
  · have left := translate_side .load ea s
    rw [translated] at left
    show Goes (exec (.dcbz rA rB) s) _
    rw [dcbz_loads settled translated, ← MemSide.pc left]
    exact dcbzStore_dsi protect
  · have left := translate_side .load ea s
    rw [translated] at left
    have again := translateWith_side false .store ea u
    rw [store] at again
    have side := MemSide.trans left again
    show Goes (exec (.dcbz rA rB) s) _
    rw [dcbz_loads settled translated, ← MemSide.pc left]
    refine dcbzStore_aligns store (side.quiet quiet) ((dcbzAligns_iff _ v).mpr ?_)
    rwa [side.hidDce settled]

end Sys2Proof.Machine
end

section
/-! PROOF. O47: the alignment exception, the DSI and the ISI. -/

namespace Sys2Proof.Machine

/-! ## The alignment exception (R944) -/

/-- An instruction takes the alignment exception at an address. -/
structure Misaligned (s : State) (i : Instr) (ea : Word) : Prop where
  run : exec i s = .next (takeAlignment ea (alignmentDsisr (encode i)) s)

theorem Misaligned.goes {s : State} {i : Instr} {ea : Word} (h : Misaligned s i ea) :
    Goes (exec i s) fun t => Entered (withDar s ea (alignmentDsisr (encode i))) t 0x600 s.pc 0 :=
  goes_next (takeAlignment_entered ea _ s) h.run

/-- The DSISR of a D form is told by its word. -/
theorem alignmentDsisr_encD {op : BitVec 6} (h : op ≠ 31) (a b : BitVec 5) (d : BitVec 16) :
    alignmentDsisr (encD op a b d) = dsisrD op a b := by
  have low : (field (encD op a b d) 5 1 : BitVec 1) = field op 5 1 := by
    conv_rhs => rw [← encD_opcode op a b d, field_field _ (by decide) (by decide)]
  have high : (field (encD op a b d) 1 4 : BitVec 4) = field op 1 4 := by
    conv_rhs => rw [← encD_opcode op a b d, field_field _ (by decide) (by decide)]
  have registers : (field (encD op a b d) 6 10 : BitVec 10) = a ++ b := by
    have parts := field_append_field (encD op a b d) (f := 6) (l := 5) (m := 5) (by decide)
    rw [encD_first] at parts
    exact parts.symm.trans (congrArg (a ++ ·) (encD_second op a b d))
  rw [alignmentDsisr, encD_opcode, if_neg h, low, high, registers, dsisrD, ← BitVec.toNat_inj]
  simp only [append_toNat]
  omega

section
variable {s : State} {i : Instr} {ea : Word} {a b c : BitVec 5}

theorem misaligned_encD {op : BitVec 6} {d : BitVec 16} (h : op ≠ 31) (word : encode i = encD op a b d)
    (run : exec i s = .next (takeAlignment ea (dsisrD op a b) s)) : Misaligned s i ea :=
  ⟨by rw [run, word, alignmentDsisr_encD h]⟩

theorem misaligned_encX {xo : BitVec 10} {rc : Bool} (word : encode i = encX 31 a b c xo rc)
    (run : exec i s = .next (takeAlignment ea (dsisrX xo a b) s)) : Misaligned s i ea :=
  ⟨by rw [run, word, alignmentDsisr_encX]⟩

end

theorem needsWordAligned_odd {ea : Word} (odd : ea.toNat % 4 ≠ 0) (dsisr : Word) (s : State) (k : Out) :
    needsWordAligned ea dsisr s k = .next (takeAlignment ea dsisr s) := by
  rw [needsWordAligned, if_neg ((wordAligned_iff ea).not.mpr odd)]

theorem multipleCheck_odd {s : State} {ea : Word} (bad : ea.toNat % 4 ≠ 0 ∨ msrLe s = true) (dsisr : Word) (k : Out) :
    multipleCheck ea dsisr s k = .next (takeAlignment ea dsisr s) := by
  rw [multipleCheck]
  split
  · rfl
  · next big => exact needsWordAligned_odd (bad.resolve_right big) dsisr s k

theorem stringMisaligned_of_not_fits {ea : Word} {n : Nat} (h : ¬ StringFits ea n) : stringMisaligned ea n = true := by
  unfold StringFits at h
  have fields {f : Nat} {x y : Word} (e : (field x 0 f : BitVec f) = field y 0 f) : x.toNat / 2 ^ (32 - f) % 2 ^ f = y.toNat / 2 ^ (32 - f) % 2 ^ f := by
    have numbers := congrArg BitVec.toNat e
    rwa [field, field, BitVec.extractLsb'_toNat, BitVec.extractLsb'_toNat, Nat.shiftRight_eq_div_pow, Nat.shiftRight_eq_div_pow] at numbers
  have hea := ea.isLt
  have hlast := (lastEa ea n).isLt
  push Not at h
  obtain ⟨some_bytes, outside⟩ := h
  have nonempty : (n != 0) = true := by simpa using some_bytes
  change ¬ (if ea.toNat % 4 = 0 then ea.toNat / 2 ^ 28 = (lastEa ea n).toNat / 2 ^ 28
    else ea.toNat / 2 ^ 12 = (lastEa ea n).toNat / 2 ^ 12) at outside
  rw [stringMisaligned, nonempty, Bool.true_and]
  by_cases aligned : ea.toNat % 4 = 0
  · rw [if_pos aligned] at outside
    rw [if_pos ((wordAligned_iff ea).mpr aligned), bne_iff_ne]
    intro same
    have := fields same
    omega
  · rw [if_neg aligned] at outside
    rw [if_neg ((wordAligned_iff ea).not.mpr aligned), bne_iff_ne]
    intro same
    have := fields (f := 20) same
    omega

theorem stringCheck_failed {s : State} {ea : Word} {n : Nat} (bad : msrLe s = true ∨ ¬ StringFits ea n) (dsisr : Word) (k : Out) :
    stringCheck ea dsisr n s k = .next (takeAlignment ea dsisr s) := by
  rw [stringCheck]
  split
  · rfl
  · next big => rw [if_pos (stringMisaligned_of_not_fits (bad.resolve_left big))]

section
variable {s : State} {ea : Word} (fp : msrFp s = true) (odd : ea.toNat % 4 ≠ 0)
include fp odd

theorem fpLoadOp_odd (dsisr : Word) (n : Nat) (rc : Bool) (f : List Byte → State → State) :
    fpLoadOp ea dsisr n rc f s = .next (takeAlignment ea dsisr s) := by
  rw [fpLoadOp, needsFp_of_fp fp, needsWordAligned_odd odd]

theorem fpStoreOp_odd (m : String) (dsisr : Word) (frS : Reg) (conv : DWord → List Byte) (rc : Bool) (f : State → State) :
    fpStoreOp m ea dsisr frS conv rc f s = .next (takeAlignment ea dsisr s) := by
  rw [fpStoreOp, needsFp_of_fp fp, needsWordAligned_odd odd]

theorem fpLoadUpdate_odd {rA : Reg} (h : rA ≠ 0) (m : String) (dsisr : Word) (n : Nat) (rc : Bool) (f : List Byte → State → State) :
    needsFp s (updateForm m rA (fpLoadOp ea dsisr n rc f s)) = .next (takeAlignment ea dsisr s) := by
  rw [needsFp_of_fp fp, updateForm, if_neg h, fpLoadOp_odd fp odd]

theorem fpStoreUpdate_odd {rA : Reg} (h : rA ≠ 0) (m : String) (dsisr : Word) (frS : Reg) (conv : DWord → List Byte) (rc : Bool)
    (f : State → State) : needsFp s (updateForm m rA (fpStoreOp m ea dsisr frS conv rc f s)) = .next (takeAlignment ea dsisr s) := by
  rw [needsFp_of_fp fp, updateForm, if_neg h, fpStoreOp_odd fp odd]

end

section
variable {s : State} {r rA rB : Reg} {d : BitVec 16} {rc : Bool} (fp : msrFp s = true)

section
include fp

theorem floatD_misaligned (odd : (eaD s rA d).toNat % 4 ≠ 0) :
    ∀ i ∈ [Instr.lfs r d rA, .lfd r d rA, .stfs r d rA, .stfd r d rA], Misaligned s i (eaD s rA d) := by
  intro i hi
  simp only [List.mem_cons, List.not_mem_nil, or_false] at hi
  rcases hi with rfl | rfl | rfl | rfl
  · exact misaligned_encD (op := 48) (by decide) rfl (fpLoadOp_odd fp odd _ _ _ _)
  · exact misaligned_encD (op := 50) (by decide) rfl (fpLoadOp_odd fp odd _ _ _ _)
  · exact misaligned_encD (op := 52) (by decide) rfl (fpStoreOp_odd fp odd _ _ _ _ _ _)
  · exact misaligned_encD (op := 54) (by decide) rfl (fpStoreOp_odd fp odd _ _ _ _ _ _)

theorem floatX_misaligned (odd : (eaX s rA rB).toNat % 4 ≠ 0) :
    ∀ i ∈ [Instr.lfsx r rA rB rc, .lfdx r rA rB rc, .stfsx r rA rB rc, .stfdx r rA rB rc, .stfiwx r rA rB rc],
      Misaligned s i (eaX s rA rB) := by
  intro i hi
  simp only [List.mem_cons, List.not_mem_nil, or_false] at hi
  rcases hi with rfl | rfl | rfl | rfl | rfl
  · exact misaligned_encX rfl (fpLoadOp_odd fp odd _ _ _ _)
  · exact misaligned_encX rfl (fpLoadOp_odd fp odd _ _ _ _)
  · exact misaligned_encX rfl (fpStoreOp_odd fp odd _ _ _ _ _ _)
  · exact misaligned_encX rfl (fpStoreOp_odd fp odd _ _ _ _ _ _)
  · exact misaligned_encX rfl (fpStoreOp_odd fp odd _ _ _ _ _ _)

theorem floatDU_misaligned (base : rA ≠ 0) (odd : (eaDU s rA d).toNat % 4 ≠ 0) :
    ∀ i ∈ [Instr.lfsu r d rA, .lfdu r d rA, .stfsu r d rA, .stfdu r d rA], Misaligned s i (eaDU s rA d) := by
  intro i hi
  simp only [List.mem_cons, List.not_mem_nil, or_false] at hi
  rcases hi with rfl | rfl | rfl | rfl
  · exact misaligned_encD (op := 49) (by decide) rfl (fpLoadUpdate_odd fp odd base _ _ _ _ _)
  · exact misaligned_encD (op := 51) (by decide) rfl (fpLoadUpdate_odd fp odd base _ _ _ _ _)
  · exact misaligned_encD (op := 53) (by decide) rfl (fpStoreUpdate_odd fp odd base _ _ _ _ _ _)
  · exact misaligned_encD (op := 55) (by decide) rfl (fpStoreUpdate_odd fp odd base _ _ _ _ _ _)

theorem floatXU_misaligned (base : rA ≠ 0) (odd : (eaXU s rA rB).toNat % 4 ≠ 0) :
    ∀ i ∈ [Instr.lfsux r rA rB rc, .lfdux r rA rB rc, .stfsux r rA rB rc, .stfdux r rA rB rc],
      Misaligned s i (eaXU s rA rB) := by
  intro i hi
  simp only [List.mem_cons, List.not_mem_nil, or_false] at hi
  rcases hi with rfl | rfl | rfl | rfl
  · exact misaligned_encX rfl (fpLoadUpdate_odd fp odd base _ _ _ _ _)
  · exact misaligned_encX rfl (fpLoadUpdate_odd fp odd base _ _ _ _ _)
  · exact misaligned_encX rfl (fpStoreUpdate_odd fp odd base _ _ _ _ _ _)
  · exact misaligned_encX rfl (fpStoreUpdate_odd fp odd base _ _ _ _ _ _)

end

theorem externalControl_odd {k : Access} {xo : BitVec 10} {ea : Word} {f : Word → State → State} (settled : Settled s)
    (odd : ea.toNat % 4 ≠ 0) (enabled : bitAt s.sup.ear 0 = true) :
    externalControl k xo r rA ea f s = .next (takeAlignment ea (dsisrX xo r rA) s) := by
  have ear : earEnabled s = true := by
    rw [earEnabled, settled_control settled]
    exact enabled
  simp only [externalControl, settled_newUse settled, ear, Bool.not_true, Bool.false_eq_true, if_false, needsWordAligned_odd odd]

theorem lmwInvalid_of_form (h : lmwForm r rA = true) : lmwInvalid r rA = false := by
  unfold lmwForm at h
  unfold lmwInvalid
  by_cases base : rA = 0
  · rw [if_pos base] at h ⊢
    exact beq_eq_false_iff_ne.mpr (bne_iff_ne.mp h)
  · rw [if_neg base] at h ⊢
    exact decide_eq_false (BitVec.not_le.mpr (BitVec.lt_def.mpr (of_decide_eq_true h)))

theorem lmw_misaligned (bad : (eaD s rA d).toNat % 4 ≠ 0 ∨ msrLe s = true) (form : wellFormed (.lmw r d rA) = true) :
    Misaligned s (.lmw r d rA) (eaD s rA d) := by
  refine misaligned_encD (op := 46) (by decide) rfl ?_
  show execLmw r d rA s = _
  rw [execLmw, lmwInvalid_of_form form, if_neg Bool.false_ne_true, multipleCheck_odd bad]

theorem stmw_misaligned (bad : (eaD s rA d).toNat % 4 ≠ 0 ∨ msrLe s = true) : Misaligned s (.stmw r d rA) (eaD s rA d) :=
  misaligned_encD (op := 47) (by decide) rfl (multipleCheck_odd bad _ _)

theorem lwarx_misaligned (odd : (eaX s rA rB).toNat % 4 ≠ 0) : Misaligned s (.lwarx r rA rB rc) (eaX s rA rB) :=
  misaligned_encX rfl (needsWordAligned_odd odd _ _ _)

theorem stwcxRc_misaligned (odd : (eaX s rA rB).toNat % 4 ≠ 0) : Misaligned s (.stwcxRc r rA rB rc) (eaX s rA rB) :=
  misaligned_encX rfl (needsWordAligned_odd odd _ _ _)

theorem stswi_misaligned (bad : msrLe s = true ∨ ¬ StringFits (base s rA) (nbCount rB)) :
    Misaligned s (.stswi r rA rB rc) (base s rA) :=
  misaligned_encX rfl (stringCheck_failed bad _ _)

theorem stswx_misaligned (bad : msrLe s = true ∨ ¬ StringFits (eaX s rA rB) (xerCount s)) :
    Misaligned s (.stswx r rA rB rc) (eaX s rA rB) :=
  misaligned_encX rfl (stringCheck_failed bad _ _)

/-- The base of a well-formed `lswi` is no register of the string. -/
theorem lswi_base_outside (form : lswiForm r rA rB = true) : ¬ (rA ≠ 0 ∧ rA ∈ stringRegs r (nbCount rB)) := by
  rintro ⟨base, inside⟩
  rw [mem_stringRegs] at inside
  rw [lswiForm, beq_eq_false_iff_ne.mpr base, Bool.false_or, decide_eq_true_iff] at form
  exact absurd inside (Nat.not_lt.mpr form)

theorem lswi_misaligned (bad : msrLe s = true ∨ ¬ StringFits (base s rA) (nbCount rB)) (form : wellFormed (.lswi r rA rB rc) = true) :
    Misaligned s (.lswi r rA rB rc) (base s rA) := by
  refine misaligned_encX rfl ?_
  show execLswi r rA rB rc s = _
  rw [execLswi, if_neg (lswi_base_outside form), stringLoadOp, stringCheck_failed bad]

theorem lswx_misaligned (bad : msrLe s = true ∨ ¬ StringFits (eaX s rA rB) (xerCount s))
    (valid : lswxInvalid r rA rB (xerCount s) = false) : Misaligned s (.lswx r rA rB rc) (eaX s rA rB) := by
  refine misaligned_encX rfl ?_
  show execLswx r rA rB rc s = _
  rw [execLswx]
  dsimp only
  rw [valid, if_neg Bool.false_ne_true]
  split
  · next empty =>
    rw [empty] at bad
    exact stringCheck_failed bad _ _
  · exact stringCheck_failed bad _ _

end

/-! ## The DSI (R940, R941) -/

/-- An operand within the page of its first byte. -/
theorem pageOf_lastEa {ea : Word} {n : Nat} (some_byte : 0 < n) (within : ea.toNat % 4096 + n ≤ 4096) : pageOf (lastEa ea n) = pageOf ea := by
  have hea := ea.isLt
  apply BitVec.eq_of_toNat_eq
  rw [pageOf_toNat, pageOf_toNat, lastEa, BitVec.toNat_add, BitVec.toNat_ofNat]
  omega

section
variable {s u : State} {k : Access} {ea : Word} {n : Nat} {part : Bool} {data : List Byte}

theorem dataAccess_violation {v : Violation} (within : pageOf (lastEa ea n) = pageOf ea) (translated : translate k ea s = .viol v u) :
    dataAccess k ea n part data s = .exc (takeDsi ea (dsisrOf v k) u) := by
  simp only [dataAccess, translateSpan, translated, firstFails, within, if_true, andThen]

theorem dataAccess_breakpoint {pa : Word} {wimg : BitVec 4} (within : pageOf (lastEa ea n) = pageOf ea)
    (translated : translate k ea s = .ok pa wimg u) (settled : Settled u) (hit : dabrMatches k ea u = true) :
    dataAccess k ea n part data s = .exc (takeDabr k ea u) := by
  simp only [dataAccess, translateSpan_page within translated, andThen, settled_furtherUse settled, dabrCheck, hit, if_true]

theorem dabrMatches_of (side : MemSide s u) (settled : Settled s) (block : (field ea 0 29 : BitVec 29) = field s.sup.dabr 0 29)
    (mode : bitAt s.sup.dabr 29 = msrDr s) (enabled : (if k = .store then bitAt s.sup.dabr 30 else bitAt s.sup.dabr 31) = true) :
    dabrMatches k ea u = true := by
  have value : control u .dabr = s.sup.dabr := (side.control settled .dabr).trans (settled_control settled .dabr)
  have dr : msrDr u = msrDr s := by rw [msrDr, side.control settled]; rfl
  simp [dabrMatches, value, dr, block, mode, enabled]

/-- A failure of the first page with none in the second page that comes before it, and one that does (R923). -/
theorem dataAccess_second {v w : Violation} {t : State} (crosses : pageOf (lastEa ea n) ≠ pageOf ea) (translated : translate k ea s = .viol v u)
    (second : translateWith false k (pageOf (lastEa ea n) ++ (0 : BitVec 12)) u = .viol w t)
    (first : dsiRank w (byBat k (pageOf (lastEa ea n) ++ (0 : BitVec 12)) u) < dsiRank v (byBat k ea u)) :
    dataAccess k ea n part data s = .exc (takeDsi (pageOf (lastEa ea n) ++ (0 : BitVec 12)) (dsisrOf w k) u) := by
  simp only [dataAccess, translateSpan, translated, firstFails, if_neg crosses, second, if_pos first, andThen]

theorem loadOp_exc {t : State} {rc : Bool} {f : List Byte → State → State} (settled : Settled s)
    (access : dataAccess .load ea n true [] s = .exc t) : loadOp ea n rc f s = .next t := by
  simp only [loadOp, dataLoad, settled_newUse settled, access, andThen, finish]

theorem storeOp_exc {t : State} {bs : List Byte} {rc : Bool} {f : State → State} (settled : Settled s)
    (access : ∀ data, dataAccess .store ea bs.length true data s = .exc t) : storeOp ea bs rc f s = .next t := by
  have length : (inOrder s bs).length = bs.length := by
    unfold inOrder
    split
    · exact List.length_reverse
    · rfl
  simp only [storeOp, dataStore, settled_newUse settled, length, access, andThen, finish]

end

/-- The instructions of a list, of operands of `n` bytes, where these lie in one page. -/
def inPage (ea : Word) (n : Nat) (l : List Instr) : List Instr := if ea.toNat % 4096 + n ≤ 4096 then l else []

theorem mem_inPage {ea : Word} {n : Nat} {l : List Instr} {i : Instr} : i ∈ inPage ea n l ↔ ea.toNat % 4096 + n ≤ 4096 ∧ i ∈ l := by
  unfold inPage
  split <;> simp_all

/-- The loads with displacement whose operand lies in one page. -/
def loadsInPage (ea : Word) (r rA : Reg) (d : BitVec 16) : List Instr :=
  .lbz r d rA :: inPage ea 2 [.lhz r d rA, .lha r d rA] ++ inPage ea 4 [.lwz r d rA]

/-- The stores with displacement whose operand lies in one page. -/
def storesInPage (ea : Word) (r rA : Reg) (d : BitVec 16) : List Instr :=
  .stb r d rA :: inPage ea 2 [.sth r d rA] ++ inPage ea 4 [.stw r d rA]

section
variable {s u : State} {r rA : Reg} {d : BitVec 16} {x : Word} (settled : Settled s) (pc : u.pc = s.pc)
include settled pc

/-- Each of these loads takes the DSI that every access to its page takes. -/
theorem loads_dsi (access : ∀ n, pageOf (lastEa (eaD s rA d) n) = pageOf (eaD s rA d) →
      dataAccess .load (eaD s rA d) n true [] s = .exc (takeDsi (eaD s rA d) x u)) :
    ∀ i ∈ loadsInPage (eaD s rA d) r rA d, Goes (exec i s) fun t => Entered (withDar u (eaD s rA d) x) t 0x300 s.pc 0 := by
  have fails {i : Instr} {n : Nat} {f : List Byte → State → State} (some_byte : 0 < n) (within : (eaD s rA d).toNat % 4096 + n ≤ 4096)
      (run : exec i s = loadOp (eaD s rA d) n false f s) :
      Goes (exec i s) fun t => Entered (withDar u (eaD s rA d) x) t 0x300 s.pc 0 :=
    goes_next (pc ▸ takeDsi_entered (eaD s rA d) x u) (run.trans (loadOp_exc settled (access n (pageOf_lastEa some_byte within))))
  intro i hi
  simp only [loadsInPage, List.cons_append, List.mem_cons, List.mem_append, mem_inPage, List.not_mem_nil, or_false] at hi
  rcases hi with rfl | ⟨within, rfl | rfl⟩ | ⟨within, rfl⟩
  · exact fails (n := 1) (by decide) (by omega) rfl
  · exact fails (by decide) within rfl
  · exact fails (by decide) within rfl
  · exact fails (by decide) within rfl

/-- Each of these stores takes the DSI that every access to its page takes. -/
theorem stores_dsi (access : ∀ n data, pageOf (lastEa (eaD s rA d) n) = pageOf (eaD s rA d) →
      dataAccess .store (eaD s rA d) n true data s = .exc (takeDsi (eaD s rA d) x u)) :
    ∀ i ∈ storesInPage (eaD s rA d) r rA d, Goes (exec i s) fun t => Entered (withDar u (eaD s rA d) x) t 0x300 s.pc 0 := by
  have fails {i : Instr} {bs : List Byte} (some_byte : 0 < bs.length) (within : (eaD s rA d).toNat % 4096 + bs.length ≤ 4096)
      (run : exec i s = storeOp (eaD s rA d) bs false id s) :
      Goes (exec i s) fun t => Entered (withDar u (eaD s rA d) x) t 0x300 s.pc 0 :=
    goes_next (pc ▸ takeDsi_entered (eaD s rA d) x u)
      (run.trans (storeOp_exc settled fun data => access _ data (pageOf_lastEa some_byte within)))
  intro i hi
  simp only [storesInPage, List.cons_append, List.mem_cons, List.mem_append, mem_inPage, List.not_mem_nil, or_false] at hi
  rcases hi with rfl | ⟨within, rfl⟩ | ⟨within, rfl⟩
  · exact fails (bs := byteOf (gprGet s r)) Nat.one_pos (Nat.succ_le_of_lt (Nat.mod_lt _ (by decide))) rfl
  · exact fails (bs := halfOf (gprGet s r)) Nat.two_pos within rfl
  · exact fails (bs := wordBytes (gprGet s r)) (by decide : 0 < 4) within rfl

end

section
variable {s u : State} {r rA : Reg} {d : BitVec 16} (settled : Settled s)
include settled

omit settled in
theorem translate_pc {k : Access} {ea : Word} {v : Violation} (translated : translate k ea s = .viol v u) : u.pc = s.pc := by
  have left := translate_side k ea s
  rw [translated] at left
  exact MemSide.pc left

theorem loads_violation {v : Violation} (translated : translate .load (eaD s rA d) s = .viol v u) :
    ∀ i ∈ loadsInPage (eaD s rA d) r rA d, Goes (exec i s) fun t => Entered (withDar u (eaD s rA d) (dsisrOf v .load)) t 0x300 s.pc 0 :=
  loads_dsi settled (translate_pc translated) fun _ within => dataAccess_violation within translated

theorem stores_violation {v : Violation} (translated : translate .store (eaD s rA d) s = .viol v u) :
    ∀ i ∈ storesInPage (eaD s rA d) r rA d, Goes (exec i s) fun t => Entered (withDar u (eaD s rA d) (dsisrOf v .store)) t 0x300 s.pc 0 :=
  stores_dsi settled (translate_pc translated) fun _ _ within => dataAccess_violation within translated

end

/-- The first byte of the page of the last byte of a word. -/
theorem secondPage_start (ea : Word) : pageOf (lastEa ea 4) ++ (0 : BitVec 12) = BitVec.ofNat 32 ((ea + 3).toNat / 4096 * 4096) := by
  have last : lastEa ea 4 = ea + 3 := rfl
  have zero : (0 : BitVec 12).toNat = 0 := rfl
  have small := (ea + 3).isLt
  apply BitVec.eq_of_toNat_eq
  rw [last, append_toNat, pageOf_toNat, BitVec.toNat_ofNat, zero]
  omega

/-! ## The ISI (R942) -/

/-- A fetch that has no translation. -/
theorem step_isi {s u : State} {v : Violation} (settled : Settled s) (env : movesNow s = []) (async : boundary false (envAdvance s) = none)
    (untraced : s.traceDue = false) (ahead : s.fetch.queue = []) (big : msrLe s = false) (stays : implicitBranch (envAdvance s) = false)
    (translated : translate .fetch s.pc (envAdvance s) = .viol v u) : step s = .next (endStep (envAdvance s) (takeIsi v u)) := by
  have settled' : Settled (envAdvance s) := ⟨settled.stale, settled.inForce⟩
  have big' : msrLe (envAdvance s) = false := big
  have untraced' : (envAdvance s).traceDue = false := untraced
  have pc : (envAdvance s).pc = s.pc := rfl
  have nothing_queued : queued (envAdvance s) = none := by
    show List.lookup s.pc s.fetch.queue = none
    rw [ahead]
    rfl
  have fails : fetchInstr (envAdvance s) = .exc (takeIsi v u) := by
    simp only [fetchInstr, fetchEa, big', pc, Bool.false_eq_true, if_false, translated]
  refine (stepWith_undisturbed exec env async).trans ?_
  simp only [instrStep, untraced', nextWord, settled_newUse settled', stays, nothing_queued, fails, Bool.false_eq_true, if_false, endOut]

/-- Settles O47: the checks on the address, the DSI of an operand's page, and the ISI of the fetch. -/
theorem storageExceptions : Obligations.StorageExceptions := by
  unfold Obligations.StorageExceptions
  refine ⟨fun s r rA rB d rc => ?_, fun s r rA d settled => ?_, ?_⟩
  · refine ⟨fun fp => ⟨fun odd i hi => ?_, fun odd i hi => ?_, fun base odd i hi => ?_, fun base odd i hi => ?_⟩,
      fun bad => ⟨?_, fun form => ?_⟩, fun odd => ⟨?_, ?_⟩, fun settled odd enabled => ⟨?_, ?_⟩, fun bad => ⟨?_, fun form => ?_⟩,
      fun bad => ⟨?_, fun valid => ?_⟩⟩
    · exact (floatD_misaligned fp odd i hi).goes
    · exact (floatX_misaligned fp odd i hi).goes
    · exact (floatDU_misaligned fp base odd i hi).goes
    · exact (floatXU_misaligned fp base odd i hi).goes
    · exact (stmw_misaligned bad).goes
    · exact (lmw_misaligned bad form).goes
    · exact (lwarx_misaligned odd).goes
    · exact (stwcxRc_misaligned odd).goes
    · exact (misaligned_encX rfl ((eciwx_eq s r rA rB).trans (externalControl_odd settled odd enabled))).goes
    · exact (misaligned_encX rfl ((ecowx_eq s r rA rB).trans (externalControl_odd settled odd enabled))).goes
    · exact (stswi_misaligned bad).goes
    · exact (lswi_misaligned bad form).goes
    · exact (stswx_misaligned bad).goes
    · exact (lswx_misaligned bad valid).goes
  · refine ⟨fun virtual ready none direct => ⟨?_, ?_⟩, fun u => ⟨?_, ?_, ?_, ?_⟩, fun crosses u v first none second => ?_,
      fun block mode _ u pa wimg => ⟨fun enabled translated => ?_, fun enabled translated => ?_⟩⟩
    · exact loads_violation settled (translate_direct (by decide) settled virtual ready none direct true)
    · exact stores_violation settled (translate_direct (by decide) settled virtual ready none direct true)
    · exact loads_violation settled
    · exact loads_violation settled
    · exact stores_violation settled
    · exact stores_violation settled
    · have start := secondPage_start (eaD s rA d)
      have two_pages : pageOf (lastEa (eaD s rA d) 4) ≠ pageOf (eaD s rA d) := by
        intro same
        have numbers := congrArg BitVec.toNat same
        rw [pageOf_toNat, pageOf_toNat, lastEa, BitVec.toNat_add, BitVec.toNat_ofNat] at numbers
        omega
      rw [← start] at second
      have ranks : dsiRank .directStore (byBat .load (pageOf (lastEa (eaD s rA d) 4) ++ (0 : BitVec 12)) u) <
          dsiRank .pageFault (byBat .load (eaD s rA d) u) := by
        have unmapped : byBat .load (eaD s rA d) u = false := by rw [byBat, none]; rfl
        rw [unmapped]
        exact (by decide : ∀ b, dsiRank .directStore b < dsiRank .pageFault false) _
      have access := dataAccess_second (part := true) (data := []) two_pages first second ranks
      rw [start] at access
      exact goes_next (translate_pc first ▸ takeDsi_entered _ _ u) (loadOp_exc settled access)
    · have side := translate_side .load (eaD s rA d) s
      rw [translated] at side
      exact loads_dsi settled (MemSide.pc side) fun _ within =>
        dataAccess_breakpoint within translated (MemSide.settled side settled) (dabrMatches_of side settled block mode enabled)
    · have side := translate_side .store (eaD s rA d) s
      rw [translated] at side
      exact stores_dsi settled (MemSide.pc side) fun _ _ within =>
        dataAccess_breakpoint within translated (MemSide.settled side settled) (dabrMatches_of side settled block mode enabled)
  · intro s u v settled env async untraced ahead big stays translated
    refine ⟨_, step_isi settled env async untraced ahead big stays translated, ?_⟩
    have pc : u.pc = s.pc := by
      have left := translate_side .fetch s.pc (envAdvance s)
      rw [translated] at left
      exact (MemSide.pc left).trans rfl
    cases v <;> exact pc ▸ takeException_entered _ _ _ u

end Sys2Proof.Machine
end
